-- ==== Sys2Proof/Word.lean ====
section
/-! DEFINITION. The widths the manual names (R10, R74) and the small data types that an operand of an
instruction or of an event carries. -/

namespace Sys2Proof

/-- One byte of memory (R10: data is little-endian). -/
abbrev Byte := BitVec 8
/-- A 32-bit register element (R15) or instruction word (R74). -/
abbrev Word := BitVec 32
/-- A 64-bit value: a k register (R19), an address (R40). -/
abbrev DWord := BitVec 64
/-- One bit per lane of a warp (R13). -/
abbrev Mask := BitVec 64
/-- An operand-code field of an instruction word (R78). -/
abbrev Code := BitVec 8

/-- The access kinds of `Translate` (R47, R299). -/
inductive Acc where
  | r | w | x | rmw
deriving DecidableEq, Repr

/-- What another device answers to a request of this one (R211, R212, R428, R429): nothing (this device
serves the request itself), the data, a confirmation, a denial, or a failure with its code, cause and AUX. -/
inductive RemoteReply where
  | here
  | data (bytes : List Byte)
  | confirmed
  | denied
  | failed (code : BitVec 16) (cause : BitVec 8) (aux : DWord)
deriving DecidableEq, Repr

/-- A GETX request that arrives from another device (R427 stages 2 and 3), with its recipient list and where the data land there. -/
structure XferReq where
  requester : Nat
  cred : BitVec 32
  window : Nat
  offset : DWord
  len : Nat
  recips : List Nat
  landWin : Nat
  dstOff : DWord
deriving DecidableEq, Repr

/-- A landing that arrives from another device (R427 stage 5). -/
structure Deposit where
  requester : Nat
  cred : BitVec 32
  window : Nat
  offset : DWord
  bytes : List Byte
deriving DecidableEq, Repr

/-- What a peer's access to a page that it maps of this device does (R429): it reads, writes bytes, or applies operation `o` of element
type `et` with an operand. -/
inductive PeerOp where
  | load
  | store (bytes : List Byte)
  | atomic (o et : Nat) (bytes : List Byte)
deriving DecidableEq, Repr

/-- A peer's access to a page that it maps of this device (R425, R429). -/
structure PeerAccess where
  requester : Nat
  cred : BitVec 32
  window : Nat
  offset : DWord
  len : Nat
  op : PeerOp
deriving DecidableEq, Repr

/-- A peer-mapped page's traffic: a peer's answer to an access of this device, or an access of a peer that arrives here (R429). -/
inductive PeerTraffic where
  | answer (r : RemoteReply)
  | arrives (a : PeerAccess)
deriving DecidableEq, Repr

/-- Where the host reads (R419, R420): an offset of BAR0, or of BAR2. -/
inductive HostPlace where
  | bar0 (off : Nat)
  | bar2 (off : Nat)
deriving DecidableEq, Repr

/-- Yew's verdict on a staged firmware image (R411: STATUS 3 and 4, or accepted). -/
inductive UpdVerdict where
  | accepted | badSignature | rollback
deriving DecidableEq, Repr

/-- What Tregrim does as a die's pool falls (R316): the die, and the watermark it sets first, if any. -/
structure Reclaim where
  die : Nat
  mark : Option Nat
deriving DecidableEq, Repr

/-- Who has a service performed (R308, R315, R317, R318): a guest, by the record of a system call, or Tregrim itself, for a context
and with what the call would have named. -/
inductive Asker (α : Type) where
  | call (c : Nat)
  | own (asid : BitVec 16) (arg : α)
deriving DecidableEq, Repr

/-- How Tregrim links shared sets (R307): the sets that it registers first, each with its id, the level of its linking entries and its
tables, and its stores into page tables. -/
structure LinkPlan where
  register : List (DWord × Nat × List Nat)
  tables : List (Nat × DWord)
deriving DecidableEq, Repr

/-- What Tregrim gives a new context beside its root table (R320, R443): sets registered before, its stores into page tables, the bytes
of the root RCB; linked sets, each with its base; the parts of bound images, each with its kind, address and bytes; and a queue: its
number, ring, SIZELOG2, PRIO and counter pair. -/
structure CtxPlan where
  register : List (DWord × Nat × List Nat)
  tables : List (Nat × DWord)
  rcbBytes : List Byte
  sets : List (DWord × DWord)
  images : List (Bool × Nat × List Byte)
  queue : Option (Nat × DWord × Nat × Nat × DWord)
deriving DecidableEq, Repr

end Sys2Proof
end

