-- ==== Sys2Proof/Config.lean ====
section
/-! DEFINITION. What the manual leaves open (INVENTORY.md, What the manual leaves open): free values, each a constant
with no body, so that nothing can be proved of what it is. -/

namespace Sys2Proof.Config

/-- ck that pass in the model's `n`-th step (R32; log entry 2). -/
opaque elapsed (n : Nat) : Nat

/-- Which of the two results next to the exact value RCP (0) or RSQ (1) gives for an input (R137; log entry 5). -/
opaque neighbourUp (fn : Nat) (wide : Bool) (bits : Nat) : Bool

/-- Where EXP2 (0), LOG2 (1), SIN (2), COS (3) or an ATTR division (4) lies within its stated error for its inputs
(R137, R250; log entry 5). -/
opaque ulpError (fn : Nat) (wide : Bool) (bits : List Nat) : Nat

/-- What a read of an address that no memory of the part backs delivers (log entry 6). -/
opaque holeByte (pa : Nat) : Byte

/-- The contents of Yew's replies that the manual names and does not compute (R406; log entry 7): `kind` names the
request and `input` what it carries. -/
opaque spdmBytes (kind : Nat) (input : List Nat) : List Byte

/-- A digest of Yew's (R405, R406; log entry 7). -/
opaque digest (index : Nat) : List Byte

/-- The serial choice among the lanes of one ATOMS group (R182; log entry 8). -/
opaque laneOrder (n : Nat) (lane : Nat) : Nat

/-- The order in which a merge adds the dies' partial copies (R72; log entry 8). -/
opaque mergeOrder (n : Nat) (die : Nat) : Nat

/-- A value that the manual leaves open and that nothing else of this file names (log entry 9): `n` is a counter of
the state, so that each use is a value of its own. -/
opaque free (n : Nat) : DWord

end Sys2Proof.Config
end

