-- ==== Sys2Proof/Syntax.lean ====
section
/-! DEFINITION. The instructions and events of the B-940 (R95, R105, R126, R150, R164, R197, R218, R239, R348, and the
table of operations and events): one constructor for each row of the opcode table. Fields are named and sized as the
encoding tables give them; an event's arguments name what it acts on and carry what comes from outside. The rows
without a field stand last. -/

namespace Sys2Proof

/-- One row of the opcode table. -/
inductive Instr where
  /-- R107: writes its 24-bit payload to the fragment's WMODE, subject to the field checks. -/
  | mode (w : BitVec 24)
  /-- R107: writes WMODE.GUARD of the executing fragment. -/
  | guard (g : BitVec 4)
  /-- R110: branches the active lanes to the target and splits the fragment when only some lanes go. -/
  | bra (o : BitVec 24)
  /-- R117: checks the index bound, reads a jump table and splits the fragment by the lanes' targets. -/
  | brx (d : Code) (a : Code) (b : Code)
  /-- R119: pushes the return entry below k47, then branches the calling lanes and opens a join record at the return address. -/
  | call (o : BitVec 24)
  /-- R113: pairs with the following branch; if the branch splits, the pair opens a join record at the target. -/
  | join (o : BitVec 24)
  /-- R123: raises BREAKPOINT for the active lanes, or stops the warp for debug when the region's debug flag is set. -/
  | bkpt (id : BitVec 16)
  /-- R255: raises USER_TRAP with the code placed in SFADDR. -/
  | trap (c : BitVec 16)
  /-- R131: adds A and B per sub-element under ETYPE, with saturation or rounding. -/
  | add (d : Code) (a : Code) (b : Code)
  /-- R131: subtracts B from A per sub-element. -/
  | sub (d : Code) (a : Code) (b : Code)
  /-- R131: multiplies A by B per sub-element. -/
  | mul (d : Code) (a : Code) (b : Code)
  /-- R131: writes the high half of the exact integer product. -/
  | mulh (d : Code) (a : Code) (b : Code)
  /-- R131: computes a × b + c with a single rounding into D. -/
  | mac (d : Code) (a : Code) (b : Code)
  /-- R131: writes the smaller value per sub-element. -/
  | min (d : Code) (a : Code) (b : Code)
  /-- R131: writes the larger value per sub-element. -/
  | max (d : Code) (a : Code) (b : Code)
  /-- R131: writes the absolute value per sub-element. -/
  | abs (d : Code) (a : Code)
  /-- R131: writes the negated value per sub-element. -/
  | neg (d : Code) (a : Code)
  /-- R135: compares A with B and writes one predicate bit per active lane. -/
  | cmp (c : BitVec 4) (n : BitVec 1) (p : BitVec 3) (a : Code) (b : Code)
  /-- R134: accumulates the exact dot product of packed sub-elements into a 32-bit D. -/
  | dot4 (d : Code) (a : Code) (b : Code)
  /-- R133: adds with carry in and carry out through p6. -/
  | addx (d : Code) (a : Code) (b : Code)
  /-- R136: selects A where pn is set and B elsewhere. -/
  | sel (n : BitVec 3) (d : Code) (a : Code) (b : Code)
  /-- R132: divides A by B per sub-element. -/
  | div (d : Code) (a : Code) (b : Code)
  /-- R137: computes the reciprocal. -/
  | rcp (d : Code) (a : Code)
  /-- R137: computes the reciprocal square root. -/
  | rsq (d : Code) (a : Code)
  /-- R137: computes the correctly rounded square root. -/
  | sqrt (d : Code) (a : Code)
  /-- R137: computes 2 to the power a. -/
  | exp2 (d : Code) (a : Code)
  /-- R137: computes the base-2 logarithm. -/
  | log2 (d : Code) (a : Code)
  /-- R137: computes the sine of a value in radians. -/
  | sin (d : Code) (a : Code)
  /-- R137: computes the cosine of a value in radians. -/
  | cos (d : Code) (a : Code)
  /-- R139: rounds to an integral value in the same format. -/
  | rint (d : Code) (a : Code)
  /-- R140: writes the floating-point class number of each sub-element. -/
  | classify (d : Code) (a : Code)
  /-- R141: computes a × 2^k with one rounding. -/
  | scale (d : Code) (a : Code) (b : Code)
  /-- R142: bitwise AND. -/
  | and (d : Code) (a : Code) (b : Code)
  /-- R142: bitwise OR. -/
  | or (d : Code) (a : Code) (b : Code)
  /-- R142: bitwise XOR. -/
  | xor (d : Code) (a : Code) (b : Code)
  /-- R142: bitwise NOT. -/
  | not (d : Code) (a : Code)
  /-- R142: shifts each sub-element left. -/
  | shl (d : Code) (a : Code) (b : Code)
  /-- R142: shifts each sub-element right, arithmetically for signed types. -/
  | shr (d : Code) (a : Code) (b : Code)
  /-- R142: rotates each sub-element left. -/
  | rot (d : Code) (a : Code) (b : Code)
  /-- R143: extracts a bit field. -/
  | bfx (d : Code) (a : Code) (b : Code)
  /-- R143: inserts a bit field into D. -/
  | bfi (d : Code) (a : Code) (b : Code)
  /-- R144: counts the one bits of each sub-element. -/
  | popc (d : Code) (a : Code)
  /-- R144: counts the leading zero bits of each sub-element. -/
  | clz (d : Code) (a : Code)
  /-- R144: reverses the bit order of each sub-element. -/
  | brev (d : Code) (a : Code)
  /-- R145: builds D from bytes of A and of the old D, chosen by selector nibbles. -/
  | perm (d : Code) (a : Code) (b : Code)
  /-- R146: writes the fixed 32-bit hash of A keyed by B. -/
  | hash (d : Code) (a : Code) (b : Code)
  /-- R147: converts A to the target type, packing into or unpacking from parts. -/
  | cvt (d : Code) (a : Code) (r : BitVec 1) (h : BitVec 2) (t : BitVec 5)
  /-- R153: gives each lane the value of a chosen lane within its segment. -/
  | shflPick (d : Code) (a : Code) (b : Code)
  /-- R153: gives each lane the value of the lane N below it in its segment. -/
  | shflLow (d : Code) (a : Code) (b : Code)
  /-- R153: gives each lane the value of the lane N above it in its segment. -/
  | shflHigh (d : Code) (a : Code) (b : Code)
  /-- R153: gives each lane the value of the lane whose index differs by an XOR mask. -/
  | shflFlip (d : Code) (a : Code) (b : Code)
  /-- R154: writes 1 in each active lane when the source bit is set in any active lane. -/
  | voteAny (p : BitVec 3) (n : BitVec 1) (q : BitVec 3)
  /-- R154: writes 1 in each active lane when the source bit is set in every active lane. -/
  | voteAll (p : BitVec 3) (n : BitVec 1) (q : BitVec 3)
  /-- R154: writes the 64-bit mask of active lanes whose source bit is set. -/
  | voteBallot (d : Code) (n : BitVec 1) (q : BitVec 3)
  /-- R155: writes to each lane the mask of active lanes holding an equal value, and optionally marks the group leaders. -/
  | matchLanes (d : Code) (a : Code) (l : BitVec 1) (p : BitVec 3)
  /-- R156: combines the active lanes' values into one result. -/
  | redux (d : Code) (a : Code) (o : BitVec 3)
  /-- R156: writes the inclusive or exclusive prefix combination over the active lanes. -/
  | scan (d : Code) (a : Code) (e : BitVec 1) (o : BitVec 3)
  /-- R157: sets the predicate in the lowest active lane only. -/
  | elect (p : BitVec 3)
  /-- R158: writes one lane value to a k register, trapping NONUNIFORM unless FIRST is set. -/
  | kget (d : Code) (a : Code) (f : BitVec 1)
  /-- R254: reads the selected special register into D. -/
  | sreg (d : Code) (sel : Code)
  /-- R159: adds two uniform 64-bit values. -/
  | kadd (d : Code) (a : Code) (b : Code)
  /-- R159: subtracts two uniform 64-bit values. -/
  | ksub (d : Code) (a : Code) (b : Code)
  /-- R159: multiplies two uniform values, low 64 bits. -/
  | kmul (d : Code) (a : Code) (b : Code)
  /-- R159: uniform bitwise AND. -/
  | kand (d : Code) (a : Code) (b : Code)
  /-- R159: uniform bitwise OR. -/
  | kor (d : Code) (a : Code) (b : Code)
  /-- R159: uniform bitwise XOR. -/
  | kxor (d : Code) (a : Code) (b : Code)
  /-- R159: uniform shift left. -/
  | kshl (d : Code) (a : Code) (b : Code)
  /-- R159: uniform logical shift right. -/
  | kshr (d : Code) (a : Code) (b : Code)
  /-- R159: copies a uniform value. -/
  | kmov (d : Code) (a : Code)
  /-- R160: compares two uniform values and writes the bit to every lane of the fragment. -/
  | kcmp (c : BitVec 4) (p : BitVec 3) (a : Code) (b : Code)
  /-- R159: selects a or b by a guard that must be uniform over the fragment. -/
  | ksel (d : Code) (a : Code) (b : Code)
  /-- R161: loads 8 bytes from global memory into a k register once per group. -/
  | kld (d : Code) (a : Code) (b : Code)
  /-- R169: loads one byte per lane from global memory. -/
  | ld8 (d : Code) (a : Code) (b : Code)
  /-- R169: loads two bytes per lane from global memory. -/
  | ld16 (d : Code) (a : Code) (b : Code)
  /-- R169: loads a 32- or 64-bit element per lane from global memory. -/
  | ld (d : Code) (a : Code) (b : Code)
  /-- R169: loads 16 bytes per lane into four registers. -/
  | ldq (d : Code) (a : Code) (b : Code)
  /-- R169: stores one byte per lane. -/
  | st8 (d : Code) (a : Code) (b : Code)
  /-- R169: stores two bytes per lane. -/
  | st16 (d : Code) (a : Code) (b : Code)
  /-- R169: stores a 32- or 64-bit element per lane. -/
  | st (d : Code) (a : Code) (b : Code)
  /-- R169: stores 16 bytes per lane from four registers. -/
  | stq (d : Code) (a : Code) (b : Code)
  /-- R173: loads the value at the line's home without installing a copy. -/
  | ldnc (d : Code) (a : Code) (b : Code)
  /-- R173: loads, then acquires by self-invalidating the words the cluster does not own. -/
  | lda (d : Code) (a : Code) (b : Code)
  /-- R173: releases, then stores. -/
  | stl (d : Code) (a : Code) (b : Code)
  /-- R177: loads from the workgroup's core SRAM. -/
  | lds (d : Code) (a : Code) (z : BitVec 3)
  /-- R177: stores to the workgroup's core SRAM. -/
  | sts (d : Code) (a : Code) (z : BitVec 3)
  /-- R174: holds the next group until the selected release and acquire effects are done. -/
  | fence (t : BitVec 1) (im : BitVec 1) (sr : BitVec 1) (gl : BitVec 1) (rel : BitVec 1) (acq : BitVec 1)
  /-- R176: hints that lines be brought to a cache level, with no architectural effect. -/
  | pref (l : BitVec 2) (a : Code) (b : Code)
  /-- R181: performs an atomic operation at the home of a global word and returns the old value. -/
  | atom (d : Code) (a : Code) (o : BitVec 3)
  /-- R183: applies a reduction at the word's home or to the die's commutative partial copy, returning nothing. -/
  | red (d : Code) (a : Code) (o : BitVec 3)
  /-- R181: performs an atomic operation on a core-SRAM word. -/
  | atoms (d : Code) (a : Code) (o : BitVec 3)
  /-- R188: compares and swaps up to eight scattered words as one indivisible event per lane. -/
  | mcas (d : Code) (a : Code) (p : BitVec 3)
  /-- R192: marks the generator's block FAILED with a code and faults its waiters. -/
  | fillfail (c : BitVec 16)
  /-- R201: releases, then adds an increment to a counter, saturating at the maximum. -/
  | cadd (d : Code) (a : Code) (b : Code)
  /-- R202: waits until a counter reaches a target, then acquires. -/
  | cwait (d : Code) (a : Code) (b : Code)
  /-- R204: arrives at a workgroup barrier and waits for the generation to complete. -/
  | bar (c : Code) (n : BitVec 3)
  /-- R205: arrives at a grid barrier of a co-resident launch. -/
  | gbar (n : BitVec 2)
  /-- R207: releases, then submits one copy descriptor per lane to a copy engine. -/
  | cpy (a : Code)
  /-- R209: submits copies and waits for them, resuming at the continuation PC on success. -/
  | cpyY (a : Code) (b : Code)
  /-- R211: submits a redirected read whose data is delivered to a recipient device or group. -/
  | getx (a : Code)
  /-- R211: submits a remote write of local data to a recipient device or group. -/
  | putx (a : Code)
  /-- R213: releases, then writes a register of another warp of the cluster and steps its arrival counter. -/
  | rwr (d : Code) (a : Code) (b : Code)
  /-- R214: asks the distributor for one more workgroup of a persistent launch. -/
  | fetchw (a : Code)
  /-- R215: raises the warp's register quota, waiting or trying once. -/
  | racq (t : BitVec 1) (p : BitVec 3) (n : BitVec 16)
  /-- R215: lowers the warp's register quota after outstanding writes complete. -/
  | rrel (n : BitVec 16)
  /-- R215: raises the warp's tile quota, waiting or trying once. -/
  | tacq (t : BitVec 1) (p : BitVec 3) (n : BitVec 16)
  /-- R215: lowers the warp's tile quota after F clears, discarding shadows. -/
  | trel (n : BitVec 16)
  /-- R257: releases, submits a call block to Tregrim per lane and waits for the replies. -/
  | sysc (d : Code) (a : Code) (b : Code)
  /-- R225: runs a 64×64 matrix multiply-accumulate into a tile on the matrix engine. -/
  | mma (c : BitVec 1) (f : BitVec 4) (t : BitVec 3) (a : Code) (b : Code)
  /-- R229: runs a matrix multiply-accumulate into the tile's speculative shadow. -/
  | mmas (c : BitVec 1) (f : BitVec 4) (t : BitVec 3) (a : Code) (b : Code)
  /-- R230: makes each named tile's live shadow the tile. -/
  | mcommit (m : Code)
  /-- R230: discards each named tile's live shadow. -/
  | mdiscard (m : Code)
  /-- R232: loads tile rows or columns from global memory. -/
  | tld (c : BitVec 1) (t : BitVec 3) (a : Code) (b : Code)
  /-- R232: stores tile rows or columns to global memory. -/
  | tst (c : BitVec 1) (t : BitVec 3) (a : Code) (b : Code)
  /-- R234: writes +0 to every element of each named tile. -/
  | tzero (m : Code)
  /-- R236: converts a whole tile between accumulator formats with an optional scale. -/
  | tcvt (f : BitVec 2) (o : BitVec 2) (d : BitVec 3) (src : BitVec 3) (b : Code)
  /-- R235: moves raw elements between tiles and vector registers or between tiles. -/
  | tmov (d : Code) (a : Code) (r : BitVec 2) (t : BitVec 1) (g : BitVec 3)
  /-- R234: fills rows or columns of a tile with each lane's value. -/
  | tfill (t : BitVec 3) (a : Code) (c : BitVec 1)
  /-- R233: loads tile rows or columns from core SRAM. -/
  | tldS (c : BitVec 1) (t : BitVec 3) (a : Code)
  /-- R233: stores tile rows or columns to core SRAM. -/
  | tstS (c : BitVec 1) (t : BitVec 3) (a : Code)
  /-- R242: samples an image at each lane's coordinates through the texture unit. -/
  | tex (d : Code) (a : Code) (b : Code)
  /-- R245: decodes a neural material at each lane's coordinates. -/
  | texn (d : Code) (a : Code) (b : Code)
  /-- R243: writes the sizes of an image level. -/
  | texq (d : Code) (a : Code) (b : Code)
  /-- R247: submits one ray per active lane to the traversal unit in a result slot. -/
  | trace (q : BitVec 2) (a : Code) (b : Code)
  /-- R249: waits for a slot's traversals to end and writes the hit record. -/
  | trres (d : Code) (q : BitVec 2)
  /-- R251: emits one primitive per active lane to the binning unit. -/
  | prim (a : Code)
  /-- R250: writes a vertex attribute slot, or reads an interpolated fragment attribute. -/
  | attr (d : Code) (w : BitVec 1) (interp : BitVec 2) (n : BitVec 5)
  /-- R252: records a colour or depth export, and with DONE completes the lane's fragment. -/
  | expf (t : BitVec 4) (a : Code) (n : BitVec 1)
  /-- R259: reads a solo control register in solo mode. -/
  | csrr (d : Code) (c : BitVec 16)
  /-- R259: writes a solo control register in solo mode. -/
  | csrw (d : Code) (c : BitVec 16)
  /-- R263: invalidates translations package-wide and waits for their accesses. -/
  | tlbi (a : Code) (b : Code)
  /-- R262: reads a frozen lane's register element into a handler register. -/
  | vget (d : Code) (a : Code) (b : Code)
  /-- R262: writes a frozen lane's register element. -/
  | vset (d : Code) (a : Code) (b : Code)
  /-- R264: makes the parked fragments of a named warp ready and counts them. -/
  | wake (d : Code) (a : Code)
  /-- R265: posts the handler's state to the region's upcall mailbox and waits for the reply. -/
  | upcall (svc : BitVec 16)
  /-- R349: service-core instruction that reads a spawn record and submits a launch of single-warp workgroups. -/
  | psvSpawn (rd : BitVec 5) (r1 : BitVec 5) (r2 : BitVec 5)
  /-- R351: service-core instruction that waits until a counter reaches a value, then acquires. -/
  | psvCwait (rd : BitVec 5) (r1 : BitVec 5) (r2 : BitVec 5)
  /-- R91: A chain group held more than 4 ck forces the warp off its slot and invalidates the latches. -/
  | latchChainForceOff (w : Nat)
  /-- R193: A load's data arrives, is written to its destination and frees the in-flight slot. -/
  | loadDataReturn (op : Nat) (lane : Nat)
  /-- R276: A store is registered at its home slice, recording ownership and invalidating the former owner's copies. -/
  | storeRegistration (op : Nat) (lane : Nat)
  /-- R185: A request at a line's home is served after engine recall, MCAS lock waits and merge. -/
  | homeRequestService (op : Nat) (lane : Nat)
  /-- R183: A reduction arriving at its home slice is applied to the issuing die's partial copy or at home. -/
  | redPartialUpdate (op : Nat) (lane : Nat)
  /-- R188: when its last line lock is taken, an MCAS lane compares and writes all entries or none. -/
  | mcasLaneEvent (op : Nat) (lane : Nat)
  /-- R311: A queued fill request launches its generator warp once backing and budget allow. -/
  | generatorLaunch (leader : Nat) (stock : List Nat)
  /-- R312: A requester that found the waiter table full presents its access again after 256 ck. -/
  | fillWaiterRetry (op : Nat) (lane : Nat)
  /-- R316: A die's pool below the watermark evicts FILLED reclaimable blocks, least recently filled first. -/
  | pressureReclaim (die : Reclaim)
  /-- R300: A walker reads the page tables for a miss and applies the translation checks in order. -/
  | pageWalk (asid : BitVec 16) (va : DWord) (acc : Acc)
  /-- R297: tregrim maps the missing page and the parked access replays, or declines with TRANSLATION. -/
  | translationMissResolve (asid : BitVec 16) (va : DWord) (plan : Option (List (Nat × DWord)))
  /-- R305: tregrim copies a COW page, rewrites the leaf, shoots down and replays merged lanes. -/
  | copyOnWrite (asid : BitVec 16) (va : DWord) (page : Option Nat) (plan : List (Nat × DWord))
  /-- R203: A change to a watched counter makes each fragment whose target is met ready. -/
  | watchWake (w : Nat) (e : Nat)
  /-- R203: A waiter without a watch entry re-reads its counter every 256 ck. -/
  | watchPoll (w : Nat) (e : Nat)
  /-- R361: A barrier generation open for BARTMO posts a record for each waiting warp. -/
  | barTimeout (lid : Nat) (wg : Nat) (grid : Bool) (n : Nat)
  /-- R208: A copy engine reads and writes the elements of an accepted copy, stopping at a fault. -/
  | copyEngineCopy (job : Nat)
  /-- R208: when every destination write is registered, the engine adds CINC to the completion counter. -/
  | copyCompletion (job : Nat)
  /-- R427: the owner checks READ, reads the source and sends one copy of the data to each recipient. -/
  | transferSourceRead (x : Nat) (foreign : Option XferReq) (reply : RemoteReply)
  /-- R427: A recipient checks DEPOSIT, writes the bytes, steps LANDCNT and confirms. -/
  | transferLanding (x : Nat) (dev : Nat) (foreign : Option Deposit) (reply : RemoteReply)
  /-- R211: when every recipient has confirmed, the requester steps ACK. -/
  | transferConfirm (x : Nat)
  /-- R428: A transfer or peer access unanswered within PTMO posts REMOTE_UNREACHABLE. -/
  | peerTimeout (x : Nat) (lane : Option Nat)
  /-- R429: an access through a peer-mapped page is checked and served at the peer's home. -/
  | peerPageAccess (op : Nat) (lane : Nat) (traffic : PeerTraffic)
  /-- R213: A remote register write lands between the target's groups and steps its arrival counter. -/
  | rwrLanding (x : Nat)
  /-- R214: the distributor writes a withdrawn workgroup's index, or exhaustion, into the mailbox. -/
  | fetchwReply (lid : Nat) (wg : Nat)
  /-- R257: tregrim's reply to a submitted call is written to the lane and the acquire performed. -/
  | syscReply (op : Nat) (lane : Nat)
  /-- R257: after a service restart loses a reply, the saved copy of the call is submitted again. -/
  | syscResubmit (op : Nat) (lane : Nat)
  /-- R402: the service sets DONE; the handler acquires it and receives status and value. -/
  | upcallReply (w : Nat)
  /-- R242: A texture or neural-material result is written to the lanes' registers. -/
  | textureResult (op : Nat)
  /-- R247: A ray's traversal ends and its hit record is held in its slot. -/
  | rayTraversalEnd (w : Nat) (slot : Nat) (lane : Nat)
  /-- R228: an accepted MMA writes its accumulator and clears F. -/
  | mmaCompletion (op : Nat)
  /-- R232: A TLD or TST finishes its rows, clearing F or freeing its slot. -/
  | tileMoveCompletion (op : Nat)
  /-- R436: the tile port writes the last element of a TZERO, TFILL, TMOV or MCOMMIT group, clearing its record. -/
  | tilePortCompletion (op : Nat)
  /-- R216: A waiting register or tile acquisition is granted in arrival order. -/
  | acquisitionGrant (core : Nat)
  /-- R229: A waiting MMAS receives its shadow tile and replays. -/
  | shadowGrant (core : Nat)
  /-- R375: A geometry warp's primitives receive PRIMSEQ values once it and all earlier warps have exited. -/
  | primitiveCommit (lid : Nat)
  /-- R376: A full bin arena causes the owning clusters to replay their bins and empties the arena. -/
  | binArenaReplay (lid : Nat)
  /-- R379: A cluster's raster pipeline groups covered quads of a bin into a fragment warp and launches it. -/
  | fragmentWarpLaunch (lid : Nat) (binx : Nat) (biny : Nat)
  /-- R382: A completed fragment retires in PRIMSEQ order, testing depth and blending colour. -/
  | fragmentRetire (lid : Nat) (px : Nat) (py : Nat)
  /-- R331: A front end wakes on a TAIL change, acquires it and consumes the new packets. -/
  | tailWake (q : Nat)
  /-- R336: A launch packet is resolved and handed to Hawthorn, or rejected. -/
  | launchPacket (q : Nat)
  /-- R338: A TYPE 2 packet runs its prologue on the front end, which chooses to launch, cancel or repeat. -/
  | twoStageLaunch (q : Nat)
  /-- R338: after the previous launch is accepted, the prologue runs again with the repeat count. -/
  | prologueRepeat (q : Nat)
  /-- R338: A prologue that issues more than 65,536 groups is rejected with cause 9. -/
  | prologueGroupLimit (fe : Nat)
  /-- R334: after earlier packets complete, the front end adds INC to a counter as a release. -/
  | signal (q : Nat)
  /-- R334: the queue waits until a counter reaches its target. -/
  | wait (q : Nat)
  /-- R334: the waited counter reaches its target and the queue resumes with an acquire. -/
  | waitMet (q : Nat)
  /-- R334: step 0 of WRITESIGNAL stores VALUE at ADDR after earlier packets complete. -/
  | writesignalStore (q : Nat)
  /-- R370: step 1 of WRITESIGNAL steps the counter and commits the queue copy in one MCAS. -/
  | writesignalSignal (q : Nat)
  /-- R332: A queue's time slice elapses while another queue is runnable, and the front end switches. -/
  | quantumExpiry (fe : Nat)
  /-- R372: A front end that commits nothing for 1 ms is reset and resumes from its committed copies. -/
  | frontEndWatchdog (fe : Nat)
  /-- R335: when every workgroup has exited and its writes are registered, DONE is stepped as a release. -/
  | launchCompletion (lid : Nat)
  /-- R339: hawthorn sends a workgroup to a Privet leaf, which places it on a core or refuses. -/
  | place (lid : Nat)
  /-- R339: A leaf's placed or refused reply returns a send permit to Hawthorn. -/
  | placeReply (cluster : Nat)
  /-- R362: pre-emption of a workgroup begins, stopping every fragment at its next group boundary. -/
  | preemptionRequest (lid : Nat) (wg : Nat)
  /-- R362: once every warp has stopped, the pre-emption method is chosen. -/
  | preemptStopped (lid : Nat) (wg : Nat)
  /-- R363: A drain that outlasts its effective bound is converted to save or flush. -/
  | drainBoundExpiry (lid : Nat) (wg : Nat)
  /-- R365: outstanding operations complete and the workgroup's save image is written. -/
  | workgroupSave (lid : Nat) (wg : Nat) (area : Nat)
  /-- R364: outstanding operations complete, state is discarded and the workgroup returns to the unplaced set. -/
  | workgroupFlush (lid : Nat) (wg : Nat)
  /-- R365: A copy or reply finishing while the workgroup is saved is written into its image. -/
  | savedImageReplyWrite (lid : Nat) (wg : Nat) (wi : Nat) (lane : Nat)
  /-- R366: A saved workgroup is placed again and its fragments loaded. -/
  | workgroupRestore (lid : Nat) (wg : Nat)
  /-- R124: A debug-stopped warp is released and its fragments become ready. -/
  | debugRelease (w : Nat)
  /-- R320: tregrim creates a context with ASID, root table, RCB and queue. -/
  | contextCreate (asid : BitVec 16) (root : Nat) (rcb : DWord) (plan : CtxPlan)
  /-- R395: service call that allocates and maps memory with the given page size and home. -/
  | memalloc (c : Nat) (base : DWord) (plan : List (Nat × DWord))
  /-- R395: service call that unmaps an allocated range. -/
  | memfree (c : Nat) (plan : List (Nat × DWord))
  /-- R395: service call that changes rights, shooting down before the reply. -/
  | memprotect (c : Nat) (plan : List (Nat × DWord))
  /-- R308: service call that declares a quickset region and writes its EMPTY leaves. -/
  | qsdeclare (c : Asker (List Byte)) (stock : List Nat) (plan : List (Nat × DWord))
  /-- R317: service call that turns a FAILED block back into EMPTY. -/
  | qsrearm (c : Asker DWord)
  /-- R318: service call that withdraws a quickset region, failing its fills and unmapping it. -/
  | qswithdraw (c : Asker DWord)
  /-- R315: service call that evicts a block if it is FILLED. -/
  | qsevict (c : Asker DWord)
  /-- R432: service call that links a kernel image and maps its sections. -/
  | link (c : Nat) (code : DWord) (const : DWord) (kd : DWord) (plan : List (Nat × DWord))
  /-- R307: service call that links a shared page set into the context. -/
  | sharemap (c : Nat) (plan : LinkPlan)
  /-- R395: service call that creates a queue with its ring, counter pair and QCBs. -/
  | qcreate (c : Nat) (q : Nat) (ring : DWord) (plan : List (Nat × DWord))
  /-- R395: service call that destroys an empty queue. -/
  | qdestroy (c : Nat)
  /-- R395: service call that opens a TCP or UDP socket. -/
  | socket (c : Nat) (r : DWord)
  /-- R395: service call that binds a socket to an address. -/
  | bind (c : Nat) (r : DWord)
  /-- R395: service call that connects a socket to an address. -/
  | connect (c : Nat) (r : DWord)
  /-- R395: service call that sets a socket to listen. -/
  | listen (c : Nat) (r : DWord)
  /-- R395: service call that accepts a connection as a new socket. -/
  | accept (c : Nat) (r : DWord)
  /-- R398: service call that sends a buffer by lending its pages or copying. -/
  | send (c : Nat) (r : DWord)
  /-- R400: service call that maps received bytes read-only into the context. -/
  | recv (c : Nat) (r : DWord) (base : DWord) (bytes : List Byte) (plan : List (Nat × DWord))
  /-- R400: service call that unmaps a lent receive range. -/
  | returnRange (c : Nat) (plan : List (Nat × DWord))
  /-- R395: service call that closes a socket. -/
  | close (c : Nat)
  /-- R398: when the transport finishes with a sent buffer, the lend ends and the counter is stepped. -/
  | sendLendEnd (lend : Nat)
  /-- R393: A write to a control-space register with no behaviour of its own stores or is ignored. -/
  | deviceRegisterWrite (host : Bool) (addr : Nat) (v : DWord)
  /-- R416: A write of the power cap is clamped to between 100 W and the package limit. -/
  | pwrcapWrite (v : DWord)
  /-- R411: starts a firmware update: check, stop work, write handover image. -/
  | updctlGo (v : DWord) (verdict : Option UpdVerdict)
  /-- R415: A write of a capture monitor's control register, clearing or freezing it. -/
  | captureCtlWrite (m : Nat) (v : DWord)
  /-- R414: A power or temperature source is sampled every 1 ms into its monitors. -/
  | captureSample (src : Nat) (inst : Nat) (v : DWord)
  /-- R426: A window entry write applies to checks at once and completes after admitted requests finish. -/
  | windowEntryWrite (w : Nat) (j : Nat) (v : DWord)
  /-- R420: A host read through the aperture is served as a home load or refused. -/
  | hostApertureRead (place : HostPlace) (len : Nat)
  /-- R420: A host write through the aperture is registered as a release, or discarded. -/
  | hostApertureWrite (off : Nat) (bytes : List Byte)
  /-- R416: the island controller lowers or raises island clocks to keep power under the cap. -/
  | islandClockControl (island : Nat) (mhz : Nat)
  /-- R409: A die's DRAM wipe completes and its readiness bit is set. -/
  | dramWipeDone (die : Nat)
  /-- R406: SPDM request that settles on ML-DSA-65 and SHAKE256, or errors. -/
  | negotiateAlgorithms (mldsa : Bool) (shake : Bool)
  /-- R406: SPDM request answered with a certificate. -/
  | getCertificate (off : Nat) (len : Nat)
  /-- R406: SPDM challenge answered with a signed response. -/
  | challenge (nonce : List Byte)
  /-- R406: SPDM request answered with the firmware measurements. -/
  | getMeasurements (idx : Nat)
  /-- R407: A signed token advances the fused life-cycle state, wipes and resets. -/
  | lifeCycleChange (owner : Bool) (vendor : Bool) (target : BitVec 3)
  /-- R417: the board controller reads power, cap or temperature over MCTP on I3C. -/
  | i3cSensorRead (sensor : Nat)
  /-- R96: issue of a word whose opcode is 0x00 or unassigned, or whose reserved fields are nonzero, raises ILLEGAL_OP at its first word. -/
  | illegalOp (w : BitVec 32)
  /-- R336: tregrim restarts a halted queue by writing STATE 1 to its QCB copy, and the front end resumes it at its recorded STEP. -/
  | queueRestart (q : Nat)
  /-- R422: A UALink port, the PCIe peer path or the host link trains or loses training, changing PORTSTAT and the link's readiness. -/
  | linkTraining (port : Nat) (up : Bool)
  /-- R351: an interrupt taken during a waiting PSV.CWAIT leaves rd unwritten and sets epc to the PSV.CWAIT so it runs again. -/
  | serviceCoreInterrupt (core : Nat) (cause : DWord)
  /-- R108: does nothing, whatever the guard selects. -/
  | nop
  /-- R120: pops the return entry, checks its mask against the fragment and returns to RADDR. -/
  | ret
  /-- R121: removes the active lanes from the warp; the warp ends when no lane is live. -/
  | exit
  /-- R108: passes the warp over for the partition's next issue clock. -/
  | yield
  /-- R175: discards fetched words and invalidates the core's instruction cache. -/
  | ifence
  /-- R192: marks the generator's block FILLED as a release and releases its waiters. -/
  | filldone
  /-- R253: turns active lanes into helper lanes and discards their exports. -/
  | kill
  /-- R261: leaves solo mode, resuming, exiting lanes or escalating as RESUME says. -/
  | rett
  /-- R264: leaves the handler and parks the fragment until a WAKE. -/
  | park
  /-- R344: the standby Hawthorn takes over after 20 µs without an answer. -/
  | hawthornTakeover
  /-- R411: with handover ready, Yew resets and boots the new image, keeping preserved ranges. -/
  | updateReset
  /-- R405: A power-on, fundamental or hot reset wipes the device and runs the boot steps. -/
  | reset
  /-- R406: SPDM request answered by Yew with its version. -/
  | getVersion
  /-- R406: SPDM request answered with Yew's capabilities. -/
  | getCapabilities
  /-- R406: SPDM request answered with certificate digests. -/
  | getDigests
deriving DecidableEq, Repr

end Sys2Proof
end

