-- ==== Sys2Proof/Machine/State.lean ====
section
/-! DEFINITION. The state of the machine (INVENTORY.md, State): plain data that holds all the manual gives it.
A register file, a tile or a memory is a sparse list of (number, value) pairs in one canonical form
(Machine/Cells.lean); an entry that is not listed reads 0. -/

namespace Sys2Proof.Machine

/-- A sparse table: numbers strictly rising, no entry that holds the default value. -/
abbrev SMap (β : Type) := List (Nat × β)

/-- Why the machine stops. Every condition the manual gives a warp is a trap or a fault record, so one
reason is left, of a service core. -/
inductive Fault where
  /-- Raised by `step` when a service core's pc lies in no DRAM of the part, an address the manual gives no
  memory (R290). Safe: the core's fetch then has no meaning in the manual. -/
  | noMemory (pa : Nat)
deriving DecidableEq, Repr

/-- Why an instruction has no meaning here. -/
inductive Refusal where
  /-- Answered only by an arm of `exec` that rejects its instruction by name. Safe: the run ends. -/
  | notModelled (mnemonic : String)
  /-- Raised by `step` for a service core's word outside the custom-0 opcode of R348 and outside RV64I, M and A: its meaning is in
  the RISC-V manual, which this manual does not restate. Safe: the run ends. -/
  | rv64Base (word : Word)
deriving DecidableEq, Repr

/-- STATE of a split-table entry (R34). -/
inductive FragState where
  | ready | waiting | atJoin | trapped | debugStopped
deriving DecidableEq, Repr

/-- What a waiting fragment waits for (R34, R125, R366). `lanes` is an operation of its group whose lanes parked when the group
issued, `late` one whose lane parked afterwards, `poll` a waiter list that was full (R312); `refused` holds the trap that ends a wait
(R297, R313, R314): its code, CAUSE, address and AUX. -/
inductive Wait where
  | none
  | bar (n count : Nat)
  | gbar (n : Nat)
  | cwait (pa : Nat) (target : DWord) (d : Code) (next : DWord)
  | acquire (op : Nat)
  | shadow (op : Nat)
  | lanes (op : Nat)
  | late (op : Nat)
  | fill (leader : Nat) (va : DWord)
  | poll
  | refused (code cause : Nat) (addr aux : DWord)
  | page (asid : BitVec 16) (va : DWord) (acc : Acc)
  | cpyY (cont : DWord) (jobs : List Nat) (faulted : Bool)
  | sysc (op : Nat)
  | upcall (slot : DWord)
  | parked
  | held
deriving DecidableEq, Repr

/-- The issue group being issued (R81): address of its first word, its instruction word before any step, length in bytes, literal (R83), REP payload and index (R84),
join address of a join pair (R113), and whether a handler issues it. -/
structure Group where
  pc : DWord
  word : Word
  bytes : Nat
  lit : Option DWord
  rep : Option (BitVec 24)
  repIx : Nat
  join : Option DWord
  solo : Bool
deriving DecidableEq, Repr

/-- A split-table entry (R34). `jrec` none is the index 64; `lrpc` is some while a latch chain is open; `parkPend`
marks a fragment that a fault domain parks at its next group boundary (R360). `block` is the format block that a
repeated MMA read when its group issued, with the group's address (R221). `group` is a repeated group between two
repetitions, fetched and checked once (R88); `parkPc` the address of the group that parked when its park forced a chain
off (R91, R92). `holds` are the bytes, by address and number, that a group which parked as a whole is to read or write when it is
issued again: it keeps its place there (R286); `whole` says that it parked as a whole and replays for every active lane (R117). -/
structure Frag where
  mask : Mask
  pc : DWord
  wmode : BitVec 24
  state : FragState
  jrec : Option Nat
  repcnt : Nat
  lrpc : Option DWord
  wait : Wait
  pmask : Mask
  parkPend : Bool
  block : Option (DWord × BitVec 128)
  group : Option Group
  parkPc : Option DWord
  holds : List (DWord × Nat) := []
  whole : Bool := false
deriving DecidableEq, Repr

/-- A join record (R34). -/
structure JoinRec where
  addr : DWord
  union : Mask
  wmode : BitVec 24
  parent : Option Nat
deriving DecidableEq, Repr

/-- The state a trapped fragment's handler adds (R37, R258, R259). `entry` is the fragment's split-table entry; `aux` is what a
record of the trap holds in AUX (R358); `holds` is as for a fragment. -/
structure Solo where
  entry : Nat
  h : SMap DWord
  hp : BitVec 8
  pc : DWord
  wmode : BitVec 24
  trapPc : DWord
  trapCode : Word
  trapMask : Mask
  sfaddr : DWord
  repcnt : BitVec 7
  slrpc : DWord
  swmode : BitVec 24
  sstatus : DWord
  fragMask : Mask
  sfcause : Byte
  wait : Wait
  debugStopped : Bool
  aux : DWord
  holds : List (DWord × Nat) := []
deriving DecidableEq, Repr

/-- One traversal slot of one lane (R247, R249): the ray submitted and its hit record; `addr` is the address whose read
it is parked on, and `restarts` the restarts it had counted there (R248). -/
structure Ray where
  running : Bool
  parked : Option Nat
  addr : DWord
  words : List Word
  hit : List Word
  op : Nat
  restarts : Nat
deriving DecidableEq, Repr

/-- A primitive submitted by PRIM with the vertex slots of its lanes as they stood (R251, R376). -/
structure PrimOut where
  kind : Nat
  verts : List (SMap Word)
deriving DecidableEq, Repr

/-- An export recorded by EXPF (R252). -/
structure ExportOut where
  lane : Nat
  tgt : Nat
  vals : List Word
deriving DecidableEq, Repr

/-- A quad of a fragment warp: its primitive and its even pixel position (R379). -/
structure Quad where
  prim : Nat
  px : Nat
  py : Nat
deriving DecidableEq, Repr

/-- A group of an open latch chain that is held at issue (R91): its fragment's entry, the group, since when, and whether
its warp has been forced off its slot for it. -/
structure HeldGroup where
  entry : Nat
  grp : Group
  since : Nat
  off : Bool
deriving DecidableEq, Repr

/-- Warp kinds (R240, R338): a prologue runs on a front end as one scalar thread. -/
inductive WarpKind where
  | compute | geometry | fragment | prologue (fe : Nat)
deriving DecidableEq, Repr

/-- A warp (R13): the registers it owns, its split and join tables and its placement. `frag` is the fragment that
issues, in entry `fragIx`; `frags` holds the others by entry. Keys: v is 64 × register + lane; tiles and shadow are
4096 × tile + 64 × row + column; lat is 64 × latch + lane; vattr is 128 × lane + 4 × slot + word. `after` lists operations of
other warps that the warp's later accesses come after: those ahead of a barrier that released it (R273), and stores
that it has read (R270). -/
structure Warp where
  uid : Nat
  resident : Bool
  launch : Nat
  wg : Nat
  inWg : Nat
  core : Nat
  slot : Nat
  kind : WarpKind
  placed : Nat
  readySince : Nat
  quota : Nat
  tquota : Nat
  v : SMap Word
  k : SMap DWord
  p : SMap Mask
  lat : SMap DWord
  latValid : BitVec 4
  latUnread : BitVec 4
  chainLen : Nat
  tiles : SMap Word
  shadow : SMap Word
  tv : Byte
  td : Byte
  tf : Byte
  ts : Byte
  tpair : Byte
  frag : Frag
  fragIx : Nat
  frags : SMap Frag
  joins : SMap JoinRec
  svcPtr : Nat
  splitNext : Option Nat
  trapCode : Word
  trapMask : Mask
  arrival : DWord
  helper : Mask
  debug : Bool
  solo : Option Solo
  rays : SMap Ray
  vattr : SMap Word
  prims : List PrimOut
  exports : List ExportOut
  doneMask : Mask
  killed : Mask
  quads : List Quad
  cover : SMap Byte
  startLive : Mask
  fillOpen : Option Nat
  heldGrp : Option HeldGroup
  after : List Nat
deriving DecidableEq, Repr

/-- A barrier of a workgroup: generation, fixed count (0 none), whether COUNT 0 fixed it, warps arrived, and the
clock at which the generation opened and whether its timeout has been posted (R204, R361). -/
structure BarState where
  gen : Nat
  count : Nat
  byZero : Bool
  arrived : List Nat
  since : Nat
  timedOut : Bool
deriving DecidableEq, Repr

/-- A grid barrier as a workgroup holds it (R205, R367). -/
structure GBarState where
  gen : Nat
  arrived : Bool
  since : Nat
  timedOut : Bool
deriving DecidableEq, Repr

/-- A pending FETCHW request (R214). -/
structure FetchReq where
  mailbox : Nat
  seq : Nat
deriving DecidableEq, Repr

/-- Pre-emption states of a workgroup (R363). -/
inductive PreState where
  | running | stopping | draining | saving | flushing | saved
deriving DecidableEq, Repr

/-- A placed or saved workgroup (R13, R340, R362, R367). `forPrio` is the PRIO of the placement for which it is pre-empted
(R369). -/
structure Wg where
  launch : Nat
  idx : Nat
  core : Nat
  sramBase : Nat
  uids : List Nat
  bars : SMap BarState
  gbars : SMap GBarState
  fetch : List FetchReq
  seq : Nat
  retired : Nat
  eligible : Bool
  pre : PreState
  preSince : Nat
  placed : Nat
  image : Nat
  sramSize : Nat
  forPrio : Nat
deriving DecidableEq, Repr

/-- Effective items of one RCB of a launch's region path (R321, R322). -/
structure RegionItems where
  rcb : DWord
  warps : Nat
  rblk : Nat
  tileb : Nat
  sramKib : Nat
  mshare : Nat
  prio : Nat
  fdom : Nat
  pmeth : Nat
  drainpm : Nat
  flushpm : Nat
  pbound : Nat
  trapvec : DWord
  upcallmb : DWord
  faultq : DWord
  bartmo : Nat
  debug : Bool
  system : Bool
  deadline : Nat
deriving DecidableEq, Repr

/-- A kernel descriptor's fields (R327). -/
structure KernelDesc where
  entry : DWord
  const : DWord
  regs : Nat
  tiles : Nat
  nparam : Nat
  flags : Byte
  sram : Nat
  wgx : Nat
  wgy : Nat
  wgz : Nat
  warps : Nat
deriving DecidableEq, Repr

/-- An accepted launch (R333–R337, R349). `path` lists its region first and the root last; `clusters` are those that
have acquired for it (R334). `arrivals` are the blocks of arrival counters that are ready for workgroups to come, and `arrivalTry` the
next one (R33); `rest` says that the workgroups beyond INITIAL are placed in the ordinary way (R343), and `handoff` is the queue, packet
and repeat that it was handed off for (R371). -/
structure Launch where
  lid : Nat
  asid : BitVec 16
  kd : KernelDesc
  kdAddr : DWord
  path : List RegionItems
  gx : Nat
  gy : Nat
  gz : Nat
  gang : Bool
  persist : Bool
  geometry : Bool
  initial : Nat
  params : List DWord
  done : DWord
  queue : Option Nat
  hint : Nat
  unplaced : List Nat
  claimed : List Nat
  exited : List Nat
  join : DWord
  generator : Option Nat
  deadline : Option Nat
  arrivals : List DWord
  arrivalTry : DWord
  rest : Bool
  handoff : Option (Nat × Nat × Nat)
  killed : Bool
  complete : Bool
  clusters : List Nat
deriving DecidableEq, Repr

/-- A context (R13): its ASID, root page table (R292) and root RCB. -/
structure Ctx where
  asid : BitVec 16
  ptroot : Nat
  rootRcb : DWord
deriving DecidableEq, Repr

/-- How far one lane's request of an outstanding operation has come. -/
inductive Stage where
  | parkFill (leader : Nat)
  | parkPage (vpn : Nat)
  | retry (leader : Nat)
  | request
  | served
  | done
deriving DecidableEq, Repr

/-- One lane's request: virtual and physical address, stage, and in `val` the data it has received, until then the step in which it
left its warp; `since` is the clock at that time. -/
structure LaneReq where
  lane : Nat
  va : DWord
  pa : Nat
  stage : Stage
  val : BitVec 128
  aux : BitVec 128
  since : Nat := 0
deriving DecidableEq, Repr

/-- Flavours of a global load (R169, R173). -/
inductive LoadKind where
  | plain | nc | acq
deriving DecidableEq, Repr

/-- What an outstanding operation does. `et` is an ETYPE code; `mode` is 0 for TEX, 1 for TEXN and 2 for TEXQ; `onShadow` is some of an
MMAS, with the tiles whose shadow it takes (R229). -/
inductive OpKind where
  | load (flavour : LoadKind) (bytes : Nat) (signed wide : Bool) (dst : Code)
  | kload (dst : Code)
  | store (bytes : Nat) (release : Bool)
  | atom (o et : Nat) (dst : Code)
  | red (o et : Nat) (det : Bool)
  | cadd (dst : Code)
  | mcas (dst : Code) (pred : Nat)
  | tileLoad (tile : Nat) (col sram : Bool)
  | tileStore (tile : Nat) (col sram : Bool)
  | mma (fb : BitVec 128) (tile : Nat) (acc : Bool) (onShadow : Option Byte) (kx : Nat) (wmode : BitVec 24)
  | port (mask : Byte) (clearsF : Bool)
  | tex (mode : Nat) (dst : Code) (desc : DWord)
  | trace (slot : Nat)
  | copy | xfer | rwr | fetchw
  | sysc (dst : Code)
  | acquireRegs (n : Nat) (pred : Nat) (try_ : Bool)
  | acquireTiles (n : Nat) (pred : Nat) (try_ : Bool)
  | shadowReq (mask : Byte)
deriving DecidableEq, Repr

/-- An outstanding operation (R193): the warp and fragment that issued it and what it still holds. `data` and `data2`
are the registers or elements captured at issue, `bytes` the core-SRAM bytes an MMA read, the descriptor's bytes or the
copies of call blocks, with a 1 at 2^20 once a lane has posted a fault; `rep` is the repetition that issued it; `after` lists
the operations of other warps that come before it, as `Warp.after` did (R270, R273). -/
structure Op where
  id : Nat
  uid : Nat
  entry : Nat
  pc : DWord
  kind : OpKind
  lanes : List LaneReq
  data : SMap Word
  data2 : SMap Word
  bytes : SMap Byte
  core : Nat
  asid : BitVec 16
  launch : Nat
  sys : Bool
  rep : Nat
  after : List Nat
deriving DecidableEq, Repr

/-- An access of an agent without lanes of its own that waits for a page or a block (R297, R312): of a front end or of Tregrim (`who`
0), or of a transfer; `cluster` is the cluster whose miss table holds the wait. `refused` is the fault that ends it. -/
structure AgentWait where
  who : Nat
  asid : BitVec 16
  va : DWord
  acc : Acc
  leader : Option Nat
  refused : Option (Nat × Nat × DWord)
  cluster : Option Nat := none
deriving DecidableEq, Repr

/-- A counter step that the hardware owes (R213, R350): in a context's space or at a physical address; it ends an operation. `sys` is that
of a requester that USER does not bind (R299). -/
structure CounterStep where
  space : Option (BitVec 16)
  addr : Nat
  inc : Nat
  op : Option Nat
  sys : Bool := false
deriving DecidableEq, Repr

/-- A copy of a 128-byte line (R277, R280, R287): holder 0–191 the L1 of a core, 256 + c the cluster cache of cluster c,
512 + core a path cache, 1024 + core an instruction cache; `valid` has one bit a 4-byte word. -/
structure Copy where
  holder : Nat
  line : Nat
  valid : Word
  data : SMap Byte
deriving DecidableEq, Repr

/-- A line in commutative-update state (R183): its home (`homeOf`), whether it is pinned there (R298), its tag, and the marked
words of each die's partial copy, by 32 × die + word of the line. -/
structure CommLine where
  line : Nat
  home : Nat
  pinned : Bool
  o : Nat
  et : Nat
  parts : SMap DWord
deriving DecidableEq, Repr

/-- A cached translation (R301): one leaf, tagged by ASID; `vpn` and `pages` give the 4 KiB pages it covers. Its cache is that of a
partition (4 × core + partition), of a core (1024 + core) or of a cluster (2048 + cluster). -/
structure TlbEntry where
  cache : Nat
  asid : BitVec 16
  vpn : Nat
  pages : Nat
  leaf : DWord
deriving DecidableEq, Repr

/-- A declared quickset region (R308). -/
structure QRegion where
  asid : BitVec 16
  blkLog2 : Nat
  maxDepth : Nat
  reclaim : Bool
  rights : BitVec 4
  pageLog2 : Nat
  base : DWord
  size : Nat
  genKd : DWord
  genParam : DWord
  genRcb : DWord
deriving DecidableEq, Repr

/-- A FILLING block (R310–R313): the physical address of its leader entry, its depth, generator and backing, and the
leaders of the blocks its generator's lanes are parked on. -/
structure Fill where
  leader : Nat
  asid : BitVec 16
  block : DWord
  depth : Nat
  launch : Option Nat
  backing : List Nat
  edges : List Nat
  held : Bool
deriving DecidableEq, Repr

/-- A copy accepted by an engine (R206–R208). `dims` holds (COUNT, SSTRIDE, DSTRIDE), innermost first. -/
structure CopyJob where
  id : Nat
  cluster : Nat
  engine : Nat
  uid : Nat
  launch : Nat
  asid : BitVec 16
  core : Nat
  slot : Nat
  pc : DWord
  lane : Nat
  desc : DWord
  esize : Nat
  zero : Bool
  src : DWord
  dst : DWord
  cnt : DWord
  cinc : DWord
  dims : List (Nat × DWord × DWord)
  index : Nat
  written : Bool
  parked : Option Nat
deriving DecidableEq, Repr

/-- What a check of a window has admitted at this device (R425, R426): the window, the context, where the bytes lie there, and the
window's LANDCNT. -/
structure Admit where
  window : Nat
  asid : BitVec 16
  va : DWord
  cnt : DWord
deriving DecidableEq, Repr

/-- A write of a window entry that has been accepted and not completed (R426): the service core that made it, if one did, and the
transfers that had passed a check before it. -/
structure WindowWrite where
  window : Nat
  svc : Option Nat
  on : List Nat
deriving DecidableEq, Repr

/-- A record that waits to be posted into a ring (R185, R359). -/
structure Post where
  space : Option (BitVec 16)
  ring : Nat
  bytes : List Byte
deriving DecidableEq, Repr

/-- A host access to device memory that the link has delivered (R420): `bytes` is what a write brings. -/
structure HostAcc where
  off : Nat
  len : Nat
  bytes : Option (List Byte)
deriving DecidableEq, Repr

/-- A GETX or PUTX in progress (R210–R212, R427, R428). `admitted` is what has passed its check here and is not finished (R426),
`landed` says that its data are written and its counter still to be stepped. A `foreign` record is a peer's source read (`get`) or
landing at this device, of requester `owner`, or with `page` its access to a page that it maps of this device (R429). -/
structure Xfer where
  id : Nat
  uid : Nat
  launch : Nat
  asid : BitVec 16
  core : Nat
  slot : Nat
  pc : DWord
  lane : Nat
  get : Bool
  desc : DWord
  owner : Nat
  recips : List Nat
  expWin : Nat
  landWin : Nat
  src : DWord
  dstOff : DWord
  len : Nat
  ack : DWord
  cred : BitVec 32
  group : Option Nat
  since : Nat
  parked : Option Nat
  data : Option (List Byte)
  answered : List Nat
  confirmed : List Nat
  posted : Bool
  foreign : Bool
  admitted : Option Admit
  landed : Bool
  page : Option PeerOp := none
deriving DecidableEq, Repr

/-- A remote register write on its way (R213). -/
structure Rwr where
  id : Nat
  uid : Nat
  code : Code
  core : Nat
  slot : Nat
  lid48 : Nat
  wide : Bool
  mask : Mask
  vals : SMap DWord
  op : Nat
deriving DecidableEq, Repr

/-- A call record of Tregrim (R256, R257, R397): `subs` lists the operations and lanes that wait for the reply. -/
structure Call where
  id : Nat
  asid : BitVec 16
  callId : DWord
  nr : Nat
  args : List DWord
  token : Word
  result : Option DWord
  subs : List (Nat × Nat)
deriving DecidableEq, Repr

/-- A primitive that setup kept (R376, R377): PRIMSEQ, kind and vertices; `drawn` gives, by bin, how many of its quads
there have been taken. -/
structure BinPrim where
  seq : Nat
  kind : Nat
  verts : List (SMap Word)
  front : Bool
  drawn : List (Nat × Nat)
deriving DecidableEq, Repr

/-- A fragment in a blend unit's scoreboard (R382): pixel, PRIMSEQ, covered samples that still count, and whether it
has completed, been killed, with its exports. -/
structure FragRec where
  px : Nat
  py : Nat
  seq : Nat
  cover : Byte
  uid : Nat
  lane : Nat
  complete : Bool
  killed : Bool
  exports : List ExportOut
deriving DecidableEq, Repr

/-- A render pass (R374): the descriptor's bytes, primitives, fragments and statistics. `waiting` holds the geometry
warps that have exited and not committed, as workgroup, warp, lanes live at start and primitives; `committed` counts
those that have, and `reruns` are fragment warps to be placed again after a flush. -/
structure Pass where
  launch : Nat
  desc : SMap Byte
  committed : Nat
  nextSeq : Nat
  prims : List BinPrim
  arena : Nat
  frags : List FragRec
  waiting : List (Nat × Nat × Nat × List PrimOut)
  reruns : List Warp
  geoInv : Nat
  primSub : Nat
  primCull : Nat
  primBin : Nat
  fragInv : Nat
  occ : Nat
  replays : Nat
deriving DecidableEq, Repr

/-- A prologue in progress (R338), with what steps 1 and 2 of R336 found for its packet. -/
structure Prologue where
  queue : Nat
  rep : Nat
  groups : Nat
  kd : KernelDesc
  path : List RegionItems
deriving DecidableEq, Repr

/-- A launch front end (R332, R337, R338, R372): launches accepted, the queue it serves and since when, the clock of its
last commit, and its prologue. -/
structure Fe where
  count : Nat
  cur : Option Nat
  since : Nat
  commit : Nat
  prologue : Option Prologue
deriving DecidableEq, Repr

/-- A live MEMALLOC allocation (R395). -/
structure Alloc where
  asid : BitVec 16
  base : DWord
  bytes : Nat
  pageLog2 : Nat
  home : Nat
  homeId : Nat
  rights : BitVec 3
deriving DecidableEq, Repr

/-- A shared page set (R307): the level of the linking entries and the tables they name. -/
structure SharedSet where
  id : DWord
  level : Nat
  tables : List Nat
deriving DecidableEq, Repr

/-- A lend of SEND (R398): the 4 KiB pages lent, the leaves, by their addresses, whose W it took (`taken`) or that had none (`added`),
and the completion counter. -/
structure Lend where
  id : Nat
  asid : BitVec 16
  vpns : List Nat
  taken : List Nat
  added : List Nat
  counter : DWord
deriving DecidableEq, Repr

/-- A socket (R395). -/
structure Sock where
  id : DWord
  asid : BitVec 16
  udp : Bool
  nonblocking : Bool
deriving DecidableEq, Repr

/-- What Tregrim remembers for the stated results of its services (R304, R307, R395, R398, R400). -/
structure Treg where
  allocs : List Alloc
  sets : List SharedSet
  socks : List Sock
  lends : List Lend
  recvs : List (BitVec 16 × DWord × Nat)
deriving DecidableEq, Repr

/-- A service core (R348–R351, R392): privilege 0 U or VU, 1 S, 3 M; `waiting` says that a PSV.CWAIT is in progress, and `watch` names its counter's
place (R203, R351); `resv` is the reservation of an LR: a place, its bytes, and what they held (R392). -/
structure Svc where
  x : SMap DWord
  pc : DWord
  priv : Nat
  asid : BitVec 16
  waiting : Bool
  epc : DWord
  cause : DWord
  watch : Option Nat
  resv : Option (Nat × Nat × Nat)
deriving DecidableEq, Repr

/-- A capture monitor (R413). -/
structure Monitor where
  ctl : DWord
  binBase : DWord
  min : DWord
  max : DWord
  count : DWord
  sum : DWord
  bins : SMap Word
deriving DecidableEq, Repr

/-- SPDM negotiation of Yew (R406). -/
structure Spdm where
  versioned : Bool
  session : Bool
deriving DecidableEq, Repr

/-- A reply that leaves the device: what it answers, whether it is an error, and its bytes. The kind is 0x406 for SPDM,
0x407 for a life-cycle request, 0x417 for a sensor, 0x420 for a host access, 0x45 for bytes that leave through the Ethernet
ports (R398), and 0x100 to 0x102 for peers (R427). -/
structure Reply where
  kind : Nat
  error : Bool
  bytes : List Byte
deriving DecidableEq, Repr

/-- Who acts next: a partition, a front end's prologue, a service core, or the agent of an event. -/
inductive Turn where
  | part (p : Nat)
  | prologue (fe : Nat)
  | svc (c : Nat)
  | event (e : Instr)
deriving DecidableEq, Repr

/-- The machine. `warp` is the warp that issues, `warps` the other resident warps and `saved` those of saved workgroups (R365), which hold no resources;
`sramOwner` gives, by 2,048 × core + 384-byte unit, the ASID that last held a unit of core SRAM (R433); `stalled` says that the last
group was held at issue; `handover` is the address of the handover image of the last firmware update (R411, R412) and `measured` its bytes since the update reset
(R406); `mac` is the MAC address of Ethernet port 0 (R430). `headcs` are the queues' HEAD values that are still to be written to HEADC
(R331). `posts` are records that wait for their rings, `hostQueue` host accesses in the order of their delivery. `lastIssue` and `passed` give, by 4 × core + partition, the warp that issued last and the warp
that a YIELD passes over (R108, R345); `svcIx` is the service core that acts. `via` lists the translation caches that serve the
agent that acts (R301). `reclaiming` lists the dies whose pressure reclaim runs (R316). `leafSeq` and `leafOpen` give, by cluster, the last sequence number that its leaf has seen and the commands it
has not answered (R344). -/
structure State where
  warp : Warp
  warps : List Warp
  saved : List Warp
  grp : Group
  wgs : List Wg
  launches : List Launch
  ctxs : List Ctx
  mem : List Host.Cell
  sram : SMap Byte
  sramOwner : SMap Nat
  copies : List Copy
  owners : SMap Nat
  comm : List CommLine
  tlb : List TlbEntry
  via : List Nat
  agentWaits : List AgentWait
  steps : List CounterStep
  posts : List Post
  headcs : List (Nat × Nat)
  ops : List Op
  nextOp : Nat
  nextUid : Nat
  regions : List QRegion
  fills : List Fill
  pools : SMap (List Nat)
  watermark : SMap Nat
  reclaiming : List Nat
  filledOrder : List Nat
  copyJobs : List CopyJob
  xfers : List Xfer
  windowWrites : List WindowWrite
  hostQueue : List HostAcc
  rwrs : List Rwr
  calls : List Call
  passes : List Pass
  fes : SMap Fe
  permits : SMap Nat
  hawActive : Nat
  hawSeq : Nat
  leafSeq : SMap Nat
  leafOpen : SMap Nat
  gathering : Option Nat
  treg : Treg
  svcs : SMap Svc
  spdm : Spdm
  outbox : List Reply
  devcap : DWord
  unitcap : DWord
  sizecap : DWord
  mac : BitVec 48
  readyc : DWord
  readyf : DWord
  lcs : DWord
  qbase : DWord
  sfrbase : DWord
  sfrlost : DWord
  evlbase : DWord
  pwrcap : DWord
  pwrnow : DWord
  updaddr : DWord
  updctl : DWord
  monitors : SMap Monitor
  selfid : DWord
  ptmo : DWord
  portstat : DWord
  ports : SMap DWord
  temps : SMap Nat
  islandClk : SMap Nat
  rollback : Nat
  handover : Option Nat
  measured : Option (List Byte)
  clock : Nat
  ticks : Nat
  freeCtr : Nat
  agenda : List Turn
  stalled : Bool
  lastIssue : SMap Nat
  passed : SMap Nat
  svcIx : Nat
deriving DecidableEq, Repr

/-- A free split-table entry (R34). -/
def Frag.free : Frag where
  mask := 0
  pc := 0
  wmode := 0x000007
  state := .ready
  jrec := none
  repcnt := 0
  lrpc := none
  wait := .none
  pmask := 0
  parkPend := false
  block := Option.none
  group := Option.none
  parkPc := Option.none

/-- No warp: what `State.warp` holds while no warp has been selected. -/
def Warp.empty : Warp where
  uid := 0
  resident := false
  launch := 0
  wg := 0
  inWg := 0
  core := 0
  slot := 0
  kind := .compute
  placed := 0
  readySince := 0
  quota := 0
  tquota := 0
  v := []
  k := []
  p := []
  lat := []
  latValid := 0
  latUnread := 0
  chainLen := 0
  tiles := []
  shadow := []
  tv := 0
  td := 0
  tf := 0
  ts := 0
  tpair := 0
  frag := Frag.free
  fragIx := 0
  frags := []
  joins := []
  svcPtr := 0
  splitNext := Option.none
  trapCode := 0
  trapMask := 0
  arrival := 0
  helper := 0
  debug := false
  solo := Option.none
  rays := []
  vattr := []
  prims := []
  exports := []
  doneMask := 0
  killed := 0
  quads := []
  cover := []
  startLive := 0
  fillOpen := Option.none
  heldGrp := Option.none
  after := []

/-- No issue group. -/
def Group.empty : Group where
  pc := 0
  word := 0x01000000
  bytes := 4
  lit := Option.none
  rep := Option.none
  repIx := 0
  join := Option.none
  solo := false

/-- The machine right after reset: memories wiped (R408), registers at the reset values of R393, R407, R409 and
R422, the capability registers of a B-940 (R5–R7; log entry 1), nothing launched. -/
def State.reset : State where
  warp := Warp.empty
  warps := []
  saved := []
  grp := Group.empty
  wgs := []
  launches := []
  ctxs := []
  mem := []
  sram := []
  sramOwner := []
  copies := []
  owners := []
  comm := []
  tlb := []
  via := []
  agentWaits := []
  steps := []
  posts := []
  headcs := []
  ops := []
  nextOp := 0
  nextUid := 0
  regions := []
  fills := []
  pools := []
  watermark := []
  reclaiming := []
  filledOrder := []
  copyJobs := []
  xfers := []
  windowWrites := []
  hostQueue := []
  rwrs := []
  calls := []
  passes := []
  fes := []
  permits := []
  hawActive := 0
  hawSeq := 0
  leafSeq := []
  leafOpen := []
  gathering := none
  treg := { allocs := [], sets := [], socks := [], lends := [], recvs := [] }
  svcs := []
  spdm := { versioned := false, session := false }
  outbox := []
  devcap := 0x00000940_0F30C010
  unitcap := 0x00000000_000000FF
  sizecap := 0x00000180_01000C02
  mac := 0
  readyc := 0
  readyf := 0
  lcs := 0x9
  qbase := 0
  sfrbase := 0
  sfrlost := 0
  evlbase := 0
  pwrcap := 1900
  pwrnow := 0
  updaddr := 0
  updctl := 0
  monitors := []
  selfid := 0
  ptmo := 10000
  portstat := 0
  ports := []
  temps := []
  islandClk := []
  rollback := 0
  handover := none
  measured := none
  clock := 0
  ticks := 0
  freeCtr := 0
  agenda := []
  stalled := false
  lastIssue := []
  passed := []
  svcIx := 0

end Sys2Proof.Machine
end

