-- ==== Sys2Proof/Machine/Cells.lean ====
section
/-! DEFINITION. Sparse tables in canonical form, lane masks, and little-endian bytes. -/

namespace Sys2Proof.Machine

/-- The entry at `n`, if listed. -/
def SMap.find {β : Type} (n : Nat) : SMap β → Option β
  | [] => none
  | (k, b) :: m => if k = n then some b else SMap.find n m

/-- The value at `n`, `d` when not listed. -/
def SMap.getD {β : Type} (d : β) (m : SMap β) (n : Nat) : β := (SMap.find n m).getD d

/-- `m` without an entry at `n`. -/
def SMap.erase {β : Type} (n : Nat) (m : SMap β) : SMap β := m.filter fun e => e.1 != n

/-- `m` with the entry `b` at `n`, in rising order. -/
def SMap.insert {β : Type} (n : Nat) (b : β) : SMap β → SMap β
  | [] => [(n, b)]
  | (k, c) :: m =>
    if k = n then (n, b) :: m else if n < k then (n, b) :: (k, c) :: m else (k, c) :: SMap.insert n b m

/-- Writes `b` at `n`; writing the default `d` removes the entry, so that equal tables are equal data. -/
def SMap.put {β : Type} [DecidableEq β] (d : β) (m : SMap β) (n : Nat) (b : β) : SMap β :=
  if b = d then SMap.erase n m else SMap.insert n b m

/-- Numbers strictly rising, from `lo` on. -/
def SMap.rises {β : Type} : Nat → SMap β → Bool
  | _, [] => true
  | lo, (k, _) :: m => decide (lo ≤ k) && SMap.rises (k + 1) m

/-- The canonical form: rising, and no entry that holds the default. -/
def SMap.wf {β : Type} [DecidableEq β] (d : β) (m : SMap β) : Bool :=
  SMap.rises 0 m && m.all (fun e => decide (e.2 ≠ d))

/-- A register table read at `n`, 0 when not listed. -/
def rd {w : Nat} (m : SMap (BitVec w)) (n : Nat) : BitVec w := SMap.getD 0 m n

/-- A register table written at `n`. -/
def wr {w : Nat} (m : SMap (BitVec w)) (n : Nat) (x : BitVec w) : SMap (BitVec w) := SMap.put 0 m n x

/-- The 64 lanes in ascending order. -/
def allLanes : List Nat := List.range 64

/-- The lanes of a mask in ascending order. -/
def lanesOf (m : Mask) : List Nat := allLanes.filter (fun l => m.getLsbD l)

/-- The mask of the lanes that satisfy `f`. -/
def maskOf (f : Nat → Bool) : Mask := BitVec.ofBoolListLE (allLanes.map f) |>.setWidth 64

/-- The mask of one lane; the second part of a row that spans two pages is numbered 64 above its lane. -/
def laneBit (l : Nat) : Mask := 1#64 <<< (l % 64)

/-- The lowest lane of a mask. -/
def lowest (m : Mask) : Option Nat := allLanes.find? (fun l => m.getLsbD l)

/-- Runs `f` on the lanes of `m` in ascending order. -/
def forLanes {α : Type} (m : Mask) (f : Nat → α → α) (a : α) : α :=
  allLanes.foldl (fun a l => if m.getLsbD l then f l a else a) a

/-- Bits [hi:lo] of `x`, as a width-`n` value. -/
def bits {w : Nat} (x : BitVec w) (lo n : Nat) : BitVec n := x.extractLsb' lo n

/-- Bits [lo + n - 1 : lo] of `x` as a number. -/
def field {w : Nat} (x : BitVec w) (lo n : Nat) : Nat := (x.extractLsb' lo n).toNat

/-- Bit `n` of `x`. -/
def bit {w : Nat} (x : BitVec w) (n : Nat) : Bool := x.getLsbD n

/-- The little-endian bytes of a number, `n` of them (R10). -/
def leBytes : Nat → Nat → List Byte
  | 0, _ => []
  | n + 1, x => BitVec.ofNat 8 x :: leBytes n (x / 256)

/-- The number that little-endian bytes hold (R10). -/
def leValue : List Byte → Nat
  | [] => 0
  | b :: bs => b.toNat + 256 * leValue bs

/-- `m` with bit `n` set or cleared. -/
def setBit {w : Nat} (m : BitVec w) (n : Nat) (b : Bool) : BitVec w :=
  if b then m ||| (1#w <<< n) else m &&& ~~~(1#w <<< n)

/-- `x` with bits [lo + n - 1 : lo] replaced by the low bits of `v`. -/
def setField {w : Nat} (x : BitVec w) (lo n : Nat) (v : Nat) : BitVec w :=
  (x &&& ~~~((BitVec.ofNat w (2 ^ n - 1)) <<< lo)) ||| (BitVec.ofNat w (v % 2 ^ n) <<< lo)

/-- Replaces the first element that satisfies `p`. -/
def modifyFirst {α : Type} (p : α → Bool) (f : α → α) : List α → List α
  | [] => []
  | a :: as => if p a then f a :: as else a :: modifyFirst p f as

/-- Puts an element in front of the first that `key` places after it. -/
def insertBy {α : Type} (key : α → Nat) (a : α) : List α → List α
  | [] => [a]
  | b :: bs => if key a < key b then a :: b :: bs else b :: insertBy key a bs

/-- A list in rising order of `key`, equal elements in their own order. -/
def sortBy {α : Type} (key : α → Nat) (l : List α) : List α := l.foldl (fun r a => insertBy key a r) []

end Sys2Proof.Machine
end

