-- ==== Sys2Proof/Machine/Exact.lean ====
section
/-! DEFINITION. Exact arithmetic before rounding (R56, R67): dyadic numbers and exact ratios. -/

namespace Sys2Proof.Machine

/-- The exact number `m × 2 ^ e`. -/
structure Dy where
  m : Int
  e : Int
deriving DecidableEq, Repr

def Dy.zero : Dy := ⟨0, 0⟩

/-- `m` shifted left by a nonnegative integer. -/
def shiftUp (m : Int) (n : Int) : Int := m * (2 ^ n.toNat : Nat)

def Dy.mul (a b : Dy) : Dy := ⟨a.m * b.m, a.e + b.e⟩

def Dy.add (a b : Dy) : Dy :=
  if a.m = 0 then b else if b.m = 0 then a
  else
    let e := min a.e b.e
    ⟨shiftUp a.m (a.e - e) + shiftUp b.m (b.e - e), e⟩

def Dy.neg (a : Dy) : Dy := ⟨-a.m, a.e⟩

def Dy.sub (a b : Dy) : Dy := Dy.add a (Dy.neg b)

def Dy.ofInt (n : Int) : Dy := ⟨n, 0⟩

def Dy.abs (a : Dy) : Dy := ⟨Int.ofNat a.m.natAbs, a.e⟩

/-- `a < b`. -/
def Dy.lt (a b : Dy) : Bool := decide ((Dy.sub a b).m < 0)

/-- `a ≤ b`. -/
def Dy.le (a b : Dy) : Bool := !Dy.lt b a

/-- The greatest integer not above `a`. -/
def Dy.floor (a : Dy) : Int :=
  if 0 ≤ a.e then shiftUp a.m a.e else Int.fdiv a.m ((2 ^ (-a.e).toNat : Nat) : Int)

/-- An exact positive ratio `num / den × 2 ^ e`; `den` is never 0. -/
structure Ratio where
  num : Nat
  den : Nat
  e : Int
deriving DecidableEq, Repr

/-- The number of binary digits of `n`. -/
def bitLen (n : Nat) : Nat := if n = 0 then 0 else Nat.log2 n + 1

/-- `⌊num / den × 2 ^ (e - q)⌋` and whether the quotient is exact, above, at or below the halfway point: the
quotient doubled with a sticky remainder, as (quotient, remainder × 2 compared with the divisor, exact). -/
def Ratio.scaled (r : Ratio) (q : Int) : Nat × Ordering × Bool :=
  let s := r.e - q
  let n := if 0 ≤ s then r.num * 2 ^ s.toNat else r.num
  let d := if 0 ≤ s then r.den else r.den * 2 ^ (-s).toNat
  (n / d, compare (2 * (n % d)) d, n % d == 0)

/-- The exponent `x` with `2 ^ x ≤ r < 2 ^ (x + 1)`. -/
def Ratio.exponent (r : Ratio) : Int :=
  let g : Int := (bitLen r.num : Int) - (bitLen r.den : Int) + r.e
  if (Ratio.scaled r g).1 = 0 then g - 1 else g

/-- `⌊√n⌋` by bits from 2 ^ k down. -/
def isqrtFrom (n : Nat) : Nat → Nat → Nat
  | 0, r => if (r + 1) * (r + 1) ≤ n then r + 1 else r
  | k + 1, r => isqrtFrom n k (if (r + 2 ^ (k + 1)) * (r + 2 ^ (k + 1)) ≤ n then r + 2 ^ (k + 1) else r)

/-- `⌊√n⌋`. -/
def isqrt (n : Nat) : Nat := isqrtFrom n (bitLen n / 2 + 1) 0

/-- The five roundings of R27 applied to a truncated magnitude: whether it is incremented. `neg` is the sign. -/
def roundsUp (rnd : Nat) (neg : Bool) (q : Nat) (half : Ordering) (exact : Bool) : Bool :=
  if exact then false
  else match rnd with
    | 0 => match half with
      | .lt => false
      | .gt => true
      | .eq => q % 2 == 1
    | 1 => false
    | 2 => !neg
    | 3 => neg
    | _ => match half with
      | .lt => false
      | _ => true

/-- An exact number rounded to an integer under a mode of R27. -/
def Dy.toIntRnd (a : Dy) (rnd : Nat) : Int :=
  let neg := decide (a.m < 0)
  let sc := Ratio.scaled ⟨a.m.natAbs, 1, a.e⟩ 0
  let n := if roundsUp rnd neg sc.1 sc.2.1 sc.2.2 then sc.1 + 1 else sc.1
  if neg then -(n : Int) else n

end Sys2Proof.Machine
end

