-- ==== Sys2Proof/Machine/Formats.lean ====
section
/-! DEFINITION. The number formats of R48–R66 and the helpers `Round` and `Sat` (R47, R56–R59). -/

namespace Sys2Proof.Machine

/-- How a format uses its top codes (R49): infinities and NaNs, the one NaN of E4M3, or neither. -/
inductive FmtKind where
  | ieee | e4m3 | finite
deriving DecidableEq, Repr

/-- A floating-point format (R49). `shift` is where the value starts in its container (R51); `narrow` is R58;
`flush` says whether FTZ applies (R59). -/
structure Fmt where
  eb : Nat
  mb : Nat
  bias : Nat
  kind : FmtKind
  shift : Nat
  narrow : Bool
  flush : Bool
deriving DecidableEq, Repr

def fp64 : Fmt := ⟨11, 52, 1023, .ieee, 0, false, true⟩
def fp32 : Fmt := ⟨8, 23, 127, .ieee, 0, false, true⟩
def fp19 : Fmt := ⟨8, 10, 127, .ieee, 13, false, true⟩
def bf16 : Fmt := ⟨8, 7, 127, .ieee, 0, true, true⟩
def fp16 : Fmt := ⟨5, 10, 15, .ieee, 0, true, true⟩
def e4m3 : Fmt := ⟨4, 3, 7, .e4m3, 0, true, false⟩
def e5m2 : Fmt := ⟨5, 2, 15, .ieee, 0, true, false⟩
def e3m2 : Fmt := ⟨3, 2, 3, .finite, 0, true, false⟩
def e2m3 : Fmt := ⟨2, 3, 1, .finite, 0, true, false⟩
def e2m1 : Fmt := ⟨2, 1, 1, .finite, 0, true, false⟩

/-- The part of WMODE that rounding reads (R25): RND, SAT and FTZ. -/
structure Mode where
  rnd : Nat
  sat : Bool
  ftz : Bool
deriving DecidableEq, Repr

/-- RNE with subnormals kept, the rounding of home slices (R60) and of the co-processors (R240). -/
def Mode.home : Mode := ⟨0, false, false⟩

/-- A floating-point value: NaN, an infinity, or `(-1)^neg × mag × 2 ^ exp` (a zero keeps its sign). -/
inductive Fv where
  | nan
  | inf (neg : Bool)
  | fin (neg : Bool) (mag : Nat) (exp : Int)
deriving DecidableEq, Repr

/-- The value a code holds (R49, R51, R52); bits above the format are ignored. -/
def Fmt.value (f : Fmt) (x : Nat) : Fv :=
  let y := x / 2 ^ f.shift
  let m := y % 2 ^ f.mb
  let e := y / 2 ^ f.mb % 2 ^ f.eb
  let neg := y / 2 ^ (f.mb + f.eb) % 2 == 1
  let top := 2 ^ f.eb - 1
  if f.kind = .ieee ∧ e = top then (if m = 0 then .inf neg else .nan)
  else if f.kind = .e4m3 ∧ e = top ∧ m = 2 ^ f.mb - 1 then .nan
  else if e = 0 then .fin neg m (1 - (f.bias : Int) - f.mb)
  else .fin neg (2 ^ f.mb + m) ((e : Int) - f.bias - f.mb)

/-- Whether a code is subnormal. -/
def Fmt.subnormal (f : Fmt) (x : Nat) : Bool :=
  let y := x / 2 ^ f.shift
  y / 2 ^ f.mb % 2 ^ f.eb == 0 && y % 2 ^ f.mb != 0

/-- The value of an input after FTZ (R59). -/
def Fmt.input (f : Fmt) (md : Mode) (x : Nat) : Fv :=
  if md.ftz && f.flush && f.subnormal x then
    match f.value x with
    | .fin neg _ _ => .fin neg 0 0
    | v => v
  else f.value x

/-- A code from its sign, exponent field and mantissa field. -/
def Fmt.pack (f : Fmt) (neg : Bool) (e m : Nat) : Nat :=
  ((if neg then 2 ^ (f.mb + f.eb) else 0) + e * 2 ^ f.mb + m) * 2 ^ f.shift

/-- The canonical NaN (R50); a format without NaN gives +0. -/
def Fmt.nan (f : Fmt) : Nat :=
  match f.kind with
  | .ieee => f.pack false (2 ^ f.eb - 1) (2 ^ (f.mb - 1))
  | .e4m3 => f.pack false (2 ^ f.eb - 1) (2 ^ f.mb - 1)
  | .finite => 0

/-- A zero of a sign. -/
def Fmt.zero (f : Fmt) (neg : Bool) : Nat := f.pack neg 0 0

/-- The max finite of a sign (R49). -/
def Fmt.max (f : Fmt) (neg : Bool) : Nat :=
  match f.kind with
  | .ieee => f.pack neg (2 ^ f.eb - 2) (2 ^ f.mb - 1)
  | .e4m3 => f.pack neg (2 ^ f.eb - 1) (2 ^ f.mb - 2)
  | .finite => f.pack neg (2 ^ f.eb - 1) (2 ^ f.mb - 1)

/-- R57: the result for a magnitude beyond the max finite, under a rounding mode. -/
def Fmt.overflow (f : Fmt) (md : Mode) (rnd : Nat) (neg : Bool) : Nat :=
  if f.narrow && md.sat || f.kind == .finite then f.max neg
  else if rnd = 1 || (rnd = 2 && neg) || (rnd = 3 && !neg) then f.max neg
  else match f.kind with
    | .ieee => f.pack neg (2 ^ f.eb - 1) 0
    | _ => f.nan

/-- An infinite exact value follows the RNE column (R56 step 2, R57). -/
def Fmt.infinite (f : Fmt) (md : Mode) (neg : Bool) : Nat := f.overflow md 0 neg

/-- Largest exponent quantum and significand of the format (R49). -/
def Fmt.maxParts (f : Fmt) : Nat × Int :=
  match f.kind with
  | .ieee => (2 ^ (f.mb + 1) - 1, (2 ^ f.eb : Nat) - 2 - (f.bias : Int) - f.mb)
  | .e4m3 => (2 ^ (f.mb + 1) - 2, (2 ^ f.eb : Nat) - 1 - (f.bias : Int) - f.mb)
  | .finite => (2 ^ (f.mb + 1) - 1, (2 ^ f.eb : Nat) - 1 - (f.bias : Int) - f.mb)

/-- `Round` (R56) of a nonzero exact magnitude with a sign. -/
def Fmt.roundMag (f : Fmt) (md : Mode) (neg : Bool) (r : Ratio) : Nat :=
  let q0 : Int := Max.max (r.exponent - f.mb) (1 - (f.bias : Int) - f.mb)
  let sc := r.scaled q0
  let n0 := if roundsUp md.rnd neg sc.1 sc.2.1 sc.2.2 then sc.1 + 1 else sc.1
  let n := if n0 = 2 ^ (f.mb + 1) then 2 ^ f.mb else n0
  let q := if n0 = 2 ^ (f.mb + 1) then q0 + 1 else q0
  if q > f.maxParts.2 ∨ (q = f.maxParts.2 ∧ n > f.maxParts.1) then f.overflow md md.rnd neg
  else if n < 2 ^ f.mb then
    (if md.ftz && f.flush then f.zero neg else f.pack neg 0 n)
  else f.pack neg (q + f.bias + f.mb).toNat (n - 2 ^ f.mb)

/-- `Round` of any value; a zero keeps its sign. -/
def Fmt.round (f : Fmt) (md : Mode) : Fv → Nat
  | .nan => f.nan
  | .inf neg => f.infinite md neg
  | .fin neg mag e => if mag = 0 then f.zero neg else f.roundMag md neg ⟨mag, 1, e⟩

def Fv.neg : Fv → Fv
  | .nan => .nan
  | .inf s => .inf (!s)
  | .fin s m e => .fin (!s) m e

def Fv.abs : Fv → Fv
  | .nan => .nan
  | .inf _ => .inf false
  | .fin _ m e => .fin false m e

def Fv.isNan : Fv → Bool
  | .nan => true
  | _ => false

def Fv.isZero : Fv → Bool
  | .fin _ 0 _ => true
  | _ => false

def Fv.sign : Fv → Bool
  | .nan => false
  | .inf s => s
  | .fin s _ _ => s

/-- The signed dyadic of a finite value (0 for others). -/
def Fv.dy : Fv → Dy
  | .fin s m e => ⟨if s then -(m : Int) else m, e⟩
  | _ => Dy.zero

/-- The value of a dyadic; zero is +0. -/
def Fv.ofDy (d : Dy) : Fv := .fin (decide (d.m < 0)) d.m.natAbs d.e

/-- The exact product; ±Inf × 0 is NaN, and a zero takes the exclusive-or of the signs (R56 step 4). -/
def Fv.mul : Fv → Fv → Fv
  | .nan, _ => .nan
  | _, .nan => .nan
  | .inf s, .inf t => .inf (s != t)
  | .inf s, .fin t m _ => if m = 0 then .nan else .inf (s != t)
  | .fin t m _, .inf s => if m = 0 then .nan else .inf (s != t)
  | .fin s m e, .fin t n g => .fin (s != t) (m * n) (e + g)

/-- Exact sum of terms with the special values of R68 and the zero signs of R56 step 4. -/
def Fv.sum (rnd : Nat) (ts : List Fv) : Fv :=
  let infs := ts.filter (fun t => match t with | .inf _ => true | _ => false)
  if ts.any Fv.isNan || (infs.any Fv.sign && infs.any (fun t => !t.sign)) then .nan
  else match infs with
    | t :: _ => t
    | [] =>
      let s := ts.foldl (fun a t => Dy.add a t.dy) Dy.zero
      if s.m ≠ 0 then Fv.ofDy s
      else if ts.all (fun t => t.isZero && t.sign) && !ts.isEmpty then .fin true 0 0
      else if ts.all (fun t => t.isZero && !t.sign) then .fin false 0 0
      else .fin (rnd == 3) 0 0

/-- `a + b` exactly. -/
def Fv.add (rnd : Nat) (a b : Fv) : Fv := Fv.sum rnd [a, b]

/-- Order of two non-NaN values, −0 below +0 when `zeros` is set (R131), equal otherwise (R135). -/
def Fv.lt (zeros : Bool) (a b : Fv) : Bool :=
  match a, b with
  | .nan, _ => false
  | _, .nan => false
  | .inf s, .inf t => s && !t
  | .inf s, .fin _ _ _ => s
  | .fin _ _ _, .inf t => !t
  | .fin s m e, .fin t n g =>
    if m = 0 ∧ n = 0 then zeros && s && !t else Dy.lt (Fv.fin s m e).dy (Fv.fin t n g).dy

/-- minimumNumber (R131). -/
def Fv.min (a b : Fv) : Fv :=
  if a.isNan then b else if b.isNan then a else if Fv.lt true b a then b else a

/-- maximumNumber (R131). -/
def Fv.max (a b : Fv) : Fv :=
  if a.isNan then b else if b.isNan then a else if Fv.lt true a b then b else a

/-- Round(a ÷ b) (R132). -/
def Fmt.div (f : Fmt) (md : Mode) (a b : Fv) : Nat :=
  match a, b with
  | .nan, _ => f.nan
  | _, .nan => f.nan
  | .inf _, .inf _ => f.nan
  | .inf s, .fin t _ _ => f.infinite md (s != t)
  | .fin s _ _, .inf t => f.zero (s != t)
  | .fin s m e, .fin t n g =>
    if n = 0 then (if m = 0 then f.nan else f.infinite md (s != t))
    else if m = 0 then f.zero (s != t)
    else f.roundMag md (s != t) ⟨m, n, e - g⟩

/-- The exact ratio, up to a sticky last digit, of the square root of `m × 2 ^ e`; `prec` digits are kept. -/
def sqrtRatio (prec m : Nat) (e : Int) : Ratio :=
  let k : Nat := 2 * prec + 2 + (if e % 2 = 0 then 0 else 1)
  let n := m * 2 ^ k
  let r := isqrt n
  ⟨2 * r + (if r * r = n then 0 else 1), 1, (e - k) / 2 - 1⟩

/-- The correctly rounded square root (R137, R138). -/
def Fmt.sqrt (f : Fmt) (md : Mode) : Fv → Nat
  | .nan => f.nan
  | .inf s => if s then f.nan else f.infinite md false
  | .fin s m e =>
    if m = 0 then f.zero s else if s then f.nan else f.roundMag md false (sqrtRatio (f.mb + 4) m e)

/-- `Sat` (R47): clamps under SAT, else keeps the low `w` bits. -/
def satInt (w : Nat) (signed sat : Bool) (x : Int) : Nat :=
  let lo : Int := if signed then -(2 ^ (w - 1) : Nat) else 0
  let hi : Int := if signed then (2 ^ (w - 1) : Nat) - 1 else (2 ^ w : Nat) - 1
  let y := if sat then Max.max lo (Min.min hi x) else x
  (y % (2 ^ w : Nat)).toNat

/-- The integer a code of width `w` holds (R48). -/
def intValue (w : Nat) (signed : Bool) (x : Nat) : Int :=
  let y := x % 2 ^ w
  if signed && 2 ^ (w - 1) ≤ y then (y : Int) - (2 ^ w : Nat) else y

/-- A value rounded to an integer under RND and clamped (R61): NaN gives 0. -/
def Fv.toInt (w : Nat) (signed : Bool) (rnd : Nat) : Fv → Nat
  | .nan => 0
  | .inf s => satInt w signed true (if s then -(2 ^ 64 : Nat) else (2 ^ 64 : Nat))
  | .fin s m e =>
    if m = 0 then 0
    else if e + bitLen m > 70 then satInt w signed true (if s then -(2 ^ 64 : Nat) else (2 ^ 64 : Nat))
    else satInt w signed true ((Fv.fin s m e).dy.toIntRnd rnd)

/-- The infinity of a sign, in a format that has infinities. -/
def Fmt.inf (f : Fmt) (neg : Bool) : Nat := f.pack neg (2 ^ f.eb - 1) 0

/-- A value kept exactly, in a format that holds it: no SAT and no FTZ of the result (R61, floating point to wider
floating point). -/
def Fmt.exact (f : Fmt) : Fv → Nat
  | .inf s => f.inf s
  | v => f.round Mode.home v

/-- Whether a format holds every value of `g` and is wider (R61). -/
def Fmt.widens (f g : Fmt) : Bool := decide (g.eb ≤ f.eb) && decide (g.mb ≤ f.mb) && decide (g.eb + g.mb < f.eb + f.mb)

/-- RINT (R139): an integral value in the same format. DEDUCED, log entry 23: an infinity stays one under SAT, as R139 says of
this instruction, where R57 and R58 would give ±MAX in a narrow format. -/
def Fmt.rint (f : Fmt) (md : Mode) : Fv → Nat
  | .nan => f.nan
  | .inf s => f.inf s
  | .fin s m e =>
    if m = 0 then f.zero s
    else if 0 ≤ e then f.round md (.fin s m e)
    else
      let sc := Ratio.scaled ⟨m, 1, e⟩ 0
      let n := if roundsUp md.rnd s sc.1 sc.2.1 sc.2.2 then sc.1 + 1 else sc.1
      f.round md (.fin s n 0)

/-- CLASS (R140). -/
def Fmt.classOf (f : Fmt) (md : Mode) (x : Nat) : Nat :=
  match f.input md x with
  | .nan => 8
  | .inf s => if s then 0 else 7
  | .fin s m _ =>
    if m = 0 then (if s then 3 else 4)
    else if f.subnormal x then (if s then 2 else 5)
    else if s then 1 else 6

/-- The element types of R26: integers, signed or not, and floating-point formats. -/
inductive ElemKind where
  | int (signed : Bool)
  | fp (f : Fmt)
deriving DecidableEq, Repr

/-- An ETYPE: element width, elements per operand, kind (R26, R127). -/
structure EType where
  w : Nat
  n : Nat
  kind : ElemKind
deriving DecidableEq, Repr

/-- The ETYPE table (R26); codes 14–31 are reserved and never stand in a WMODE (R28). -/
def etypeOf : Nat → EType
  | 0 => ⟨32, 1, .int true⟩
  | 1 => ⟨32, 1, .int false⟩
  | 2 => ⟨64, 1, .int true⟩
  | 3 => ⟨64, 1, .int false⟩
  | 4 => ⟨16, 2, .int true⟩
  | 5 => ⟨16, 2, .int false⟩
  | 6 => ⟨8, 4, .int true⟩
  | 7 => ⟨8, 4, .int false⟩
  | 8 => ⟨32, 1, .fp fp32⟩
  | 9 => ⟨64, 1, .fp fp64⟩
  | 10 => ⟨16, 2, .fp fp16⟩
  | 11 => ⟨16, 2, .fp bf16⟩
  | 12 => ⟨8, 4, .fp e4m3⟩
  | 13 => ⟨8, 4, .fp e5m2⟩
  | _ => ⟨32, 1, .int true⟩

def EType.wide (t : EType) : Bool := t.w == 64

def EType.signed (t : EType) : Bool := t.kind == .int true

def EType.isInt (t : EType) : Bool :=
  match t.kind with
  | .int _ => true
  | .fp _ => false

/-- Sub-element `i` (R26, R127). -/
def EType.elem (t : EType) (x : Nat) (i : Nat) : Nat := x / 2 ^ (t.w * i) % 2 ^ t.w

/-- `Pack` (R127). -/
def EType.pack (t : EType) (f : Nat → Nat) : Nat :=
  (List.range t.n).foldl (fun a i => a + (f i % 2 ^ t.w) * 2 ^ (t.w * i)) 0

/-- The fields of WMODE (R25). -/
def wmGuard (w : BitVec 24) : Nat := field w 0 4
def wmEtype (w : BitVec 24) : Nat := field w 4 5
def wmRnd (w : BitVec 24) : Nat := field w 9 3
def wmSat (w : BitVec 24) : Bool := bit w 12
def wmFtz (w : BitVec 24) : Bool := bit w 13
def wmDet (w : BitVec 24) : Bool := bit w 14
def wmMode (w : BitVec 24) : Mode := ⟨wmRnd w, wmSat w, wmFtz w⟩

/-- R28: a payload that MODE and SWMODE accept. -/
def wmLegal (w : BitVec 24) : Bool :=
  decide (wmEtype w ≤ 13) && decide (wmRnd w ≤ 4) && decide (field w 15 9 = 0)

/-- RES24 (R62, R63): canonical channels (mod 256, 255, 257). -/
def res24Canon (x : Nat) : Nat × Nat × Nat :=
  let c255 := x / 256 % 256
  let c257 := x / 65536 % 512
  (x % 256, if c255 = 255 then 0 else c255, if 257 ≤ c257 then c257 - 257 else c257)

/-- The container of three channels (R62). -/
def res24Pack (c : Nat × Nat × Nat) : Nat := c.1 + 256 * c.2.1 + 65536 * c.2.2

/-- An integer reduced into the channels (R64). -/
def res24Of (x : Int) : Nat × Nat × Nat := ((x % 256).toNat, (x % 255).toNat, (x % 257).toNat)

/-- The CRT (R66). -/
def crtValue (c : Nat × Nat × Nat) : Int :=
  let x := (c.1 * 16711425 + c.2.1 * 8421376 + c.2.2 * 8421120) % 16776960
  if x > 8388479 then (x : Int) - 16776960 else x

/-- Sum and product per channel (R65). -/
def res24Add (a b : Nat × Nat × Nat) : Nat × Nat × Nat :=
  ((a.1 + b.1) % 256, (a.2.1 + b.2.1) % 255, (a.2.2 + b.2.2) % 257)
def res24Mul (a b : Nat × Nat × Nat) : Nat × Nat × Nat :=
  ((a.1 * b.1) % 256, (a.2.1 * b.2.1) % 255, (a.2.2 * b.2.2) % 257)

end Sys2Proof.Machine
end

