-- ==== Sys2Proof/Machine/Phys.lean ====
section
/-! DEFINITION. Physical memory (R289, R290), the cached copies of its lines (R276, R277), commutative-update lines
(R72, R183) and the atomic operations (R181). -/

namespace Sys2Proof.Machine

/-- Whether a die is present (R5). -/
def State.diePresent (s : State) (d : Nat) : Bool := decide (d < 4) && bit s.devcap (24 + d)

/-- Whether a byte of DRAM of a present die stands at a physical address (R290). -/
def State.inDram (s : State) (pa : Nat) : Bool :=
  s.diePresent (pa / 2 ^ 37) && decide (pa % 2 ^ 37 < 96 * 2 ^ 30)

/-- The home value of a byte; where no memory stands, a free value (log entry 6). -/
def State.memByte (s : State) (pa : Nat) : Byte := if s.inDram pa then rd s.mem pa else Config.holeByte pa

/-- Writes a home byte; a write where no memory stands is lost. -/
def State.putByte (s : State) (pa : Nat) (b : Byte) : State :=
  if s.inDram pa then { s with mem := wr s.mem pa b } else s

/-- `n` home bytes from `pa` on, little-endian (R10). -/
def State.memRead (s : State) (pa n : Nat) : Nat := leValue ((List.range n).map fun i => s.memByte (pa + i))

/-- Writes bytes from `pa` on. -/
def State.putBytes (s : State) : Nat → List Byte → State
  | _, [] => s
  | pa, b :: bs => State.putBytes (s.putByte pa b) (pa + 1) bs

/-- Writes the low `n` bytes of a number (R47 `MemWr`). -/
def State.memWrite (s : State) (pa n x : Nat) : State := s.putBytes pa (leBytes n x)

/-- A page-table entry or another 8-byte word at its home. -/
def State.memQ (s : State) (pa : Nat) : DWord := BitVec.ofNat 64 (s.memRead pa 8)

/-! Places. A place is a physical address with its page's HOME, PEER and HOMEID (R294) in bits 52 and above. -/

def placeOf (pa home : Nat) (peer : Bool) (homeId : Nat) : Nat :=
  2 ^ 55 * homeId + 2 ^ 54 * (if peer then 1 else 0) + 2 ^ 52 * home + pa
def placePa (p : Nat) : Nat := p % 2 ^ 52
def placeHome (p : Nat) : Nat := p / 2 ^ 52 % 4
def placePeer (p : Nat) : Bool := p / 2 ^ 54 % 2 == 1
def placeId (p : Nat) : Nat := p / 2 ^ 55 % 256

/-- HOME 00 and 10 are cached in L1 and cluster caches and may be commutative (R298, R183). -/
def placeCached (p : Nat) : Bool := placeHome p == 0 || placeHome p == 2

/-- The home die of a line (R290). -/
def homeDie (pa : Nat) : Nat := pa / 2 ^ 37 % 4

/-- The home slice, within its die, of a line with HOME 00 or 11 (R290). -/
def homeSlice (pa : Nat) : Nat :=
  (pa / 2 ^ 7 % 64) ^^^ (pa / 2 ^ 13 % 64) ^^^ (pa / 2 ^ 19 % 64) ^^^ (pa / 2 ^ 25 % 64) ^^^ (pa / 2 ^ 31 % 64)

/-- Where a place's requests go (R290, R298): a slice of the package, or a core's pin area. -/
def homeOf (place : Nat) : Nat := match placeHome place with
  | 1 => 256 + placeId place
  | 2 => placeId place
  | _ => 64 * homeDie (placePa place) + homeSlice (placePa place)

def lineOf (pa : Nat) : Nat := pa / 128
/-- The aligned 4-byte words that `n` bytes from `pa` on touch. -/
def wordsOf (pa n : Nat) : List Nat := (List.range ((pa + n + 3) / 4 - pa / 4)).map (· + pa / 4)

def clusterOf (core : Nat) : Nat := core / 4
def dieOf (core : Nat) : Nat := core / 48

/-! Holders of copies (State, `Copy`). -/

def l1Of (core : Nat) : Nat := core
def ccOf (cluster : Nat) : Nat := 256 + cluster
def pathOf (core : Nat) : Nat := 512 + core
def icOf (core : Nat) : Nat := 1024 + core
/-- Whether a holder is the cluster cache or an L1 of a cluster. -/
def holderIn (cluster h : Nat) : Bool := h == ccOf cluster || decide (h < 256) && h / 4 == cluster

/-- Whether holder `h` has the 4-byte word `wd` valid. -/
def State.hasWord (s : State) (h wd : Nat) : Bool :=
  s.copies.any fun c => c.holder == h && c.line == wd / 32 && bit c.valid (wd % 32)

/-- Whether holder `h` has every byte of an access. -/
def State.hasBytes (s : State) (h pa n : Nat) : Bool := (wordsOf pa n).all fun wd => s.hasWord h wd

/-- A byte of a valid copy. -/
def State.copyByte (s : State) (h pa : Nat) : Byte :=
  match s.copies.find? (fun c => c.holder == h && c.line == lineOf pa) with
  | some c => rd c.data (pa % 128)
  | none => 0

/-- A number read from a holder's copy. -/
def State.copyRead (s : State) (h pa n : Nat) : Nat := leValue ((List.range n).map fun i => s.copyByte h (pa + i))

/-- Rewrites every copy and drops those with no valid word. -/
def State.mapCopies (s : State) (f : Copy → Copy) : State :=
  { s with copies := (s.copies.map f).filter fun c => c.valid != 0 }

/-- Drops a word of a copy. -/
def Copy.drop (c : Copy) (wd : Nat) : Copy :=
  { c with valid := setBit c.valid (wd % 32) false
           data := (List.range 4).foldl (fun d i => SMap.erase (wd % 32 * 4 + i) d) c.data }

/-- Invalidates a word in the holders that satisfy `p`. -/
def State.dropWord (s : State) (p : Nat → Bool) (wd : Nat) : State :=
  s.mapCopies fun c => if p c.holder && c.line == wd / 32 then c.drop wd else c

/-- Invalidates the bytes [lo, hi) in the holders that satisfy `p`. -/
def State.dropRange (s : State) (p : Nat → Bool) (lo hi : Nat) : State :=
  s.mapCopies fun c =>
    if p c.holder && decide (lo < (c.line + 1) * 128) && decide (c.line * 128 < hi) then { c with valid := 0 } else c

/-- Ways and sets of an L1 or a cluster cache (R289); a path or instruction cache has no size in the manual. -/
def cacheShape (h : Nat) : Option (Nat × Nat) := if h < 256 then some (8, 128) else if h < 512 then some (16, 1024) else none

/-- A line of a full set leaves the holder for a new one (R277); which one is a free choice (log entry 29). -/
def State.makeRoom (s : State) (h line : Nat) : State :=
  match cacheShape h with
  | none => s
  | some (ways, sets) =>
    let here := s.copies.filter fun c => c.holder == h && c.line % sets == line % sets
    if here.length < ways then s
    else match here[(Config.free s.freeCtr).toNat % here.length]? with
      | none => s
      | some v => { s with copies := s.copies.filter fun c => !(c.holder == h && c.line == v.line), freeCtr := s.freeCtr + 1 }

/-- Makes a word valid in a holder, with four bytes. -/
def State.setWord (s : State) (h wd : Nat) (x : Nat → Byte) : State :=
  let upd (c : Copy) : Copy :=
    { c with valid := setBit c.valid (wd % 32) true
             data := (List.range 4).foldl (fun d i => wr d (wd % 32 * 4 + i) (x i)) c.data }
  if s.copies.any (fun c => c.holder == h && c.line == wd / 32) then
    { s with copies := modifyFirst (fun c => c.holder == h && c.line == wd / 32) upd s.copies }
  else
    let s := s.makeRoom h (wd / 32)
    { s with copies := s.copies ++ [upd { holder := h, line := wd / 32, valid := 0, data := [] }] }

/-- Self-invalidation of an acquire (R173): every word of the cluster's caches that the cluster does not own. -/
def State.selfInvalidate (s : State) (cluster : Nat) : State :=
  s.mapCopies fun c =>
    if holderIn cluster c.holder then
      (List.range 32).foldl (fun c i =>
        if SMap.find (c.line * 32 + i) s.owners == some cluster then c else c.drop i) c
    else c

/-- Ends every cluster's ownership of a word, its copies invalidated first (R276). `keep` names a cluster whose copies
stay. -/
def State.disown (s : State) (keep : Option Nat) (wd : Nat) : State :=
  match SMap.find wd s.owners with
  | none => s
  | some c =>
    if keep = some c then s
    else { (s.dropWord (holderIn c) wd) with owners := SMap.erase wd s.owners }

/-! Atomic operations. -/

/-- `AtomOp` of R181 on values of width `w ÷ 8` bytes: OP 0–7, `v` the operand and `c'` the replacement of CAS. -/
def atomOp (o et old v c' : Nat) : Nat :=
  let t := etypeOf et
  let w := if t.wide then 64 else 32
  let part (f : Nat → Nat → Nat) : Nat := t.pack fun i => f (t.elem old i) (t.elem v i)
  match o with
  | 0 => match t.kind with
    | .int _ => (old + v) % 2 ^ w
    | .fp f => part fun a b => f.round Mode.home (Fv.add 0 (f.value a) (f.value b))
  | 1 => match t.kind with
    | .int sg => if intValue w sg v < intValue w sg old then v else old
    | .fp f => part fun a b => f.round Mode.home (Fv.min (f.value a) (f.value b))
  | 2 => match t.kind with
    | .int sg => if intValue w sg old < intValue w sg v then v else old
    | .fp f => part fun a b => f.round Mode.home (Fv.max (f.value a) (f.value b))
  | 3 => old &&& v
  | 4 => old ||| v
  | 5 => old ^^^ v
  | 6 => v
  | _ => if old = v then c' else old

/-- The identity of a reduction (R183). -/
def redIdentity (o et : Nat) : Nat :=
  let t := etypeOf et
  let w := if t.wide then 64 else 32
  match o, t.kind with
  | 1, .int sg => if sg then 2 ^ (w - 1) - 1 else 2 ^ w - 1
  | 2, .int sg => if sg then 2 ^ (w - 1) else 0
  | 3, _ => 2 ^ w - 1
  | 1, .fp f => t.pack fun _ => f.nan
  | 2, .fp f => t.pack fun _ => f.nan
  | _, _ => 0

/-- Bytes of an atomic or reduction of an ETYPE (R181). -/
def atomBytes (et : Nat) : Nat := if (etypeOf et).wide then 8 else 4

/-- One marked word of a die's partial copy merged into the home value (R183). -/
def CommLine.mergeOne (c : CommLine) (s : State) (e : Nat × DWord) : State :=
  let wd := c.line * 32 + e.1 % 32
  let n := atomBytes c.et
  let s := (wordsOf (wd * 4) n).foldl (fun s w => s.disown none w) s
  s.memWrite (wd * 4) n (atomOp c.o c.et (s.memRead (wd * 4) n) e.2.toNat 0)

/-- The dies in the order a merge adds their copies, a free choice (R72; log entry 8). -/
def mergeDies (n : Nat) : List Nat :=
  sortBy (Config.mergeOrder n) [0, 1, 2, 3]

/-- Merges a line in commutative-update state; an ordinary line is left alone (R183). -/
def State.mergeLine (s : State) (line : Nat) : State :=
  match s.comm.find? (fun c => c.line == line) with
  | none => s
  | some c =>
    let s := { s with comm := s.comm.filter (fun c => c.line != line), freeCtr := s.freeCtr + 1 }
    (mergeDies s.freeCtr).foldl (fun s d =>
      (c.parts.filter fun e => e.1 / 32 == d).foldl (fun s e => c.mergeOne s e) s) s

/-- Merges the lines of an access. -/
def State.mergeBytes (s : State) (pa n : Nat) : State :=
  (List.range (lineOf (pa + n - 1) + 1 - lineOf pa)).foldl (fun s i => s.mergeLine (lineOf pa + i)) s

/-- Whether two byte ranges share a byte. -/
def overlap (a n b m : Nat) : Bool := decide (a < b + m) && decide (b < a + n)

/-- Whether some element of a copy from linear index `from` on satisfies `hit`: `off` is the address so far, `idx` the
linear index of the element with the remaining indices 0 and `dims` the remaining dimensions, outermost first, each with the
number of elements one step of it spans (R206). -/
def copyHits (start : Nat) (hit : DWord → Bool) : List (Nat × Nat × DWord) → DWord → Nat → Bool
  | [], off, idx => decide (start ≤ idx) && hit off
  | (count, span, stride) :: dims, off, idx =>
    (List.range count).any fun i => copyHits start hit dims (off + BitVec.ofNat 64 i * stride) (idx + i * span)

/-- Dimensions of a copy, outermost first, with the span of each (R206). -/
def copySpans : List (Nat × DWord × DWord) → Nat → List (Nat × Nat × DWord) → List (Nat × Nat × DWord)
  | [], _, acc => acc
  | (n, _, d) :: ds, span, acc => copySpans ds (span * n) ((n, span, d) :: acc)

/-- A write that takes effect at the home (R276): the line is merged, every ownership of the words ends, the bytes
are written, and `owner`, if any, is recorded. -/
def State.homeWrite (s : State) (owner : Option Nat) (pa : Nat) (bs : List Byte) : State :=
  let s := s.mergeBytes pa (Max.max bs.length 1)
  let s := (wordsOf pa bs.length).foldl (fun s wd => s.disown owner wd) s
  let s := s.putBytes pa bs
  match owner with
  | none => s
  | some c => { s with owners := (wordsOf pa bs.length).foldl (fun o wd => SMap.insert wd c o) s.owners }

/-- The lines of a home slice's set that are in commutative-update state: a slice has 512 sets of 16 ways (R289), and keeps the
partial copies of its lines. -/
def State.l2Set (s : State) (place : Nat) : List CommLine :=
  s.comm.filter fun c => c.home == homeOf place && c.line / 64 % 512 == lineOf (placePa place) / 64 % 512

/-- A line leaves a full set of a home slice for a new one, merged (R183); which is a free choice, and no pinned one (R298; log
entry 29). -/
def State.l2Room (s : State) (place : Nat) : State :=
  let here := s.l2Set place
  let out := here.filter fun c => !c.pinned
  if here.length < 16 then s
  else match out[(Config.free s.freeCtr).toNat % Max.max out.length 1]? with
    | some c => s.mergeLine c.line
    | none => s

/-- A home slice may evict a line that is not pinned whenever other lines need its place: a line in commutative-update state is then
merged (R183). Whether one goes, and which, is a free choice (log entry 29). -/
def State.l2Evict (s : State) : State :=
  match s.comm with
  | [] => s
  | cs => match cs[(Config.free s.freeCtr).toNat % (cs.length + 1)]? with
    | some c => if c.pinned then { s with freeCtr := s.freeCtr + 1 } else s.mergeLine c.line
    | none => { s with freeCtr := s.freeCtr + 1 }

/-- RED at a home slice (R183): `comm` when the line's HOME admits the commutative-update state. It ends every cluster's
ownership of the words (R276). -/
def State.redApply (s : State) (die place o et : Nat) (comm : Bool) (v : Nat) : State :=
  let n := atomBytes et
  let pa := placePa place
  if comm then
    let line := lineOf pa
    let new : CommLine := { line := line, home := homeOf place, pinned := placeHome place == 2, o := o, et := et, parts := [] }
    let s := if s.comm.any (fun c => c.line == line && c.o == o && c.et == et) then s
      else
        let t := (s.mergeLine line).l2Room place
        { t with comm := t.comm ++ [new] }
    let key := 32 * die + pa / 4 % 32
    let s := (wordsOf pa n).foldl (fun s wd => s.disown none wd) s
    { s with comm := modifyFirst (fun c => c.line == line) (fun c =>
        { c with parts := SMap.insert key (BitVec.ofNat 64 (atomOp o et
            (((SMap.find key c.parts).map BitVec.toNat).getD (redIdentity o et)) v 0)) c.parts }) s.comm }
  else
    let s := s.mergeBytes pa n
    s.homeWrite none pa (leBytes n (atomOp o et (s.memRead pa n) v 0))

/-- Bytes that one lane of an operation moves. -/
def OpKind.size : OpKind → Nat
  | .load _ n _ _ _ => n
  | .kload _ => 8
  | .store n _ => n
  | .atom _ et _ => atomBytes et
  | .red _ et _ => atomBytes et
  | .cadd _ => 8
  | .mcas _ _ => 256
  | .tileLoad _ _ _ => 256
  | .tileStore _ _ _ => 256
  | _ => 0

/-- Operations that write global memory at a home. -/
def OpKind.writes : OpKind → Bool
  | .store _ _ => true
  | .atom _ _ _ => true
  | .red _ _ _ => true
  | .cadd _ => true
  | .mcas _ _ => true
  | .tileStore _ _ sram => !sram
  | _ => false

/-- Bytes of one request: a part of a tile row that spans two pages gives its own size (R232). -/
def LaneReq.bytes (l : LaneReq) (k : OpKind) : Nat :=
  match k with
  | .tileLoad _ _ _ => if l.aux = 0 then 256 else l.aux.toNat
  | .tileStore _ _ _ => if l.aux = 0 then 256 else l.aux.toNat
  | k => k.size

/-- Whether a stage is a park (R169). -/
def Stage.parked : Stage → Bool
  | .parkFill _ => true
  | .parkPage _ => true
  | .retry _ => true
  | _ => false

/-- A lane whose request is translated and has not taken effect. -/
def LaneReq.live (l : LaneReq) : Bool := l.stage == .request

/-- The address that a lane's park waits for: an MCAS lane's may be that of one of its entries, which `aux` then holds with a
1 above it (R188). -/
def LaneReq.waitsAt (l : LaneReq) (k : OpKind) : DWord :=
  match k with
  | .mcas _ _ => if 2 ^ 64 ≤ l.aux.toNat then l.aux.setWidth 64 else l.va
  | _ => l.va

/-- Whether a lane has a plain store on its way to the home: a store's own, or the write-back of an MCAS that failed
(R188). -/
def LaneReq.stores (l : LaneReq) (k : OpKind) : Bool :=
  match k with
  | .store _ _ => l.live
  | .tileStore _ _ sram => !sram && l.live
  | .mcas _ _ => l.stage == .served
  | _ => false

/-- Whether a lane's access has not taken effect, the write-back of an MCAS included (R188). -/
def LaneReq.due (l : LaneReq) (k : OpKind) : Bool := l.live || l.stores k

/-- Whether a cluster has a plain store to a word on its way to the home. -/
def State.storing (s : State) (cluster wd : Nat) : Bool :=
  s.ops.any fun o => clusterOf o.core == cluster &&
    o.lanes.any fun l => l.stores o.kind && overlap (placePa l.pa) (l.bytes o.kind) (wd * 4) 4

/-- The lines that `n` bytes from `pa` on touch. -/
def linesOf (pa n : Nat) : List Nat := (List.range (lineOf (pa + n - 1) + 1 - lineOf pa)).map (· + lineOf pa)

/-- The other half of the 8-byte unit of a word: both halves of a unit that a copy holds are of one reading (R166). -/
def otherHalf (wd : Nat) : Nat := if wd % 2 = 0 then wd + 1 else wd - 1

/-- A line installed in a holder (R277): the 8-byte units of which it lacks a word. `byte` gives the line's bytes. -/
def State.installWith (s : State) (h line : Nat) (byte : Nat → Byte) : State :=
  (List.range 16).foldl (fun s i =>
    let wd := line * 32 + 2 * i
    if s.hasWord h wd && s.hasWord h (wd + 1) then s
    else (s.setWord h wd fun j => byte (wd * 4 + j)).setWord h (wd + 1) fun j => byte ((wd + 1) * 4 + j)) s

/-- A line read from the home is installed in a holder. -/
def State.install (s : State) (h line : Nat) : State := s.installWith h line s.memByte

end Sys2Proof.Machine
end

