-- ==== Sys2Proof/Machine/Translate.lean ====
section
/-! DEFINITION. Page tables, translation and its caches (R292–R304), and the fill state of quickset blocks (R294,
R309). -/

namespace Sys2Proof.Machine

/-- A leaf found by a walk: the entry, its physical address and its level. -/
structure Leaf where
  entry : DWord
  at_ : Nat
  level : Nat
deriving DecidableEq, Repr

/-- What a walk finds (R296, R297). -/
inductive Walk where
  | leaf (l : Leaf)
  | miss
  | malformed
deriving DecidableEq, Repr

/-- The outcome of `Translate` (R300): a place with the leaf that gave it, a fault with its code, CAUSE and AUX, a
miss or copy-on-write for Tregrim, or a quickset block to park on, by the address of its leader entry. -/
inductive Tr where
  | ok (place : Nat) (leaf : Leaf)
  | fault (code cause : Nat) (aux : DWord)
  | miss
  | cow
  | fill (leader : Nat)
deriving DecidableEq, Repr

def eV (e : DWord) : Bool := bit e 0
def eR (e : DWord) : Bool := bit e 2
def eW (e : DWord) : Bool := bit e 3
def eX (e : DWord) : Bool := bit e 4
def eUser (e : DWord) : Bool := bit e 5
def ePeer (e : DWord) : Bool := bit e 8
def eContig (e : DWord) : Bool := bit e 9
def eHome (e : DWord) : Nat := field e 10 2
def ePa (e : DWord) : Nat := field e 12 36 * 4096
def eHomeId (e : DWord) : Nat := field e 48 8
def eShared (e : DWord) : Bool := bit e 59
def eCow (e : DWord) : Bool := bit e 60
def eQs (e : DWord) : Bool := bit e 61
def eFill (e : DWord) : Nat := field e 62 2

/-- The root page table of an ASID (R292). -/
def State.rootOf (s : State) (asid : BitVec 16) : Option Nat :=
  (s.ctxs.find? fun c => c.asid == asid).map (·.ptroot)

/-- Bytes of the page that a leaf maps (R292, R295). -/
def Leaf.bytes (l : Leaf) : Nat :=
  if l.level = 3 then 2 ^ 30 else if l.level = 2 then 2 ^ 21 else if eContig l.entry then 2 ^ 16 else 2 ^ 12

/-- A malformed non-leaf (R293, R296). -/
def badNode (root : Bool) (e : DWord) : Bool :=
  field e 60 4 != 0 || field e 48 11 != 0 || field e 8 4 != 0 || field e 1 6 != 0 || root && bit e 7

/-- The table index of an address at a level (R292). -/
def tableIndex (level : Nat) (va : Nat) : Nat :=
  match level with
  | 4 => va / 2 ^ 39 % 8192
  | 3 => va / 2 ^ 30 % 512
  | 2 => va / 2 ^ 21 % 512
  | _ => va / 2 ^ 12 % 512

/-- The leaf entry that an address selects, before its own checks; `level` counts down from the root. -/
def State.descend (s : State) (va : Nat) : Nat → Nat → Walk
  | 0, _ => .miss
  | level + 1, table =>
    let a := table + 8 * tableIndex (level + 1) va
    let e := s.memQ a
    if level = 0 then .leaf ⟨e, a, 1⟩
    else if bit e 7 && decide (level + 1 < 4) then .leaf ⟨e, a, level + 1⟩
    else if badNode (level + 1 == 4) e then .malformed
    else if eV e then State.descend s va level (ePa e) else .miss

/-- The region that holds an address (R308). -/
def State.regionOf (s : State) (asid : BitVec 16) (va : Nat) : Option QRegion :=
  s.regions.find? fun r => r.asid == asid && decide (r.base.toNat ≤ va) && decide (va < r.base.toNat + r.size)

/-- The first address of the block of a region that holds `va` (R309). -/
def QRegion.blockOf (r : QRegion) (va : Nat) : Nat := r.base.toNat + (va - r.base.toNat) / 2 ^ r.blkLog2 * 2 ^ r.blkLog2

/-- The leader entry of the quickset block that holds an address; a leaf of no region leads itself (R309). -/
def State.leaderOf (s : State) (asid : BitVec 16) (va : Nat) (l : Leaf) : Nat :=
  match s.regionOf asid va, s.rootOf asid with
  | some r, some root =>
    match s.descend (r.blockOf va) 4 root with
    | .leaf b => b.at_
    | _ => l.at_
  | _, _ => l.at_

/-- Whether the CONTIG group of a level-1 entry breaks R295. -/
def State.badContig (s : State) (l : Leaf) (filled : Bool) : Bool :=
  let base := l.at_ / 128 * 128
  let first := s.memQ base
  (List.range 16).any fun i =>
    let e := s.memQ (base + 8 * i)
    field e 48 12 != field first 48 12 || field e 60 2 != field first 60 2 || field e 0 12 != field first 0 12 ||
    (!eQs first && eFill e != 0) ||
    ((!eQs first || filled) && (ePa first % 2 ^ 16 != 0 || ePa e != ePa first + 4096 * i))

/-- A malformed leaf (R295, R296, R298). `fill` is the FILL of its block's leader. -/
def State.badLeaf (s : State) (l : Leaf) (fill : Nat) : Bool :=
  let e := l.entry
  let failedLeader := eQs e && eFill e == 3
  field e 56 3 != 0 || bit e 6 || bit e 1 ||
  (!eQs e && eFill e != 0) ||
  (!ePeer e && !failedLeader && (ePa e % (if l.level = 1 then 4096 else l.bytes) != 0 || !s.inDram (ePa e))) ||
  (ePeer e && l.level != 1) ||
  (l.level == 1 && eContig e && s.badContig l (fill == 2)) ||
  (l.level != 1 && eContig e) ||
  (eQs e && (eCow e || eHome e != 0 || ePeer e)) ||
  (ePeer e && eHome e != 3) ||
  (match eHome e with
    | 0 => eHomeId e != 0
    | 1 => decide (field s.devcap 8 8 ≤ eHomeId e) || l.level != 1
    | 2 => !s.diePresent (eHomeId e / 64) || l.level == 3
    | _ => !ePeer e && eHomeId e != 0) ||
  (eShared e && eW e)

/-- The end of a walk: the checks of the leaf that it reached (R296, R297). -/
def State.checkLeaf (s : State) (asid : BitVec 16) (va : Nat) (w : Walk) : Walk :=
  match w with
  | .leaf l =>
    let fill := if eQs l.entry then eFill (s.memQ (s.leaderOf asid va l)) else 0
    if s.badLeaf l fill then .malformed else if eV l.entry then .leaf l else .miss
  | w => w

/-- A walk of a context's page table (R292–R297). -/
def State.walk (s : State) (asid : BitVec 16) (va : Nat) : Walk :=
  match s.rootOf asid with
  | none => .miss
  | some root => s.checkLeaf asid va (s.descend va 4 root)

/-- Whether a die's DRAM can be used (R410). -/
def State.dramReady (s : State) (pa : Nat) : Bool := bit s.readyf (homeDie pa)

/-- The translation caches that serve a partition's memory pipe, nearest first (R301). -/
def viaPartition (core part : Nat) : List Nat := [4 * core + part, 1024 + core, 2048 + clusterOf core]

/-- Those that serve a core's texture and traversal units, and its outstanding operations (R301). -/
def State.viaCore (s : State) (core : Nat) : State := { s with via := [1024 + core, 2048 + clusterOf core] }

/-- The one that serves a cluster's copy engines and the raster pipeline (R301). -/
def State.viaCluster (s : State) (cluster : Nat) : State := { s with via := [2048 + cluster] }

/-- None: the requester's translations are walked (R301). -/
def State.viaWalker (s : State) : State := { s with via := [] }

/-- The number of entries of a translation cache, or of a die's walk cache (R301). -/
def tlbSize (cache : Nat) : Nat := if cache < 1024 then 32 else if cache < 2048 then 1024 else if cache < 4096 then 8192 else 256

/-- Whether an entry gives the translation of an address. -/
def TlbEntry.covers (t : TlbEntry) (asid : BitVec 16) (va : Nat) : Bool :=
  t.asid == asid && decide (t.vpn ≤ va / 4096) && decide (va / 4096 < t.vpn + t.pages)

/-- The cached translation of an address, from the nearest cache that has it (R301). -/
def State.tlbFind (s : State) (asid : BitVec 16) (va : Nat) : Option TlbEntry :=
  s.via.findSome? fun c => s.tlb.find? fun t => t.cache == c && t.covers asid va

/-- The leaf of an address that an entry gives; its level stands in the span of its pages, and a 64 KiB page is kept by its first
leaf (R295). -/
def TlbEntry.leafAt (t : TlbEntry) (va : Nat) : Leaf :=
  if t.pages = 16 then ⟨setField t.leaf 12 36 (ePa t.leaf / 4096 + va / 4096 % 16), 0, 1⟩
  else ⟨t.leaf, 0, if t.pages = 262144 then 3 else if t.pages = 512 then 2 else 1⟩

/-- The walk cache of the walkers that serve the requester (R301): its die's, where its cluster is known. -/
def State.walkCache (s : State) : Option Nat := s.via.findSome? fun c => if 2048 ≤ c then some (4096 + (c - 2048) / 12) else none

/-- The deepest upper-level entry on the path of an address that the walk cache holds, with its level (R301). -/
def State.walkFind (s : State) (asid : BitVec 16) (va : Nat) : Option (Nat × DWord) :=
  s.walkCache.bind fun c => [2, 3, 4].findSome? fun level =>
    (s.tlb.find? fun t => t.cache == c && t.pages == 2 ^ (9 * (level - 1)) && t.covers asid va).map fun t => (level, t.leaf)

/-- The leaf that a cached translation or a walk gives; a walk begins below the upper-level entry that the walk cache holds. -/
def State.lookup (s : State) (asid : BitVec 16) (va : Nat) : Walk :=
  match s.tlbFind asid va, s.walkFind asid va with
  | some t, _ => .leaf (t.leafAt va)
  | none, some (level, e) => s.checkLeaf asid va (s.descend va (level - 1) (ePa e))
  | none, none => s.walk asid va

/-- The place an address has under a leaf. -/
def Leaf.place (l : Leaf) (va : Nat) : Nat :=
  let span := if l.level = 1 then 4096 else l.bytes
  placeOf (ePa l.entry + va % span) (eHome l.entry) (ePeer l.entry) (eHomeId l.entry)

/-- The outcome of the rights check (R299): none when it passes. -/
def rightsCheck (e : DWord) (acc : Acc) (sys : Bool) : Option Tr :=
  let no : Tr := .fault 0x20 4 0
  if !eUser e && !sys then some no
  else match acc with
    | .r => if eR e then none else some no
    | .x => if eX e then none else some no
    | .w => if eW e then none else if eCow e then some .cow else some no
    | .rmw => if !eR e then some no else if eW e then none else if eCow e then some .cow else some no

/-- `Translate` (R47, R300). `sys` is a requester that USER does not bind (R299); `own` is the block whose fill the
requester's warp has open (R191). -/
def State.translate (s : State) (asid : BitVec 16) (va : DWord) (acc : Acc) (sys : Bool) (own : Option Nat) : Tr :=
  if field va 52 12 ≠ 0 then .fault 0x20 1 0
  else match s.lookup asid va.toNat with
    | .malformed => .fault 0x20 2 0
    | .miss => .miss
    | .leaf l =>
      match rightsCheck l.entry acc sys with
      | some t => t
      | none =>
        if eQs l.entry && (s.tlbFind asid va.toNat).isNone then
          let leader := s.leaderOf asid va.toNat l
          let e := s.memQ leader
          match eFill e with
          | 2 => .ok (l.place va.toNat) l
          | 3 => .fault 0x21 0 (BitVec.ofNat 64 (field e 12 16))
          | 1 =>
            if own == (s.regionOf asid va.toNat).map (·.blockOf va.toNat) && own.isSome then
              .ok (l.place va.toNat) l
            else .fill leader
          | _ => .fill leader
        else .ok (l.place va.toNat) l

/-- The entry of a leaf found for an address, one for the whole page (R301). -/
def Leaf.tlbEntry (l : Leaf) (cache : Nat) (asid : BitVec 16) (va : Nat) : TlbEntry :=
  let pages := l.bytes / 4096
  { cache := cache, asid := asid, vpn := va / l.bytes * pages, pages := pages
    leaf := if pages = 16 then setField l.entry 12 36 (ePa l.entry / 4096 - va / 4096 % 16) else l.entry }

/-- Puts an entry into its cache, unless the cache has one for the same pages; the entry that a full one gives up is a free value
(R301; log entry 9). -/
def State.cacheEntry (s : State) (new : TlbEntry) : State :=
  let cache := new.cache
  let mine := s.tlb.filter fun t => t.cache == cache
  if mine.any fun t => t.asid == new.asid && t.vpn == new.vpn && t.pages == new.pages then s
  else
    if mine.length < tlbSize cache then { s with tlb := s.tlb ++ [new] }
    else
      let out := mine[(Config.free s.freeCtr).toNat % mine.length]?
      { s with tlb := s.tlb.filter (fun t => some t != out) ++ [new], freeCtr := s.freeCtr + 1 }

/-- Enters a leaf in one translation cache. -/
def State.enterTlb (s : State) (asid : BitVec 16) (va : Nat) (l : Leaf) (cache : Nat) : State :=
  if s.tlb.any fun t => t.cache == cache && t.covers asid va then s else s.cacheEntry (l.tlbEntry cache asid va)

/-- The valid upper-level entries on the path of an address, each with its level. -/
def State.upperEntries (s : State) (va : Nat) : Nat → Nat → List (Nat × DWord)
  | 0, _ => []
  | level + 1, table =>
    let e := s.memQ (table + 8 * tableIndex (level + 1) va)
    if level = 0 || !eV e || badNode (level + 1 == 4) e || bit e 7 then [] else (level + 1, e) :: State.upperEntries s va level (ePa e)

/-- A walk's upper-level entries enter the walk cache of its walkers (R301). -/
def State.cachePath (s : State) (asid : BitVec 16) (va : Nat) : State :=
  match s.walkCache, s.rootOf asid with
  | some c, some root =>
    let found := match s.walkFind asid va with
      | some (level, e) => s.upperEntries va (level - 1) (ePa e)
      | none => s.upperEntries va 4 root
    found.foldl (fun s p =>
      let pages := 2 ^ (9 * (p.1 - 1))
      s.cacheEntry { cache := c, asid := asid, vpn := va / 4096 / pages * pages, pages := pages, leaf := p.2 }) s
  | _, _ => s

/-- Enters a leaf in the translation caches that serve the requester; a quickset leaf only while its block is FILLED
(R301). -/
def State.cacheLeaf (s : State) (asid : BitVec 16) (va : Nat) (l : Leaf) : State :=
  if eQs l.entry && eFill (s.memQ (s.leaderOf asid va l)) != 2 then s
  else s.via.foldl (fun s c => s.enterTlb asid va l c) s

/-- `Translate`, and the caches filled by it. -/
def State.translateIn (s : State) (asid : BitVec 16) (va : DWord) (acc : Acc) (sys : Bool) (own : Option Nat) :
    State × Tr :=
  let t := s.translate asid va acc sys own
  match t with
  | .ok _ l => (State.cacheLeaf (if (s.tlbFind asid va.toNat).isSome then s else s.cachePath asid va.toNat) asid va.toNat l, t)
  | _ => (s, t)

/-- Drops the cached translations that satisfy `p` (R263, R303). -/
def State.shootdown (s : State) (p : TlbEntry → Bool) : State := { s with tlb := s.tlb.filter fun t => !p t }

/-- Empties the instruction caches that satisfy `p`. -/
def State.dropCode (s : State) (p : Nat → Bool) : State :=
  s.mapCopies fun c => if 1024 ≤ c.holder ∧ p (c.holder - 1024) then { c with valid := 0 } else c

/-- Drops the translations of an ASID's pages in [lo, hi), by Tregrim (R303): the instruction caches take part (R328). -/
def State.shootRange (s : State) (asid : BitVec 16) (lo hi : Nat) : State :=
  (s.dropCode fun _ => true).shootdown fun t => t.asid == asid && decide (t.vpn * 4096 < hi) && decide (lo < (t.vpn + t.pages) * 4096)

/-- Writes a leader entry's FILL, and its PA field when `pa` is given (R303, R314). -/
def State.setFill (s : State) (leader fill : Nat) (pa : Option Nat) : State :=
  let e := setField (s.memQ leader) 62 2 fill
  let e := match pa with
    | some x => setField e 12 36 x
    | none => e
  s.memWrite leader 8 e.toNat

end Sys2Proof.Machine
end

