-- ==== Sys2Proof/Machine/Warps.lean ====
section
/-! DEFINITION. Warps, fragments, launches and operations as the other agents reach them, and the active set of a
group (R12, R34, R47). -/

namespace Sys2Proof.Machine

/-! Fragments of a warp. -/

/-- Every live split-table entry of a warp with its fragment, by entry. -/
def Warp.live (w : Warp) : SMap Frag :=
  if w.frag.mask = 0 then w.frags else SMap.insert w.fragIx w.frag w.frags

/-- `LiveLanes` (R120). -/
def Warp.liveLanes (w : Warp) : Mask := w.live.foldl (fun m e => m ||| e.2.mask) 0

/-- Replaces the live fragments; the entry that issues stays in `frag`, free when it is no longer listed. -/
def Warp.setLive (w : Warp) (fs : SMap Frag) : Warp :=
  { w with frag := (SMap.find w.fragIx fs).getD Frag.free, frags := SMap.erase w.fragIx fs }

/-- Applies `f` to the fragment in an entry. -/
def Warp.onFrag (w : Warp) (e : Nat) (f : Frag → Frag) : Warp :=
  if e = w.fragIx then { w with frag := f w.frag }
  else { w with frags := w.frags.map fun x => if x.1 = e then (x.1, f x.2) else x }

/-- The fragment in an entry. -/
def Warp.fragAt (w : Warp) (e : Nat) : Frag :=
  if e = w.fragIx then w.frag else (SMap.find e w.frags).getD Frag.free

/-- Makes entry `e` the one in `frag`. -/
def Warp.focus (w : Warp) (e : Nat) : Warp :=
  let fs := w.live
  { w with fragIx := e, frag := (SMap.find e fs).getD Frag.free, frags := SMap.erase e fs }

/-- The lowest free split-table entry (R111). -/
def freeEntry (fs : SMap Frag) : Nat := (allLanes.find? fun e => (SMap.find e fs).isNone).getD 0

/-- The lowest free join-table index (R111). -/
def freeJoin (js : SMap JoinRec) : Nat := (allLanes.find? fun e => (SMap.find e js).isNone).getD 0

/-- The chain's fragment while a chain is open (R91). -/
def Warp.chainOpen (w : Warp) : Bool := w.live.any fun e => e.2.lrpc.isSome

/-- A warp forced off its slot (R91): latches become invalid and the chain's fragment returns to its latch-restart
PC. -/
def Warp.forceOff (w : Warp) : Warp :=
  let w := { w with latValid := 0, latUnread := 0, chainLen := 0, heldGrp := .none }
  w.setLive (w.live.map fun e => match e.2.lrpc with
    | some pc => (e.1, { e.2 with pc := pc, lrpc := .none })
    | .none => e)

/-- Marks a fragment ready (R125), or debug-stopped while its warp is stopped (R124). -/
def Warp.wakeFrag (w : Warp) (e : Nat) : Warp :=
  w.onFrag e fun f => { f with state := if w.debug then .debugStopped else .ready, wait := .none, pmask := 0 }

/-! The machine's warps. -/

def State.allWarps (s : State) : List Warp := if s.warp.resident then s.warp :: s.warps else s.warps

def State.findWarp (s : State) (uid : Nat) : Option Warp := s.allWarps.find? fun w => w.uid == uid

/-- Applies `f` to a warp wherever it stands. -/
def State.onWarp (s : State) (uid : Nat) (f : Warp → Warp) : State :=
  if s.warp.uid = uid ∧ s.warp.resident then { s with warp := f s.warp }
  else { s with warps := s.warps.map fun w => if w.uid = uid then f w else w }

/-- Applies `f` to every resident warp that satisfies `p`. -/
def State.onWarps (s : State) (p : Warp → Bool) (f : Warp → Warp) : State :=
  { s with warp := if s.warp.resident && p s.warp then f s.warp else s.warp
           warps := s.warps.map fun w => if p w then f w else w }

/-- Makes a warp the one that issues. -/
def State.focusWarp (s : State) (uid : Nat) : State :=
  if s.warp.uid = uid ∧ s.warp.resident then s
  else match s.warps.find? (fun w => w.uid == uid) with
    | none => s
    | some w =>
      let rest := s.warps.filter fun x => x.uid != uid
      { s with warp := w, warps := if s.warp.resident then rest ++ [s.warp] else rest }

def State.launchOf (s : State) (lid : Nat) : Option Launch := s.launches.find? fun l => l.lid == lid

def State.onLaunch (s : State) (lid : Nat) (f : Launch → Launch) : State :=
  { s with launches := modifyFirst (fun l => l.lid == lid) f s.launches }

/-- The number of a fragment warp's own workgroup record, above every index of a grid (R336): a fragment warp belongs to
no workgroup of its launch's grid (R379). -/
def fragWg (idx : Nat) : Bool := decide (2 ^ 40 ≤ idx)

/-- The coordinates of such a record, which the manual does not give: free values (log entry 9). -/
def fragCoord (idx i : Nat) : Nat := (Config.free (4 * idx + i)).toNat % 2 ^ 32

def State.wgOf (s : State) (lid idx : Nat) : Option Wg := s.wgs.find? fun g => g.launch == lid && g.idx == idx

def State.onWg (s : State) (lid idx : Nat) (f : Wg → Wg) : State :=
  { s with wgs := modifyFirst (fun g => g.launch == lid && g.idx == idx) f s.wgs }

/-- The workgroup of the warp that issues. -/
def State.wg (s : State) : Option Wg := s.wgOf s.warp.launch s.warp.wg

/-- Effective items where no region stands (R322). -/
def RegionItems.empty : RegionItems where
  rcb := 0
  warps := 0
  rblk := 0
  tileb := 0
  sramKib := 0
  mshare := 0
  prio := 0
  fdom := 0
  pmeth := 0
  drainpm := 0
  flushpm := 0
  pbound := 0
  trapvec := 0
  upcallmb := 0
  faultq := 0
  bartmo := 0
  debug := false
  system := false
  deadline := 0

/-- The effective items of a launch's region. -/
def State.region (s : State) (lid : Nat) : RegionItems :=
  match s.launchOf lid with
  | some l => l.path.headD RegionItems.empty
  | none => RegionItems.empty

/-- The ASID of a launch. -/
def State.asidOf (s : State) (lid : Nat) : BitVec 16 :=
  match s.launchOf lid with
  | some l => l.asid
  | none => 0

/-- The ASID of the warp that issues. -/
def State.asid (s : State) : BitVec 16 := s.asidOf s.warp.launch

/-! The group that issues. -/

/-- WMODE of the group (R29, R258): the fragment's, or the handler's. -/
def State.wm (s : State) : BitVec 24 :=
  match s.grp.solo, s.warp.solo with
  | true, some h => h.wmode
  | _, _ => s.warp.frag.wmode

/-- A predicate register's bits (R20); p7 reads 1. -/
def Warp.pred (w : Warp) (n : Nat) : Mask := if n = 7 then BitVec.allOnes 64 else rd w.p n

/-- Writes a predicate's bits in the lanes of `m`; a write to p7 is discarded (R20). -/
def Warp.setPred (w : Warp) (n : Nat) (m x : Mask) : Warp :=
  if n = 7 then w else { w with p := wr w.p n ((rd w.p n &&& ~~~m) ||| (x &&& m)) }

/-- A handler bit (R258); p7 reads 1. -/
def Solo.bit (h : Solo) (n : Nat) : Bool := n == 7 || h.hp.getLsbD n

/-- The lanes whose guard is true (R47 `Guard`). -/
def State.guardMask (s : State) : Mask :=
  let g := wmGuard s.wm
  let m := s.warp.pred (g % 8)
  if g / 8 = 1 then ~~~m else m

/-- `ActiveMask()` (R12): the fragment's lanes that pass the guard; a group issued again after a restore issues for the
lanes of PMASK only (R366). A handler is one scalar thread, lane 0. -/
def State.active (s : State) : Mask :=
  match s.grp.solo, s.warp.solo with
  | true, some h => if h.bit (wmGuard h.wmode % 8) != (wmGuard h.wmode / 8 == 1) then 1 else 0
  | _, _ => (if s.warp.frag.pmask = 0 then s.warp.frag.mask else s.warp.frag.mask &&& s.warp.frag.pmask) &&& s.guardMask

/-- The active lanes that are no helper lanes (R171). -/
def State.performers (s : State) : Mask := s.active &&& ~~~s.warp.helper

/-- The lanes that perform a store, atomic or copy (R171); a handler is one scalar thread (R258). -/
def State.doers (s : State) : Mask := if s.grp.solo then s.active else s.performers

/-- The fragment's lanes, or the handler's one lane (R258). -/
def State.fragMask (s : State) : Mask := if s.grp.solo then 1 else s.warp.frag.mask

/-- Whether USER does not bind the requester (R299): a handler of a system region. -/
def State.sysReq (s : State) : Bool := s.grp.solo && (s.region s.warp.launch).system

/-- The element type of the group (R26). -/
def State.et (s : State) : EType := etypeOf (wmEtype s.wm)
def State.md (s : State) : Mode := wmMode s.wm
/-- Whether the element type is 64 bits wide (R17). -/
def State.wide (s : State) : Bool := s.et.wide

/-! Operations. -/

def State.opOf (s : State) (id : Nat) : Option Op := s.ops.find? fun o => o.id == id

def State.onOp (s : State) (id : Nat) (f : Op → Op) : State :=
  { s with ops := modifyFirst (fun o => o.id == id) f s.ops }

def Op.onLane (o : Op) (lane : Nat) (f : LaneReq → LaneReq) : Op :=
  { o with lanes := modifyFirst (fun l => l.lane == lane) f o.lanes }

def Op.lane (o : Op) (lane : Nat) : Option LaneReq := o.lanes.find? fun l => l.lane == lane

/-- TLD, TST, TLD.S and TST.S. -/
def OpKind.tileMove : OpKind → Bool
  | .tileLoad _ _ _ => true
  | .tileStore _ _ _ => true
  | _ => false

/-- The next operation with a parked lane for which the fragment in entry `e` waits (R169); the requests of a tile move are
rows, of the fragment that issued it (R232). -/
def State.parkedOp (s : State) (uid e : Nat) (f : Frag) : Option Nat :=
  (s.ops.find? fun o => o.uid == uid && o.lanes.any fun l =>
    l.stage.parked && (if o.kind.tileMove then o.entry == e else f.mask.getLsbD (l.lane % 64))).map (·.id)

/-- Takes an operation out, an LDA with its acquire (R173), and wakes the fragment that waits for it (R169, R216), unless
another of its operations has a parked lane. -/
def State.endOp (s : State) (id : Nat) : State :=
  match s.opOf id with
  | none => s
  | some o =>
    let s := match o.kind with
      | .load .acq _ _ _ _ => s.selfInvalidate (clusterOf o.core)
      | _ => s
    let s := { s with ops := s.ops.filter fun o => o.id != id }
    s.onWarp o.uid fun w =>
      let hand (h : Solo) : Solo := if h.wait = .lanes id ∨ h.wait = .sysc id then { h with wait := .none } else h
      let w : Warp := { w with solo := w.solo.map hand }
      w.live.foldl (fun w e =>
        let f := e.2
        if f.state = .waiting ∧ (f.wait = .lanes id ∨ f.wait = .late id ∨ f.wait = .acquire id ∨ f.wait = .shadow id ∨ f.wait = .sysc id) then
          match s.parkedOp o.uid e.1 f with
          | some next => w.onFrag e.1 fun f => { f with wait := .late next }
          | none => w.wakeFrag e.1
        else w) w

/-- What a fault leaves behind in an operation whose lanes `ls` posted it: the results of a texture lane read 0 (R242),
and the operation remembers it. -/
def State.spoil (s : State) (o : Op) (ls : List Nat) : State :=
  let s := s.onOp o.id fun o => { o with bytes := SMap.insert (2 ^ 20) 1 o.bytes }
  match o.kind with
  | .tex mode d _ => s.onWarp o.uid fun w =>
      { w with v := ls.foldl (fun v l => (List.range (if mode = 1 then 8 else 4)).foldl (fun v r => wr v ((d.toNat + r) * 64 + l) 0) v) w.v }
  | _ => s

/-- Ends an operation whose lanes have all completed. -/
def State.settle (s : State) (id : Nat) : State :=
  match s.opOf id with
  | none => s
  | some o => if !o.kind.tileMove && o.lanes.all (fun l => l.stage == .done) then s.endOp id else s

/-- A TRACE is over with its last ray (R240). -/
def State.settleTraces (s : State) : State :=
  (s.ops.filter fun o => match o.kind with
    | .trace _ => (s.findWarp o.uid).any fun w => !(w.rays.any fun r => r.2.op == o.id && r.2.running)
    | _ => false).foldl (fun s o => s.endOp o.id) s

/-- The in-flight slots a warp's operations hold (R193); SYSC holds none once its lanes are submitted (R257). -/
def Op.holdsSlot (o : Op) : Bool :=
  match o.kind with
  | .mma _ _ _ _ _ _ => false
  | .port _ _ => false
  | .xfer => true
  | .acquireRegs _ _ _ => false
  | .acquireTiles _ _ _ => false
  | .shadowReq _ => false
  | .sysc _ => false
  | _ => true

def State.slotsUsed (s : State) (uid : Nat) : Nat := (s.ops.filter fun o => o.uid == uid && o.holdsSlot).length

/-- Whether a warp has an operation that satisfies `p`. -/
def State.warpHas (s : State) (uid : Nat) (p : Op → Bool) : Bool := s.ops.any fun o => o.uid == uid && p o

/-- A new operation of the warp that issues, with all it captures. -/
def State.newOpWith (s : State) (kind : OpKind) (lanes : List LaneReq) (data data2 : SMap Word) (bytes : SMap Byte) : State :=
  { s with
    nextOp := s.nextOp + 1
    ops := s.ops ++ [{ id := s.nextOp, uid := s.warp.uid, entry := s.warp.fragIx, pc := s.grp.pc, kind := kind, lanes := lanes, data := data, data2 := data2, bytes := bytes, core := s.warp.core, asid := s.asid, launch := s.warp.launch, sys := s.sysReq, rep := s.grp.repIx, after := s.warp.after.filter fun i => s.ops.any fun o => o.id == i }] }

/-- A new operation of the warp that issues. -/
def State.newOp (s : State) (kind : OpKind) (lanes : List LaneReq) (data : SMap Word) : State := s.newOpWith kind lanes data [] []

/-! The peer group. -/

/-- Port-control words (R422). -/
def State.portQ (s : State) (off : Nat) : DWord := rd s.ports off
def State.selfId (s : State) : Nat := field s.selfid 0 8
def State.grouped (s : State) : Bool := bit s.selfid 8

/-- The credential of a context (R423). -/
def State.credOf (s : State) (asid : BitVec 16) : BitVec 32 :=
  bits (s.portQ (0x100000 + 8 * (asid.toNat / 2))) (32 * (asid.toNat % 2)) 32

/-- A fresh free value (log entry 9). -/
def State.freeValue (s : State) : DWord := Config.free s.freeCtr

end Sys2Proof.Machine
end

