-- ==== Sys2Proof/Machine/Faults.lean ====
section
/-! DEFINITION. Fault records, their rings and the action of a fault domain (R358–R360), the event log (R404), and
counter steps (R201). -/

namespace Sys2Proof.Machine

/-- The fields of a fault record that its event gives (R358). -/
structure FaultRec where
  code : Nat
  kind : Nat
  core : Nat
  slot : Nat
  cause : Nat
  pc : DWord
  lanes : Mask
  addr : DWord
  aux : DWord
  lid : Nat
  rcb : DWord
deriving DecidableEq, Repr

/-- The 64 bytes of a record (R358); CLOCK is read at posting. A prologue is charged to no warp. -/
def FaultRec.bytes (r : FaultRec) (flags clock : Nat) : List Byte :=
  leBytes 2 r.code ++ leBytes 1 r.kind ++ leBytes 1 flags ++ leBytes 2 (if 192 ≤ r.core then 0xFFFF else r.core) ++ leBytes 1 (if 192 ≤ r.core then 0xFF else r.slot) ++ leBytes 1 r.cause ++
  leBytes 8 r.pc.toNat ++ leBytes 8 r.lanes.toNat ++ leBytes 8 r.addr.toNat ++ leBytes 8 r.aux.toNat ++
  leBytes 8 r.lid ++ leBytes 8 r.rcb.toNat ++ leBytes 8 clock

/-- The physical address of an address of a space, or a physical address itself: USER binds the hardware's accesses on
a program's behalf (R299), and not its reads of RCBs, which a system region keeps on pages with USER clear (R322). -/
def State.reachAs (s : State) (space : Option (BitVec 16)) (a : Nat) (acc : Acc) (sys : Bool) : Option Nat :=
  match space with
  | none => some a
  | some asid =>
    match s.viaWalker.translate asid (BitVec.ofNat 64 a) acc sys none with
    | .ok p _ => if placePeer p then none else some (placePa p)
    | _ => none

def State.reach (s : State) (space : Option (BitVec 16)) (a : Nat) (acc : Acc) : Option Nat := s.reachAs space a acc false

/-- Whether a copy engine still owns a physical line for a copy (R185 step 2, R208), through whatever mapping it is
asked for. -/
def CopyJob.owns (s : State) (j : CopyJob) (line : Nat) : Bool :=
  !j.written && copyHits j.index (fun va => va.toNat % 4096 / 128 == line % 32 &&
    (s.reach (some j.asid) va.toNat .w).any fun q => lineOf q == line) (copySpans j.dims 1 []) j.dst 0

/-- Whether an engine owns a line: what an access waits for (R185 step 2). MCAS locks are held within one event of the
model (log entry 10). -/
def State.lineOwned (s : State) (line : Nat) : Bool := s.copyJobs.any fun j => j.owns s line

/-- Whether an engine owns a line of `n` bytes at a physical address. -/
def State.bytesOwned (s : State) (pa n : Nat) : Bool :=
  (List.range (lineOf (pa + n - 1) + 1 - lineOf pa)).any fun i => s.lineOwned (lineOf pa + i)

/-- Adds to a counter at its home, stopping at 2^64 − 1 (R201); the flag says whether it saturated. -/
def State.counterAdd (s : State) (pa inc : Nat) : State × Nat × Bool :=
  let s := s.mergeBytes pa 8
  let old := s.memRead pa 8
  let new := old + inc
  let sat := decide (2 ^ 64 - 1 < new)
  (s.homeWrite none pa (leBytes 8 (if sat then 2 ^ 64 - 1 else new)), old, sat)

/-- What stands between a counter step and its counter: nothing, a page, block or engine to wait for, or a failure (R201,
R297). -/
inductive StepReach where
  | ok (pa : Nat)
  | wait
  | no
deriving DecidableEq, Repr

/-- Reaches the counter of a step made by the hardware, for a handler that USER does not bind where `sys` (R299). -/
def State.stepReach (s : State) (space : Option (BitVec 16)) (a : Nat) (sys : Bool) : StepReach :=
  let owned (pa : Nat) : StepReach := if s.bytesOwned pa 8 then .wait else .ok pa
  if a % 8 ≠ 0 then .no
  else match space with
    | none => owned a
    | some asid => match s.viaWalker.translate asid (BitVec.ofNat 64 a) .rmw sys none with
      | .ok p _ => if placePeer p then .no else owned (placePa p)
      | .fault _ _ _ => .no
      | _ => .wait

/-- Adds to a counter at an address of a space (R201), at once where it can be reached, and otherwise once its page, block or
line can: the step is then owed (`State.runSteps`). -/
def State.counterStepAs (s : State) (sys : Bool) (space : Option (BitVec 16)) (a inc : Nat) : State :=
  match s.stepReach space a sys with
  | .ok pa => (s.counterAdd pa inc).1
  | .wait => { s with steps := s.steps ++ [{ space := space, addr := a, inc := inc, op := none, sys := sys }] }
  | .no => s

def State.counterStep (s : State) (space : Option (BitVec 16)) (a inc : Nat) : State := s.counterStepAs false space a inc

/-- A counter step that ends an operation with it (R213): the operation goes on until the step is made. -/
def State.counterStepEnding (s : State) (space : Option (BitVec 16)) (a inc op : Nat) : State :=
  match s.stepReach space a false with
  | .ok pa => (s.counterAdd pa inc).1.endOp op
  | _ => { s with steps := s.steps ++ [{ space := space, addr := a, inc := inc, op := some op }] }

/-- Writes bytes of one page at an address of a space, at their home. -/
def State.storeSpace (s : State) (space : Option (BitVec 16)) (a : Nat) (bs : List Byte) : State :=
  match s.reach space a .w with
  | some pa => s.homeWrite none pa bs
  | none => s

/-- A ring of R359: its header readable and within the layout. -/
def State.ringOk (s : State) (space : Option (BitVec 16)) (ring : Nat) : Option Nat :=
  if ring = 0 ∨ ring % 64 ≠ 0 then none
  else match s.reach space ring .rmw with
    | none => none
    | some pa =>
      let lg := s.memRead (pa + 16) 1
      if 4 ≤ lg ∧ lg ≤ 16 ∧ s.memRead (pa + 17) 7 = 0 ∧ s.memRead (pa + 40) 24 = 0 then some pa else none

/-- Where a ring takes its next record (R359). -/
def State.ringSlot (s : State) (ring pa n : Nat) : Nat := ring + 64 + n * (s.memRead (pa + 8) 8 % 2 ^ s.memRead (pa + 16) 1)

/-- Puts a record into a ring whose header lies at `pa` (R359): the record, then TAIL, then NOTIFY; a full ring drops
it and counts. -/
def State.ringPut (s : State) (space : Option (BitVec 16)) (ring pa : Nat) (bs : List Byte) : State × Bool :=
  let s := s.mergeBytes pa 64
  let lg := s.memRead (pa + 16) 1
  let head := s.memRead pa 8
  let tail := s.memRead (pa + 8) 8
  if (2 ^ 64 + tail - head) % 2 ^ 64 = 2 ^ lg then
    let n := s.memRead (pa + 24) 8
    (s.homeWrite none (pa + 24) (leBytes 8 (if n = 2 ^ 64 - 1 then n else n + 1)), false)
  else
    let s := s.storeSpace space (s.ringSlot ring pa bs.length) bs
    let s := (s.counterAdd (pa + 8) 1).1
    let notify := s.memRead (pa + 32) 8
    (if notify = 0 then s else s.counterStep space notify 1, true)

/-- Whether a record has to wait for its ring (R185 step 2): an engine owns the ring's header or the place of the record, or an earlier
record waits for it. -/
def State.ringBusy (s : State) (space : Option (BitVec 16)) (ring pa n : Nat) : Bool :=
  (s.posts.any fun p => p.space == space && p.ring == ring) || s.bytesOwned pa 64 ||
  (s.reach space ((s.mergeBytes pa 64).ringSlot ring pa n) .w).any fun q => s.bytesOwned q n

/-- Posts a record into a ring, at once or when it can (`State.drainPosts`). -/
def State.ringPost (s : State) (space : Option (BitVec 16)) (ring pa : Nat) (bs : List Byte) : State × Bool :=
  if s.ringBusy space ring pa bs.length then ({ s with posts := s.posts ++ [{ space := space, ring := ring, bytes := bs }] }, true)
  else s.ringPut space ring pa bs

/-- The system fault ring (R403). -/
def State.postSystem (s : State) (bs : List Byte) : State :=
  let lost : State := { s with sfrlost := if s.sfrlost = BitVec.allOnes 64 then s.sfrlost else s.sfrlost + 1 }
  match s.ringOk none s.sfrbase.toNat with
  | none => lost
  | some pa =>
    match s.ringPost none s.sfrbase.toNat pa bs with
    | (s', true) => s'
    | (s', false) => { s' with sfrlost := lost.sfrlost }

/-- Posts to the first usable ring of a region path, else to the system fault ring (R359). -/
def State.postPath (s : State) (asid : BitVec 16) (bs : List Byte) : List RegionItems → State
  | [] => s.postSystem bs
  | r :: path =>
    match s.ringOk (some asid) r.faultq.toNat with
    | some pa => (s.ringPost (some asid) r.faultq.toNat pa bs).1
    | none => State.postPath s asid bs path

/-- A record that waits for its ring, tried again; what the system fault ring does not take is counted (R403). -/
def State.drainPost (s : State) (p : Post) : State :=
  let lost (s : State) : State :=
    if p.space.isNone ∧ p.ring = s.sfrbase.toNat then { s with sfrlost := if s.sfrlost = BitVec.allOnes 64 then s.sfrlost else s.sfrlost + 1 } else s
  match s.ringOk p.space p.ring with
  | none => lost s
  | some pa => match s.ringPost p.space p.ring pa p.bytes with
    | (s, true) => s
    | (s, false) => lost s

/-- The records that wait for their rings, tried again in order. -/
def State.drainPosts (s : State) : State := s.posts.foldl (fun s p => s.drainPost p) { s with posts := [] }

/-- The domain that acts on a record (R360): the path from the acting region on, the action (0 kill, 1 park) and
whether the record was escalated. -/
def actingDomain : List RegionItems → Bool → List RegionItems × Nat × Bool
  | [], e => ([], 0, e)
  | [r], e => ([r], if r.fdom = 2 then 0 else r.fdom, e || r.fdom == 2)
  | r :: r' :: path, e => if r.fdom = 2 then actingDomain (r' :: path) true else (r :: r' :: path, r.fdom, e)

/-- The live lanes of a warp, placed or saved. -/
def State.lanesNow (s : State) (uid : Nat) : Mask :=
  match s.findWarp uid, s.saved.find? (fun w => w.uid == uid) with
  | some w, _ => w.liveLanes
  | none, some w => w.liveLanes
  | none, none => 0

/-- Posts a record of KIND 0, 1 or 3 and lets the launch's fault domain act (R360): kill marks the launch, whose
warps end at their next group boundary; park marks the fragments that hold a named lane, of a saved warp too. A fault that names
no live lane has no action, and its record no flag. -/
def State.postFault (s : State) (uid : Nat) (r : FaultRec) : State :=
  match s.launchOf r.lid with
  | none => s.postSystem (r.bytes 0 s.clock)
  | some l =>
    let (path, act, esc) := actingDomain l.path false
    if r.kind = 1 ∧ s.lanesNow uid &&& r.lanes = 0 then s.postPath l.asid (r.bytes 0 s.clock) l.path
    else
      let flags := (if act = 0 then 1 else 2) + (if esc then 4 else 0)
      let s := s.postPath l.asid (r.bytes flags s.clock) path
      if act = 0 then s.onLaunch r.lid fun l => { l with killed := true }
      else
        let mark (w : Warp) : Warp := w.setLive (w.live.map fun e =>
          if e.2.mask &&& r.lanes = 0 then e else (e.1, { e.2 with parkPend := true }))
        { (s.onWarp uid mark) with saved := s.saved.map fun w => if w.uid = uid then mark w else w }

/-- The record of a fault that an access of a warp posts. -/
def Warp.faultRec (w : Warp) (s : State) (code cause : Nat) (pc : DWord) (lanes : Mask) (addr aux : DWord) : FaultRec :=
  { code := code, kind := 1, core := w.core, slot := w.slot, cause := cause, pc := pc, lanes := lanes, addr := addr, aux := aux, lid := w.launch, rcb := (s.region w.launch).rcb }

/-- `Fault` (R47) for lanes of the group that issues; a handler's access names its frozen lanes. -/
def State.fault (s : State) (code cause : Nat) (lanes : Mask) (addr aux : DWord) : State :=
  let lanes := match s.grp.solo, s.warp.solo with
    | true, some h => h.fragMask
    | _, _ => lanes
  s.postFault s.warp.uid (s.warp.faultRec s code cause s.grp.pc lanes addr aux)

/-- A fault of an outstanding operation. -/
def State.opFault (s : State) (o : Op) (code cause : Nat) (lanes : Mask) (addr aux : DWord) : State :=
  let base : FaultRec := { code := code, kind := 1, core := o.core, slot := 0xFF, cause := cause, pc := o.pc, lanes := lanes, addr := addr, aux := aux, lid := o.launch, rcb := (s.region o.launch).rcb }
  match s.findWarp o.uid with
  | some w => s.postFault o.uid { base with slot := w.slot, core := w.core }
  | none => s.postFault o.uid base

/-- A KIND 2 record (R336, R358): posted, with no action. -/
def State.postQueue (s : State) (asid : BitVec 16) (path : List RegionItems) (code cause : Nat) (addr aux : DWord)
    (lid : Nat) (rcb : DWord) : State :=
  s.postPath asid (FaultRec.bytes { code := code, kind := 2, core := 0xFFFF, slot := 0xFF, cause := cause, pc := 0, lanes := 0, addr := addr, aux := aux, lid := lid, rcb := rcb } 0 s.clock) path

/-- Appends a record to the event log (R404). -/
def State.logEvent (s : State) (event device : Nat) (arg aux : DWord) : State :=
  match s.ringOk none s.evlbase.toNat with
  | none => s
  | some pa =>
    (s.ringPost none s.evlbase.toNat pa (leBytes 2 event ++ leBytes 2 device ++ leBytes 4 0 ++ leBytes 8 s.clock ++
      leBytes 8 arg.toNat ++ leBytes 8 aux.toNat)).1

end Sys2Proof.Machine
end

