-- ==== Sys2Proof/Machine/Fills.lean ====
section
/-! DEFINITION. The life of a quickset block (R309–R317), its waiters, and the faults they take (R312, R319). -/

namespace Sys2Proof.Machine

/-- The hit record of a miss (R249) with a STATUS. -/
def missRecord (status : Word) : List Word := [0x7F800000, 0, 0, 0xFFFFFFFF, 0xFFFFFFFF, 0xFFFFFFFF, 0, status]

/-- Ends a ray with STATUS.FAULT and the record of a miss, keeping RESTARTS (R247, R248). -/
def Ray.endFault (r : Ray) : Ray :=
  { r with running := false, parked := none, hit := missRecord (BitVec.ofNat 32 (256 * r.restarts + 4)) }

/-- The fault of a ray, charged to the TRACE that submitted it (R247, R319). -/
def State.rayFault (s : State) (r : Ray) (lane code cause : Nat) (addr aux : DWord) : State :=
  match s.opOf r.op with
  | some o => s.opFault o code cause (laneBit lane) addr aux
  | none => s

/-- The fill of the block whose leader entry is at `leader`. -/
def State.fillOf (s : State) (leader : Nat) : Option Fill := s.fills.find? fun f => f.leader == leader

/-- The fill a warp has open (R191). -/
def State.fillOfWarp (s : State) (w : Warp) : Option Fill :=
  match w.fillOpen with
  | none => none
  | some b => s.fills.find? fun f => f.block.toNat == b && f.asid == s.asidOf w.launch

/-- Bytes of a region's block. -/
def QRegion.blockBytes (r : QRegion) : Nat := 2 ^ r.blkLog2

/-- Writes PA into the leaves of a block, from its leader on (R310); `pa` none clears them. -/
def State.writeLeaves (s : State) (r : QRegion) (leader : Nat) (pa : Option Nat) : State :=
  if r.pageLog2 = 21 then
    s.memWrite leader 8 (setField (s.memQ leader) 12 36 ((pa.getD 0) / 4096)).toNat
  else (List.range (r.blockBytes / 4096)).foldl (fun s i =>
    let e := s.memQ (leader + 8 * i)
    s.memWrite (leader + 8 * i) 8 (setField e 12 36 (match pa with
      | some p => p / 4096 + i
      | none => 0)).toNat) s

/-- A zeroed range, every cached copy of it gone (R288). -/
def State.zeroRange (s : State) (lo n : Nat) : State :=
  { (s.dropRange (fun _ => true) lo (lo + n)) with
    mem := s.mem.filter fun e => !(decide (lo ≤ e.1) && decide (e.1 < lo + n))
    owners := s.owners.filter fun e => !(decide (lo ≤ e.1 * 4) && decide (e.1 * 4 < lo + n))
    comm := s.comm.filter fun c => !(decide (lo ≤ c.line * 128) && decide (c.line * 128 < lo + n)) }

/-- The quickset page pool of a die. -/
def State.pool (s : State) (die : Nat) : List Nat := SMap.getD [] s.pools die
def State.setPool (s : State) (die : Nat) (l : List Nat) : State := { s with pools := SMap.put [] s.pools die l }

/-- The watermark of a die's pool (R316). -/
def State.mark (s : State) (die : Nat) : Nat := SMap.getD 0 s.watermark die

/-- A die whose pool has fallen below its watermark reclaims until it is above it (R316). -/
def State.noteReclaim (s : State) (die : Nat) : State :=
  let n := (s.pool die).length
  if n < s.mark die ∧ !s.reclaiming.contains die then { s with reclaiming := s.reclaiming ++ [die] }
  else if s.mark die < n then { s with reclaiming := s.reclaiming.filter (· != die) }
  else s

/-- Gives a held fill request its backing, when the pool of its fill unit's die has a frame (R310). -/
def State.backFill (s : State) (leader : Nat) : State :=
  match s.fillOf leader with
  | none => s
  | some f =>
    if !f.held then s
    else match s.pool (homeDie leader), s.regionOf f.asid f.block.toNat with
      | frame :: rest, some r =>
        let s := ((s.setPool (homeDie leader) rest).noteReclaim (homeDie leader)).zeroRange frame r.blockBytes
        let s := s.writeLeaves r leader (some frame)
        { s with fills := modifyFirst (fun f => f.leader == leader) (fun f => { f with backing := [frame], held := false }) s.fills }
      | _, _ => s

/-- Backs the held requests of a die in their order of arrival, as far as its pool goes (R310). -/
def State.backFills (s : State) (die : Nat) : State :=
  ((s.fills.filter fun f => f.held && homeDie f.leader == die).map (·.leader)).foldl (fun s l => s.backFill l) s

/-- EMPTY becomes FILLING (R310): the request is queued with its depth, and backed at once when the pool can. -/
def State.startFill (s : State) (asid : BitVec 16) (va : DWord) (leader depth : Nat) : State :=
  match s.regionOf asid va.toNat with
  | none => s
  | some r =>
    let s := s.setFill leader 1 none
    State.backFills { s with fills := s.fills ++ [{ leader := leader, asid := asid, block := BitVec.ofNat 64 (r.blockOf va.toNat), depth := depth, launch := none, backing := [], edges := [], held := true }] } (homeDie leader)

/-- Returns a fill's backing and forgets it. -/
def State.dropFill (s : State) (leader : Nat) : State :=
  match s.fillOf leader with
  | none => s
  | some f =>
    { (f.backing.foldl (fun s p => s.setPool (homeDie p) (s.pool (homeDie p) ++ [p])) s) with
      fills := s.fills.filter fun f => f.leader != leader }

/-! Waiters. -/

/-- The address that waits for a block's fill. -/
def Wait.onFill (w : Wait) (leader : Nat) : Option DWord :=
  match w with
  | .fill l va => if l = leader then some va else .none
  | _ => .none

/-- Moves an operation's lanes that are parked on a block to another stage. -/
def Op.unpark (o : Op) (leader : Nat) (st : Stage) : Op :=
  let f (l : LaneReq) : LaneReq := if l.stage = .parkFill leader then { l with stage := st } else l
  { o with lanes := o.lanes.map f }

/-- Every waiter of a block replays its access (R192, R312). -/
def State.releaseWaiters (s : State) (leader : Nat) : State :=
  let s : State := { s with
    ops := s.ops.map fun o => o.unpark leader (.retry leader)
    copyJobs := s.copyJobs.map fun j => if j.parked = some leader then { j with parked := none } else j
    agentWaits := s.agentWaits.filter fun w => w.leader != some leader
    fills := s.fills.map fun f => { f with edges := f.edges.filter (· != leader) } }
  s.onWarps (fun _ => true) fun w =>
    let ray (r : Nat × Ray) : Nat × Ray := if r.2.parked = some leader then (r.1, { r.2 with parked := none }) else r
    let hand (h : Solo) : Solo := if (h.wait.onFill leader).isSome then { h with wait := .none } else h
    let w : Warp := { w with rays := w.rays.map ray, solo := w.solo.map hand }
    w.live.foldl (fun w e => if e.2.state = .waiting ∧ (e.2.wait.onFill leader).isSome then w.wakeFrag e.1 else w) w

/-- Posts the fault of one operation's lanes parked on a block, one record naming them with the address of the
lowest (R312, R319), and ends those lanes. -/
def State.faultOp (s : State) (leader code : Nat) (aux : DWord) (o : Op) : State :=
  let ls := o.lanes.filter fun l => l.stage == .parkFill leader
  match ls with
  | [] => s
  | l :: _ =>
    let s := s.opFault o code 0 (ls.foldl (fun m l => m ||| laneBit l.lane) 0) (l.waitsAt o.kind) aux
    let hit (l : LaneReq) : Bool := ls.any fun m => m.lane % 64 == l.lane % 64
    let s := s.spoil o (ls.map (·.lane))
    (s.onOp o.id fun o => { o with lanes := o.lanes.map fun l => if hit l then { l with stage := .done } else l }).settle o.id

/-- A fragment that waits for copies under CPY.Y, when one of them ends (R209): with the last it goes on, at the
continuation PC if none of them posted a fault. -/
def Frag.copyEnds (f : Frag) (id : Nat) (bad debug : Bool) : Frag :=
  match f.wait with
  | .cpyY cont jobs faulted =>
    if jobs.contains id then
      if jobs.filter (· != id) = [] then
        { f with wait := .none, state := if debug then .debugStopped else .ready, pc := if faulted || bad then f.pc else cont }
      else { f with wait := .cpyY cont (jobs.filter (· != id)) (faulted || bad) }
    else f
  | _ => f

/-- A copy leaves its engine, completed or faulted; a saved warp only learns of a fault, and looks at its copies when it
is restored (R366). -/
def State.copyEnds (s : State) (id : Nat) (bad : Bool) : State :=
  let s : State := { s with copyJobs := s.copyJobs.filter fun j => j.id != id }
  let s := s.onWarps (fun _ => true) fun w => w.setLive (w.live.map fun e => (e.1, e.2.copyEnds id bad w.debug))
  let note (f : Frag) : Frag := match f.wait with
    | .cpyY cont jobs faulted => if jobs.contains id then { f with wait := .cpyY cont jobs (faulted || bad) } else f
    | _ => f
  let keep (w : Warp) : Warp := w.setLive (w.live.map fun e => (e.1, note e.2))
  { s with saved := s.saved.map keep }

/-- A copy stops at a fault (R208): the record names the descriptor and the linear index reached. -/
def State.copyFault (s : State) (j : CopyJob) (code cause : Nat) : State :=
  let s := s.copyEnds j.id true
  s.postFault j.uid { code := code, kind := 1, core := j.core, slot := j.slot, cause := cause, pc := j.pc, lanes := laneBit j.lane, addr := j.desc, aux := BitVec.ofNat 64 j.index, lid := j.launch, rcb := (s.region j.launch).rcb }

/-- Every waiter of a block takes a fault (R312–R314, R319), but for those of the warps that `spare` names. A fragment that waits
as a whole raises it as a precise trap when it issues its group again, and an agent takes it when it comes again. -/
def State.faultWaiters (s : State) (leader code : Nat) (aux : DWord) (spare : Nat → Bool) : State :=
  let s := (s.ops.filter fun o => !spare o.uid).foldl (fun s o => s.faultOp leader code aux o) s
  let s := (s.copyJobs.filter fun j => j.parked == some leader && !spare j.uid).foldl (fun s j => s.copyFault j code 0) s
  let s : State := { s with
    fills := s.fills.map fun f => { f with edges := f.edges.filter (· != leader) }
    agentWaits := s.agentWaits.map fun w => if w.leader = some leader then { w with leader := none, refused := some (code, 0, aux) } else w }
  (s.allWarps.filter fun w => !spare w.uid).foldl (fun s w =>
    let s := (w.rays.filter fun r => r.2.parked == some leader).foldl (fun s r =>
      let s := s.rayFault r.2 (r.1 % 64) code 0 r.2.addr aux
      let ray (x : Nat × Ray) : Nat × Ray := if x.1 = r.1 then (x.1, x.2.endFault) else x
      s.onWarp w.uid fun w => { w with rays := w.rays.map ray }) s
    s.onWarp w.uid fun w =>
      let hand (h : Solo) : Solo := match h.wait.onFill leader with
        | some va => { h with wait := .refused code 0 va aux }
        | none => h
      let w : Warp := { w with solo := w.solo.map hand }
      w.live.foldl (fun w e =>
        match e.2.state, e.2.wait.onFill leader with
        | .waiting, some va => (w.wakeFrag e.1).onFrag e.1 fun f => { f with wait := .refused code 0 va aux, pmask := e.2.pmask }
        | _, _ => w) w) s

/-- FILLING becomes FAILED with a code, and every waiter takes QS_GEN_FAILED (R314). -/
def State.failBlock (s : State) (leader code : Nat) : State :=
  match s.fillOf leader with
  | none => s
  | some f =>
    let s := match s.regionOf f.asid f.block.toNat with
      | some r => s.writeLeaves r leader none
      | none => s
    let s := (s.dropFill leader).setFill leader 3 (some code)
    s.faultWaiters leader 0x21 (BitVec.ofNat 64 code) (fun _ => false)

/-- FILLING becomes FILLED and the waiters replay (R192, R314). -/
def State.fillDone (s : State) (leader : Nat) : State :=
  let s := s.setFill leader 2 none
  let s : State := { s with fills := s.fills.filter (fun f => f.leader != leader), filledOrder := s.filledOrder ++ [leader] }
  s.releaseWaiters leader

/-- A warp's open fill fails with a code: its last lane exits, it is killed, or it ends as FILLFAIL says (R192). -/
def State.failOpen (s : State) (w : Warp) (code : Nat) : State :=
  match s.fillOfWarp w with
  | none => s
  | some f => (s.failBlock f.leader code).onWarp w.uid fun w => { w with fillOpen := none }

/-! The fill graph (R313): an edge X → Y while a lane of X's generator is parked on Y. -/

/-- The blocks that reach one of `ys` through the graph, `ys` included. -/
def State.reaching (s : State) : Nat → List Nat → List Nat
  | 0, ys => ys
  | n + 1, ys =>
    State.reaching s n (ys ++ (s.fills.filter fun f => !ys.contains f.leader && f.edges.any ys.contains).map (·.leader))

/-- MAXDEPTH of the region of a filling block. -/
def State.maxDepth (s : State) (leader : Nat) : Nat :=
  match s.fillOf leader with
  | some f => ((s.regionOf f.asid f.block.toNat).map (·.maxDepth)).getD 4
  | none => 4

/-- Every path that ends at `x`, as a list of blocks, up to a length. -/
def State.pathsTo (s : State) : Nat → List Nat → List (List Nat)
  | 0, p => [p]
  | n + 1, p =>
    p :: ((s.fills.filter fun f => f.edges.contains (p.headD 0) && !p.contains f.leader).map (·.leader)).flatMap
      fun l => State.pathsTo s n (l :: p)

/-- Every path that starts at `y`, up to a length. -/
def State.pathsFrom (s : State) : Nat → Nat → List (List Nat)
  | 0, y => [[y]]
  | n + 1, y =>
    [y] :: (((s.fillOf y).map (·.edges)).getD []).flatMap fun z => (State.pathsFrom s n z).map fun p => y :: p

/-- Whether some path through a new edge X → Y holds more blocks than the smallest MAXDEPTH on it (R313). -/
def State.tooDeep (s : State) (x y yDepth : Nat) : Bool :=
  (s.pathsTo 5 [x]).any fun p => (s.pathsFrom 5 y).any fun q =>
    let blocks := p ++ q
    decide ((blocks.map fun b => if b = y then yDepth else s.maxDepth b).foldl Min.min 4 < blocks.length)

/-- Removes the warp of a cancelled generator, with its copies and transfers: no code, no record (R313). -/
def State.dropLaunchWarps (s : State) (lid : Nat) : State :=
  let gone (w : Warp) : Bool := w.launch == lid
  let uids := (s.allWarps.filter gone).map (·.uid)
  { s with
    warp := if gone s.warp then Warp.empty else s.warp
    warps := s.warps.filter fun w => !gone w
    wgs := s.wgs.filter fun g => g.launch != lid
    ops := s.ops.filter fun o => !uids.contains o.uid
    copyJobs := s.copyJobs.filter fun j => j.launch != lid
    xfers := s.xfers.filter fun x => x.launch != lid
    saved := s.saved.filter fun w => w.launch != lid
    launches := s.launches.map fun l => if l.lid = lid then { l with complete := true, unplaced := [] } else l }

/-- A refused edge (R313): X and every block that reaches X return to EMPTY, their generators end without a code, and
every other waiter of those blocks takes the fault of the refusal. -/
def State.refuse (s : State) (x code : Nat) : State :=
  let gone := s.reaching s.fills.length [x]
  let lids := (s.fills.filter fun f => gone.contains f.leader).filterMap (·.launch)
  let spare (uid : Nat) : Bool := s.allWarps.any fun w => w.uid == uid && lids.contains w.launch
  let s := gone.foldl (fun s l => s.faultWaiters l code 0 spare) s
  let s := lids.foldl (fun s lid => s.dropLaunchWarps lid) s
  gone.foldl (fun s l =>
    match s.fillOf l with
    | none => s
    | some f =>
      let s := match s.regionOf f.asid f.block.toNat with
        | some r => s.writeLeaves r l none
        | none => s
      (s.dropFill l).setFill l 0 none) s

/-- What a touch does to its requester: it joins the waiter list, finds it full, or has its edge refused with a code. -/
inductive Touch where
  | park
  | full
  | refused (code : Nat)
deriving DecidableEq, Repr

/-- The blocks that an operation's lanes are parked on: its lanes on one block are one waiter (R312). -/
def Op.blocks (o : Op) : List Nat := (o.lanes.filterMap fun l => match l.stage with
  | .parkFill leader => some leader
  | _ => none).eraseDups

/-- The waiters on the blocks of a die's fill unit (R312). -/
def State.waiterCount (s : State) (die : Nat) : Nat :=
  let here (l : Nat) : Bool := decide (l < 2 ^ 60) && homeDie l == die
  let on (w : Wait) : Bool := match w with
    | .fill l _ => here l
    | _ => false
  (s.ops.foldl (fun n o => n + (o.blocks.filter here).length) 0) + (s.copyJobs.filter fun j => j.parked.any here).length +
  (s.agentWaits.filter fun w => w.leader.any here).length +
  s.allWarps.foldl (fun n w => n + (w.live.filter fun e => on e.2.wait).length + (if w.solo.any fun h => on h.wait then 1 else 0) +
    (w.rays.filter fun r => r.2.parked.any here).length) 0

/-- Whether a die's fill unit has no room for a waiter (R312). -/
def State.waitersFull (s : State) (leader : Nat) : Bool := decide (8192 ≤ s.waiterCount (homeDie leader))

/-- What a touch of a block that is not FILLED does (R310–R313). `own` is the leader of the block whose generator makes the
touch; a full waiter list takes no requester and starts no fill (log entry 68). -/
def State.touch (s : State) (asid : BitVec 16) (va : DWord) (leader : Nat) (own : Option Nat) : State × Touch :=
  let empty := eFill (s.memQ leader) == 0
  match own with
  | none => if s.waitersFull leader then (s, .full) else (if empty then s.startFill asid va leader 1 else s, .park)
  | some x =>
    let yDepth := ((s.regionOf asid va.toNat).map (·.maxDepth)).getD 4
    if (s.reaching s.fills.length [x]).contains leader || x == leader then (s.refuse x 0x23, .refused 0x23)
    else if s.tooDeep x leader yDepth then (s.refuse x 0x22, .refused 0x22)
    else if s.waitersFull leader then (s, .full)
    else
      let d := ((s.fillOf x).map (·.depth)).getD 1
      let s := if empty then s.startFill asid va leader (d + 1) else s
      ({ s with fills := s.fills.map fun f =>
          if f.leader = x ∧ !f.edges.contains leader then { f with edges := f.edges ++ [leader] } else f }, .park)

/-! Agents without lanes, and the miss tables. -/

/-- The pages on which requesters of a cluster are parked: the entries of its miss table (R302; log entry 68). -/
def State.missTable (s : State) (cluster : Nat) : List (BitVec 16 × Nat) :=
  let ofWait : Wait → List (BitVec 16 × Nat)
    | .page asid va _ => [(asid, va.toNat / 4096)]
    | _ => []
  let ofLane (o : Op) (l : LaneReq) : Option (BitVec 16 × Nat) := match l.stage with
    | .parkPage vpn => some (o.asid, vpn)
    | _ => none
  let ofKey (asid : BitVec 16) : Option Nat → Option (BitVec 16 × Nat)
    | some k => if k < 2 ^ 60 then none else some (asid, k - 2 ^ 60)
    | none => none
  let ofOps : List (BitVec 16 × Nat) := (s.ops.filter fun o => clusterOf o.core == cluster).flatMap fun o => o.lanes.filterMap (ofLane o)
  let ofAgents : List (BitVec 16 × Nat) := (s.agentWaits.filter fun w => w.cluster == some cluster && w.leader.isNone && w.refused.isNone).map fun w => (w.asid, w.va.toNat / 4096)
  let ofJobs : List (BitVec 16 × Nat) := (s.copyJobs.filter fun j => j.cluster == cluster).filterMap fun j => ofKey j.asid j.parked
  let ofWarp (w : Warp) : List (BitVec 16 × Nat) :=
    w.live.flatMap (fun e => ofWait e.2.wait) ++ (match w.solo with
      | some h => ofWait h.wait
      | none => []) ++ w.rays.filterMap fun r => ofKey (s.asidOf w.launch) r.2.parked
  (ofOps ++ ofAgents ++ ofJobs ++ (s.allWarps.filter fun w => clusterOf w.core == cluster).flatMap ofWarp).eraseDups

/-- Whether misses of pages of a context find a cluster's miss table full: one for a page that has an entry merges into it (R302). -/
def State.tableFull (s : State) (cluster : Nat) (asid : BitVec 16) (vpns : List Nat) : Bool :=
  let table := s.missTable cluster
  let new := (vpns.filter fun p => !table.contains (asid, p)).eraseDups
  !new.isEmpty && decide (128 < table.length + new.length)

/-- `Translate` for an agent without lanes of its own (R297, R299, R312): it waits for a page or a block, and takes the fault that ends
such a wait. An agent of a cluster is served by the cluster's translations, and its miss takes an entry of the cluster's miss table or
comes again (R301, R302); another one walks. -/
def State.agentBy (s : State) (cluster : Option Nat) (who : Nat) (asid : BitVec 16) (va : DWord) (acc : Acc) (sys : Bool) : State × Tr :=
  let mine (w : AgentWait) : Bool := w.who == who && w.asid == asid && w.va == va && w.acc == acc
  let rest := s.agentWaits.filter fun w => !mine w
  let wait (s : State) (leader : Option Nat) : State :=
    if leader.isNone && cluster.any fun c => s.tableFull c asid [va.toNat / 4096] then s
    else { s with agentWaits := rest ++ [{ who := who, asid := asid, va := va, acc := acc, leader := leader, refused := none, cluster := cluster }] }
  let by_ : State := match cluster with
    | some c => s.viaCluster c
    | none => s.viaWalker
  match (s.agentWaits.find? mine).bind (·.refused) with
  | some (code, cause, aux) => ({ s with agentWaits := rest }, .fault code cause aux)
  | none =>
    match State.translateIn { by_ with agentWaits := rest } asid va acc sys none with
    | (s, .miss) => (wait s none, .miss)
    | (s, .cow) => (wait s none, .cow)
    | (s, .fill leader) => (match s.touch asid va leader none with
      | (s, .park) => (wait s (some leader), .fill leader)
      | (s, _) => (s, .fill leader))
    | r => r

/-- The same for one that walks. -/
def State.agentTranslate (s : State) (who : Nat) (asid : BitVec 16) (va : DWord) (acc : Acc) (sys : Bool) : State × Tr :=
  s.agentBy none who asid va acc sys

/-- Whether such an access has waited, and its page was declined or its block's fill failed. -/
def State.agentRefused (s : State) (who : Nat) (asid : BitVec 16) (va : DWord) (acc : Acc) : Bool :=
  s.agentWaits.any fun w => w.who == who && w.asid == asid && w.va == va && w.acc == acc && w.refused.isSome

/-- A counter step that is owed, tried again (R213, R350). One whose page Tregrim declines is dropped, but for one that an operation
waits for (log entry 68). -/
def State.runStep (s : State) (c : CounterStep) : State :=
  let owe (s : State) : State := { s with steps := s.steps ++ [c] }
  let lost (s : State) : State := if c.op.isSome then owe s else s
  let ended (s : State) : State := match c.op with
    | some op => s.endOp op
    | none => s
  let add (s : State) (pa : Nat) : State := if s.bytesOwned pa 8 then owe s else ended (s.counterAdd pa c.inc).1
  match c.space with
  | none => add s c.addr
  | some asid => match s.agentTranslate 1 asid (BitVec.ofNat 64 c.addr) .rmw c.sys with
    | (s, .ok place _) => if placePeer place then lost s else add s (placePa place)
    | (s, .fault _ _ _) => lost s
    | (s, _) => owe s

/-- The counter steps that are owed, tried again in order. -/
def State.runSteps (s : State) : State := s.steps.foldl (fun s c => s.runStep c) { s with steps := [] }

/-- Whether a requester of a warp found a waiter list full. -/
def Warp.polling (w : Warp) : Bool := w.live.any (fun e => e.2.state == .waiting && e.2.wait == .poll) || w.solo.any (fun h => h.wait == .poll)

/-- Requesters that found a waiter list full present their accesses again, when it is time (R312). -/
def State.wakePolls (s : State) (due : Bool) : State :=
  s.onWarps (fun w => w.polling && due) fun w =>
    let hand (h : Solo) : Solo := if h.wait = .poll then { h with wait := .none } else h
    let w : Warp := { w with solo := w.solo.map hand }
    w.live.foldl (fun w e => if e.2.state = .waiting ∧ e.2.wait = .poll then w.wakeFrag e.1 else w) w

end Sys2Proof.Machine
end

