-- ==== Sys2Proof/Machine/Ops.lean ====
section
/-! DEFINITION. The named operations that every instruction shares: leaving, splitting and fusing fragments (R36,
R111, R115), taking a trap and leaving it (R37, R39, R261, R355, R356), the checks at issue (R88), and the end of a
group (R85, R89–R91). -/

namespace Sys2Proof.Machine

/-! Fragments. -/

/-- The union of the fragments that stand at join with record `j`. -/
def joined (fs : SMap Frag) (j : Nat) : Mask :=
  fs.foldl (fun m e => if e.2.state = .atJoin ∧ e.2.jrec = some j then m ||| e.2.mask else m) 0

/-- Fuses record `j` (R115): one fragment in the lowest entry, with the union mask, the join address, the stored WMODE
and the parent record; it is at join at once where the parent's join address is the same. A mark that its fragments wait to be
parked (R360) stays with it. -/
def Warp.fuseRec (w : Warp) (j : Nat) (r : JoinRec) : Warp :=
  let fs := w.live
  let at_ (e : Nat × Frag) : Bool := e.2.state == .atJoin && e.2.jrec == some j
  match fs.find? at_ with
  | none => w
  | some (e, f) =>
    let outer : Bool := match r.parent with
      | some p => (SMap.find p w.joins).any fun q => q.addr == r.addr
      | none => false
    let f' : Frag := { f with
      mask := r.union, pc := r.addr, wmode := r.wmode, jrec := r.parent, repcnt := 0, lrpc := .none, wait := .none, group := .none, parkPc := .none, holds := [], whole := false
      parkPend := fs.any fun x => at_ x && x.2.parkPend
      state := if outer then .atJoin else if w.debug then .debugStopped else .ready }
    let w := w.setLive (SMap.insert e f' (fs.filter fun x => !at_ x))
    { w with joins := SMap.erase j w.joins }

/-- Fuses every record whose lanes all stand at join, again and again (R36, R115). -/
def Warp.fuse : Nat → Warp → Warp
  | 0, w => w
  | n + 1, w =>
    match w.joins.find? (fun r => r.2.union != 0 && joined w.live r.1 == r.2.union) with
    | none => w
    | some (j, r) => Warp.fuse n (w.fuseRec j r)

/-- Lanes leave every mask of the split and join tables (R36). -/
def Warp.exitLanes (w : Warp) (m : Mask) : Warp :=
  let fs := (w.live.map fun e => (e.1, { e.2 with mask := e.2.mask &&& ~~~m })).filter fun e => e.2.mask != 0
  let js := (w.joins.map fun r => (r.1, { r.2 with union := r.2.union &&& ~~~m })).filter fun r => r.2.union != 0
  Warp.fuse 64 { (w.setLive fs) with joins := js }

/-- EXIT of lanes of a warp (R121); a generator whose last lane exits fails its open fill with 0xFFFF (R192). -/
def State.exitLanes (s : State) (uid : Nat) (m : Mask) : State :=
  let s := s.onWarp uid fun w => w.exitLanes m
  match s.findWarp uid with
  | some w => if w.liveLanes = 0 then s.failOpen w 0xFFFF else s
  | none => s

/-- Whether a ready fragment stands at the join address of its record (R115). -/
def Warp.meets (w : Warp) (e : Nat) : Bool :=
  let f := w.fragAt e
  match f.jrec with
  | none => false
  | some j => f.mask != 0 && f.state == .ready && (SMap.find j w.joins).any (fun r => r.addr == f.pc)

/-- Such a fragment enters the at-join state (R115), its latch chain open or not: the manual does not say what becomes of an
open chain there (DESIGN CHOICE, log entry 72: the chain is dropped with the fragment). -/
def Warp.meetJoin (w : Warp) (e : Nat) : Warp := Warp.fuse 64 (w.onFrag e fun f => { f with state := .atJoin })

/-- The lanes of a fragment by their next address, ascending (R111). -/
def partsOf (next : List (Nat × DWord)) : SMap Mask :=
  next.foldl (fun m e => SMap.insert e.2.toNat (((SMap.find e.2.toNat m).getD 0) ||| laneBit e.1) m) []

/-- Splits the fragment that issues (R111); `opens` is the join address of the record that the split opens. -/
def Warp.split (w : Warp) (parts : SMap Mask) (opens : Option DWord) : Warp :=
  let f := w.frag
  let j := freeJoin w.joins
  let jrec := match opens with
    | some _ => some j
    | none => f.jrec
  let js := match opens with
    | some a => SMap.insert j { addr := a, union := f.mask, wmode := f.wmode, parent := f.jrec } w.joins
    | none => w.joins
  let part (a : Nat) (m : Mask) : Frag :=
    { f with mask := m, pc := BitVec.ofNat 64 a, jrec := jrec, repcnt := 0, lrpc := .none, state := .ready, wait := .none, pmask := 0, group := .none, parkPc := .none, holds := [], whole := false }
  match parts with
  | [] => w
  | (a, m) :: rest =>
    let fs := rest.foldl (fun fs p => SMap.insert (freeEntry fs) (part p.1 p.2) fs) (SMap.insert w.fragIx (part a m) w.live)
    { (w.setLive fs) with joins := js, splitNext := some w.fragIx }

/-! Traps. -/

/-- A precise trap (R47, R353): code, TRAPMASK, faulting address and CAUSE, and what AUX of its record holds (R358). -/
structure TrapInfo where
  code : Nat
  mask : Mask
  addr : DWord
  cause : Nat
  aux : DWord := 0
deriving DecidableEq, Repr

/-- The held fragments of a warp become ready when its handler leaves solo mode (R39). -/
def Warp.releaseHeld (w : Warp) : Warp :=
  w.live.foldl (fun w e => if e.2.state = .waiting ∧ e.2.wait = .held then w.wakeFrag e.1 else w) w

/-- SSTATUS at entry (R260): SYSTEM and DEBUG per the RCB. -/
def RegionItems.sstatus (r : RegionItems) : DWord := (if r.system then 0x20 else 0) ||| (if r.debug then 8 else 0)

/-- The fragment stopped at the first word of its group, at the repetition that trapped, its chain forced off (R47,
R87, R91). -/
def State.stopFrag (s : State) (st : FragState) (pc : DWord) : State :=
  { s with warp := { s.warp with
      latValid := 0, latUnread := 0, chainLen := 0
      frag := { s.warp.frag with state := st, pc := pc, repcnt := s.grp.repIx, lrpc := .none, group := .none, parkPc := .none } } }

/-- Delivers a trap unhandled (R356): the record is posted, the handler state discarded, and the fragment stays
trapped until the fault domain acts; a domain that parks makes it wait for WAKE. -/
def State.deliver (s : State) (entry : Nat) (r : FaultRec) : State :=
  let parks := match s.launchOf r.lid with
    | some l => (actingDomain l.path false).2.1 == 1
    | none => false
  let w0 : Warp := { s.warp with solo := none }
  let s : State := { s with warp := (w0.onFrag entry fun f => { f with state := .trapped }).releaseHeld }
  let s := s.postFault s.warp.uid r
  { s with warp := s.warp.onFrag entry fun f =>
      { f with parkPend := false, state := if parks then .waiting else .trapped, wait := if parks then .parked else .none } }

/-- Solo mode entered (R37, R258, R259, R355). -/
def State.enterSolo (s : State) (t : TrapInfo) : State :=
  let r := s.region s.warp.launch
  let f := s.warp.frag
  let h : Solo := { entry := s.warp.fragIx, h := [], hp := 0, pc := r.trapvec, wmode := 0x000007, trapPc := s.grp.pc, trapCode := BitVec.ofNat 32 t.code, trapMask := t.mask, sfaddr := t.addr, repcnt := BitVec.ofNat 7 s.grp.repIx, slrpc := (match f.lrpc with
      | some a => a ||| 1
      | none => 0), swmode := f.wmode, sstatus := r.sstatus, fragMask := f.mask, sfcause := BitVec.ofNat 8 t.cause, wait := .none, debugStopped := false, aux := t.aux }
  let s := s.stopFrag .trapped s.grp.pc
  { s with warp := { s.warp with solo := some h, trapCode := BitVec.ofNat 32 t.code, trapMask := t.mask } }

/-- Whether a trap names an address (R353): MISALIGNED, SRAM_RANGE and the faults of an access. -/
def TrapInfo.named (t : TrapInfo) : Bool := t.code == 0x09 || t.code == 0x0A || decide (0x20 ≤ t.code)

/-- A trap raised by a handler (R356): KIND 3, the nested code in CODE and the original one in AUX. -/
def State.nestedTrap (s : State) (h : Solo) (t : TrapInfo) : State :=
  s.deliver h.entry { code := t.code, kind := 3, core := s.warp.core, slot := s.warp.slot, cause := t.cause, pc := (s.warp.fragAt h.entry).pc, lanes := h.trapMask, addr := if t.named then t.addr else s.grp.pc, aux := h.trapCode.setWidth 64, lid := s.warp.launch, rcb := (s.region s.warp.launch).rcb }

/-- `Trap` (R47): solo mode; held while another fragment is in solo mode (R39); nested inside a handler, and
unhandled without a trap vector (R356). A prologue's fragment stays trapped, for its front end to end the packet. -/
def State.takeTrap (s : State) (t : TrapInfo) : State :=
  match s.warp.kind, s.grp.solo, s.warp.solo with
  | .prologue _, _, _ => { s with warp := { s.warp with frag := { s.warp.frag with state := .trapped } } }
  | _, true, some h => s.nestedTrap h t
  | _, _, some _ =>
    let pc := s.warp.frag.lrpc.getD s.grp.pc
    let s := s.stopFrag .waiting pc
    { s with warp := { s.warp with frag := { s.warp.frag with wait := .held } } }
  | _, _, none =>
    let marked : State := { s with warp := { s.warp with trapCode := BitVec.ofNat 32 t.code, trapMask := t.mask } }
    if (s.region s.warp.launch).trapvec = 0 then
        (marked.stopFrag .trapped s.grp.pc).deliver s.warp.fragIx { code := t.code, kind := 0, core := s.warp.core, slot := s.warp.slot, cause := t.cause, pc := s.grp.pc, lanes := t.mask, addr := t.addr, aux := t.aux, lid := s.warp.launch, rcb := (s.region s.warp.launch).rcb }
    else s.enterSolo t

/-! The checks at issue. -/

/-- Operand classes of R78, as bits: v, k, latch, literal, zero, lane index. -/
def clsV : Nat := 1
def clsK : Nat := 2
def clsLat : Nat := 4
def clsLit : Nat := 8
def clsZero : Nat := 16
def clsLane : Nat := 32

/-- The class bit of an operand code; 0 for 0xF7–0xFF (R78). -/
def classBit (c : Nat) : Nat :=
  if c ≤ 0xBF then 1 else if c ≤ 0xEF then 2 else if c ≤ 0xF3 then 4 else if c = 0xF4 then 8
  else if c = 0xF5 then 16 else if c = 0xF6 then 32 else 0

/-- What a field of an instruction word is (R75, R86): an operand code with the classes it admits, the v registers it
names and their alignment; a register of another warp with its alignment (R213); a MEM-form k number; the first of `n` tiles; a tile mask; a field of which REP may step bits [2:0] (R220);
a packed or immediate field, which REP may step (`stepped`) or not; a reserved field. -/
inductive Fld where
  | opd (c : Code) (cls n al : Nat) (rd wr : Bool)
  | remote (c : Code) (al : Nat)
  | memk (c : Code)
  | tile (t n : Nat)
  | tmask (m : Code)
  | low3
  | imm
  | stepped
  | resv
deriving DecidableEq, Repr

/-- One instruction as the checks see it: opcode, fields, the predicates it names besides the guard, the k registers that it
reads by a number of its own (R221), and whether its word is illegal or has an illegal operand for a reason of its own (its
chapter's). -/
structure Ins where
  op : Nat
  d : Fld
  a : Fld
  b : Fld
  preds : List Nat := []
  ks : List Nat := []
  ill : Bool := false
  bad : Bool := false
deriving DecidableEq, Repr

/-- ALU-class (R90, R97). -/
def aluClass (op : Nat) : Bool := decide (0x10 ≤ op) && decide (op ≤ 0x5F)

/-- Instructions that REP may precede (R84). -/
def repAllowed (op : Nat) : Bool :=
  (decide (0x10 ≤ op) && decide (op ≤ 0x83)) || op == 0x90 || op == 0x94 || (decide (0x96 ≤ op) && decide (op ≤ 0x98)) ||
  (decide (0xA0 ≤ op) && decide (op ≤ 0xAB)) || (decide (0xC0 ≤ op) && decide (op ≤ 0xC4))

/-- Address-forming instructions (R80): the MEM form and the opcodes named there. -/
def addrForming (op : Nat) : Bool :=
  op == 0x6B || (decide (0x70 ≤ op) && decide (op ≤ 0x7C)) || op == 0x7F || (decide (0x80 ≤ op) && decide (op ≤ 0x83)) ||
  op == 0xA4 || op == 0xA5 || op == 0xAA || op == 0xAB

/-- Instructions that issue in solo mode (R258). -/
def soloAllowed (op : Nat) : Bool :=
  op == 0x01 || op == 0x05 || op == 0x06 || op == 0x07 || op == 0x0E || op == 0x5C ||
  (decide (0x60 ≤ op) && decide (op ≤ 0x6B)) || op == 0x76 || op == 0x7A || op == 0x7D || op == 0x7E || op == 0x91 ||
  (decide (0xD0 ≤ op) && decide (op ≤ 0xD8))

/-- The UNITCAP bit of the unit that an instruction needs (R2, R6). -/
def unitBit (op : Nat) : Option Nat :=
  if 0xC0 ≤ op ∧ op ≤ 0xC2 then some 1
  else if op = 0xC3 ∨ op = 0xC4 then some 2
  else if 0xC5 ≤ op ∧ op ≤ 0xC8 then some 0
  else none

/-- The latches that fields read, and those they write. -/
def Fld.latRead : Fld → BitVec 4
  | .opd c _ _ _ true _ => if c.toNat / 4 = 0x3C then 1#4 <<< (c.toNat % 4) else 0
  | _ => 0
def Fld.latWrite : Fld → BitVec 4
  | .opd c _ _ _ _ true => if c.toNat / 4 = 0x3C then 1#4 <<< (c.toNat % 4) else 0
  | _ => 0
def Ins.latRead (i : Ins) : BitVec 4 := i.d.latRead ||| i.a.latRead ||| i.b.latRead
def Ins.latWrite (i : Ins) : BitVec 4 := i.d.latWrite ||| i.a.latWrite ||| i.b.latWrite

/-- A field that reads a literal: an operand field that holds 0xF4. The D field of RWR, which names a register of another warp
(R213), is none: a literal before RWR that only D could use raises ILLEGAL_OP (DESIGN CHOICE, log entry 70; R82 does not say). -/
def Fld.lit : Fld → Bool
  | .opd c _ _ _ _ _ => c == 0xF4
  | _ => false

/-- The step of REP on D, A and B (R84), and the unstepped byte. -/
def Group.step (g : Group) (f : Nat) : Nat :=
  match g.rep with
  | some p => field p (match f with
    | 0 => 12
    | 1 => 6
    | _ => 0) 6
  | none => 0
def Group.base (g : Group) (f : Nat) : Nat := field g.word (16 - 8 * f) 8

/-- R86 for a reserved field: a step on it raises ILLEGAL_OP. -/
def Fld.stepIll (f : Fld) (step : Nat) : Bool :=
  match f with
  | .resv => step != 0
  | _ => false

/-- R86 for the other fields: whether the stepped value of repetition `i` is no operand. -/
def Fld.stepBad (f : Fld) (step i base : Nat) : Bool :=
  let v := base + i * step
  match f with
  | .opd _ _ _ _ _ _ =>
    if base ≤ 0xBF then decide (0xBF < v)
    else if base ≤ 0xEF then decide (0xEF < v)
    else if base ≤ 0xF3 then true
    else step != 0
  | .remote _ _ => if base ≤ 0xBF then decide (0xBF < v) else decide (0xEF < v)
  | .memk _ => decide (0x2F < v)
  | .tile _ _ => v / 8 != base / 8
  | .low3 => v / 8 != base / 8
  | .tmask _ => step != 0
  | .imm => step != 0
  | _ => false

/-- R78, R79 and R17 for one field; in solo mode codes 0x00–0x0F name h registers wherever k registers are accepted,
and the other v codes none (R258). -/
def Fld.bad (f : Fld) (solo : Bool) (valid : BitVec 4) : Bool :=
  match f with
  | .opd c cls _ al rd _ =>
    let b := classBit c.toNat
    if solo then
      if b = 1 then !(decide (c.toNat ≤ 0x0F) && (cls &&& 2 != 0)) else cls &&& b == 0
    else
      cls &&& b == 0 || (b == 1 && c.toNat % al != 0) || (b == 4 && rd && !valid.getLsbD (c.toNat % 4))
  | .remote c al => decide (0xEF < c.toNat) || (decide (c.toNat ≤ 0xBF) && c.toNat % al != 0)
  | .memk c => decide (0x30 ≤ c.toNat)
  | _ => false

/-- REG_QUOTA (R15, R17). -/
def Fld.overQuota (f : Fld) (solo : Bool) (q : Nat) : Bool :=
  match f with
  | .opd c _ n _ _ _ => !solo && decide (c.toNat ≤ 0xBF) && decide (16 * (q + 1) < c.toNat + n)
  | _ => false

/-- TILE_QUOTA (R22) of a named tile. -/
def Fld.overTiles (f : Fld) (tq : Nat) : Bool :=
  match f with
  | .tile t n => decide (tq < t + n)
  | .tmask m => decide (2 ^ tq ≤ m.toNat)
  | _ => false

/-- The ILLEGAL_OP cases of step 2 of R88: R82, R84, R86, R90, R96, R258, and the instruction's own. -/
def State.illegal (s : State) (i : Ins) : Bool :=
  let g := s.grp
  let w := s.warp
  i.ill ||
  (g.lit.isSome && !addrForming i.op && !(i.d.lit || i.a.lit || i.b.lit)) ||
  (g.rep.isSome && (!repAllowed i.op || w.frag.lrpc.isSome || g.solo || i.d.stepIll (g.step 0) || i.a.stepIll (g.step 1) ||
    i.b.stepIll (g.step 2))) ||
  (if g.solo then !soloAllowed i.op else decide (0xD0 ≤ i.op)) ||
  (w.frag.lrpc.isSome && !g.solo &&
    (decide (8 ≤ w.chainLen) || (!aluClass i.op && (w.latUnread &&& ~~~i.latRead != 0))))

/-- UNIT_ABSENT (R2). -/
def State.absent (s : State) (i : Ins) : Bool :=
  match unitBit i.op with
  | some b => !bit s.unitcap b
  | none => false

/-- ILLEGAL_OPERAND of step 4 of R88. -/
def State.badOperand (s : State) (i : Ins) : Bool :=
  let g := s.grp
  let valid := if g.solo then 0 else s.warp.latValid
  (g.rep.isSome && (i.d.stepBad (g.step 0) g.repIx (g.base 0) || i.a.stepBad (g.step 1) g.repIx (g.base 1) ||
    i.b.stepBad (g.step 2) g.repIx (g.base 2))) ||
  i.d.bad g.solo valid || i.a.bad g.solo valid || i.b.bad g.solo valid ||
  (g.lit.isNone && (i.d.lit || i.a.lit || i.b.lit)) || i.bad

/-- Steps 2 to 5 of R88, the first failing check first. -/
def State.gate (s : State) (i : Ins) : Option TrapInfo :=
  let t (code : Nat) : Option TrapInfo := some { code := code, mask := s.active, addr := 0, cause := 0 }
  let q := s.warp.quota
  if s.illegal i then t 0x01
  else if s.absent i then t 0x03
  else if s.badOperand i then t 0x02
  else if i.d.overQuota s.grp.solo q || i.a.overQuota s.grp.solo q || i.b.overQuota s.grp.solo q then t 0x04
  else if i.d.overTiles s.warp.tquota || i.a.overTiles s.warp.tquota then t 0x05
  else none

/-! Holds. -/

/-- The v registers an operation has still to write, as first register and count. -/
def Op.pendingV (o : Op) : Nat × Nat :=
  let v (c : Code) (n : Nat) : Nat × Nat := if c.toNat ≤ 0xBF then (c.toNat, n) else (0, 0)
  match o.kind with
  | .load _ n _ wide d => v d (if n = 16 then 4 else if wide then 2 else 1)
  | .atom _ et d => v d (if (etypeOf et).wide then 2 else 1)
  | .cadd d => v d 2
  | .mcas d _ => v d 1
  | .tex mode d _ => v d (if mode = 1 then 8 else 4)
  | .sysc d => v d 2
  | _ => (0, 0)

/-- The k register a KLD has still to write, by its code; to a handler also the h register (R161, R258). -/
def Op.pendingK (o : Op) (solo : Bool) : Option Nat :=
  match o.kind with
  | .kload d => if (0xC0 ≤ d.toNat ∧ d.toNat ≤ 0xEF) ∨ (solo ∧ d.toNat ≤ 0x0F) then some d.toNat else none
  | _ => none

/-- The predicate an MCAS has still to write. -/
def Op.pendingP (o : Op) : Option Nat :=
  match o.kind with
  | .mcas _ p => if p = 7 then none else some p
  | _ => none

/-- Whether a field names a register that an operation has still to write (R44). -/
def Fld.waitsFor (f : Fld) (o : Op) (solo : Bool) : Bool :=
  match f with
  | .opd c _ n _ _ _ => (!solo && overlap c.toNat n o.pendingV.1 o.pendingV.2) || o.pendingK solo == some c.toNat
  | .memk c => o.pendingK solo == some (c.toNat + 0xC0)
  | _ => false

/-- The scoreboard (R44): a register or predicate of the group is still being written. -/
def State.scoreboard (s : State) (i : Ins) : Bool :=
  s.ops.any fun o => o.uid == s.warp.uid &&
    (i.d.waitsFor o s.grp.solo || i.a.waitsFor o s.grp.solo || i.b.waitsFor o s.grp.solo ||
     i.ks.any (fun k => o.pendingK false == some (k + 0xC0)) ||
     (match o.pendingP with
      | some p => !s.grp.solo && (p == wmGuard s.wm % 8 || i.preds.contains p)
      | none => false))

/-- A group held at issue: nothing happens (R91, R193). -/
def State.hold (s : State) : State := { s with stalled := true }

/-! The end of a group. -/

/-- How a group's effect ends: it falls through to the next group, jumps, has moved its fragment itself, waits and is
issued again, waits after its end, is held, or traps. -/
inductive Eff where
  | done (s : State)
  | jump (s : State) (pc : DWord)
  | moved (s : State)
  | again (s : State) (w : Wait) (m : Mask)
  | waits (s : State) (w : Wait)
  | hold
  | trap (t : TrapInfo)

/-- The latch chain after a group (R89, R90). -/
def Warp.chain (w : Warp) (i : Ins) (pc : DWord) : Warp :=
  let unread := (w.latUnread &&& ~~~i.latRead) ||| i.latWrite
  let lrpc := if unread = 0 then .none else if w.frag.lrpc.isSome then w.frag.lrpc else some pc
  { w with
    latValid := w.latValid ||| i.latWrite
    latUnread := unread
    chainLen := if unread = 0 then 0 else w.chainLen + 1
    frag := { w.frag with lrpc := lrpc } }

/-- Whether the group is issued again for the next repetition of its REP (R85). -/
def State.repeats (s : State) : Bool :=
  match s.grp.rep with
  | some p => decide (s.grp.repIx < field p 18 6)
  | none => false

/-- Counts a group of the workgroup (R362 RETIRED), a repeated one with its last repetition; a handler's groups count
too. -/
def State.countGroup (s : State) : State :=
  s.onWg s.warp.launch s.warp.wg fun g => if s.repeats then g else { g with retired := g.retired + 1 }

/-- The PC after a group or repetition (R85): the next repetition, whose group is fetched and checked already (R88), or
the next group. -/
def State.advance (s : State) : State :=
  let next := s.grp.pc + BitVec.ofNat 64 s.grp.bytes
  match s.grp.solo, s.warp.solo with
  | true, some h => { s with warp := { s.warp with solo := some { h with pc := next } } }
  | true, none => s
  | _, _ =>
    { s with warp := { s.warp with frag :=
        { s.warp.frag with
          pc := if s.repeats then s.grp.pc else next, repcnt := if s.repeats then s.grp.repIx + 1 else 0
          pmask := 0, group := if s.repeats then some s.grp else .none } } }

/-- Sets the PC of the fragment or of the handler. -/
def State.jumpTo (s : State) (pc : DWord) : State :=
  match s.grp.solo, s.warp.solo with
  | true, some h => { s with warp := { s.warp with solo := some { h with pc := pc } } }
  | true, none => s
  | _, _ => { s with warp := { s.warp with frag := { s.warp.frag with pc := pc, repcnt := 0, pmask := 0, group := .none } } }

/-- The fragment, or the handler, waits. -/
def State.waitFor (s : State) (w : Wait) (m : Mask) : State :=
  match s.grp.solo, s.warp.solo with
  | true, some h => { s with warp := { s.warp with solo := some { h with wait := w } } }
  | true, none => s
  | _, _ => { s with warp := { s.warp with frag := { s.warp.frag with state := .waiting, wait := w, pmask := m } } }

/-- A group that waits and is issued again: an open chain is forced off first (R91), and the fragment remembers which group
of it parked (R92). -/
def State.parkGroup (s : State) (w : Wait) (m : Mask) : State :=
  let parked := s.warp.frag.lrpc.map fun _ => s.grp.pc
  let s : State := if s.grp.solo then s else { s with warp :=
    { s.warp.forceOff with frag := { s.warp.forceOff.frag with repcnt := s.grp.repIx, group := .none, parkPc := parked } } }
  s.waitFor w m

/-- The state after a group's effect. A warp that its own group ended stays ended. -/
def State.finish (s : State) (i : Ins) (e : Eff) : State :=
  let chained (t : State) : State :=
    if t.grp.solo then t.countGroup else { t.countGroup with warp := t.warp.chain i t.grp.pc }
  match e with
  | .done t => if t.warp.uid = s.warp.uid then (chained t).advance else t
  | .jump t pc => if t.warp.uid = s.warp.uid then (chained t).jumpTo pc else t
  | .moved t => if t.warp.uid = s.warp.uid then chained t else t
  | .again t w m => if t.warp.uid = s.warp.uid then t.parkGroup w m else t
  | .waits t w => if t.warp.uid = s.warp.uid then (chained t).advance.waitFor w 0 else t
  | .hold => s.hold
  | .trap t => s.takeTrap t

/-- The issue of one group: the checks of R88, the holds, and then the instruction's own checks and effect. -/
def State.issue (s : State) (i : Ins) (eff : State → Eff) : Host.Outcome State Fault Refusal :=
  .next (match s.gate i with
    | some t => s.takeTrap t
    | none => if s.scoreboard i then s.hold else s.finish i (eff s))

end Sys2Proof.Machine
end

