-- ==== Sys2Proof/Machine/Operands.lean ====
section
/-! DEFINITION. Operand forms: `Src` and `Dst` (R47, R78), the fields that name them, and the addresses that memory
instructions form (R79, R167, R199). -/

namespace Sys2Proof.Machine

/-- A v register's element, or the pair's (R15, R17). -/
def Warp.getV (w : Warp) (r l : Nat) (wide : Bool) : Nat :=
  (rd w.v (r * 64 + l)).toNat + (if wide then 2 ^ 32 * (rd w.v ((r + 1) * 64 + l)).toNat else 0)

/-- Writes a v register's element, or the pair's. -/
def Warp.setV (w : Warp) (r l : Nat) (wide : Bool) (x : Nat) : Warp :=
  let v := wr w.v (r * 64 + l) (BitVec.ofNat 32 x)
  { w with v := if wide then wr v ((r + 1) * 64 + l) (BitVec.ofNat 32 (x / 2 ^ 32)) else v }

/-- The literal of the group (R83). -/
def Group.literal (g : Group) : DWord := g.lit.getD 0

/-- `Src` (R47): the value of an operand code for lane `l`, 64 bits wide or the low 32. In solo mode codes 0x00–0x0F
name h registers (R258). -/
def State.src (s : State) (c : Code) (wide : Bool) (l : Nat) : Nat :=
  let n := c.toNat
  let low (x : DWord) : Nat := if wide then x.toNat else x.toNat % 2 ^ 32
  if n ≤ 0xBF then
    (match s.grp.solo, s.warp.solo with
      | true, some h => low (rd h.h n)
      | _, _ => s.warp.getV n l wide)
  else if n ≤ 0xEF then low (rd s.warp.k (n - 0xC0))
  else if n ≤ 0xF3 then low (rd s.warp.lat ((n - 0xF0) * 64 + l))
  else if n = 0xF4 then low s.grp.literal
  else if n = 0xF6 then l
  else 0

/-- `Dst` (R47) for the lanes of `m`: a v register, a latch, whose other lanes become 0 (R78), or nothing. A group with an empty active
set zeroes all 64 elements of a latch destination and makes it valid: R109 says that such a group writes no lane state, and R78 that every
other lane's element is set to zero (DEDUCED, log entry 71). -/
def State.dst (s : State) (c : Code) (wide : Bool) (m : Mask) (x : Nat → Nat) : State :=
  let n := c.toNat
  if n ≤ 0xBF then { s with warp := forLanes m (fun l w => w.setV n l wide (x l)) s.warp }
  else if 0xF0 ≤ n ∧ n ≤ 0xF3 then
    { s with warp := { s.warp with lat := allLanes.foldl (fun t l =>
        wr t ((n - 0xF0) * 64 + l) (if m.getLsbD l then BitVec.ofNat 64 (x l) else 0)) s.warp.lat } }
  else s

/-- Writes a k register, in solo mode an h register too (R19, R258); 0xF5 discards. -/
def State.setK (s : State) (c : Code) (x : DWord) : State :=
  let n := c.toNat
  if n ≤ 0x0F then
    match s.grp.solo, s.warp.solo with
    | true, some h => { s with warp := { s.warp with solo := some { h with h := wr h.h n x } } }
    | _, _ => s
  else if 0xC0 ≤ n ∧ n ≤ 0xEF then { s with warp := { s.warp with k := wr s.warp.k (n - 0xC0) x } }
  else s

/-- A k or h register, or another source, read once as 64 bits (R151). -/
def State.srcU (s : State) (c : Code) : DWord := BitVec.ofNat 64 (s.src c true 0)

/-- Writes the lanes of `m` of a predicate (R20). -/
def State.setP (s : State) (n : Nat) (m x : Mask) : State := { s with warp := s.warp.setPred n m x }

/-! Fields. -/

/-- Any source code, of the element width. -/
def srcF (c : Code) (wide : Bool) : Fld := .opd c 0x3F (if wide then 2 else 1) (if wide then 2 else 1) true false
/-- The destination of an ALU instruction: v, latch or 0xF5. -/
def dstF (c : Code) (wide : Bool) : Fld := .opd c 0x15 (if wide then 2 else 1) (if wide then 2 else 1) false true
/-- A destination that is also read. -/
def dstRdF (c : Code) (wide : Bool) : Fld := .opd c 0x15 (if wide then 2 else 1) (if wide then 2 else 1) true true
/-- A v destination of `n` registers, aligned to `al`, or 0xF5. -/
def vecDstF (c : Code) (n al : Nat) : Fld := .opd c 0x11 n al false true
/-- A v operand of `n` registers, aligned to `al`. -/
def vecF (c : Code) (n al : Nat) (rd wr : Bool) : Fld := .opd c 0x01 n al rd wr
/-- A k register or 0xF5, written. -/
def kDstF (c : Code) : Fld := .opd c 0x12 1 1 false true
/-- A 64-bit address operand (R167): an even v pair, a k register, a latch or, where `zero`, 0xF5. -/
def addr64F (c : Code) (zero : Bool) : Fld := .opd c (if zero then 0x17 else 0x07) 2 2 true false
/-- The offset operand of the MEM form (R79): any source but 0xF4, one register. -/
def offsetF (c : Code) : Fld := .opd c 0x37 1 1 true false

/-! Addresses. -/

/-- The address of a MEM-form lane (R79). -/
def State.memAddr (s : State) (a b : Code) (l : Nat) : DWord :=
  rd s.warp.k b.toNat + (BitVec.ofNat 32 (s.src a false l)).signExtend 64 + s.grp.literal

/-- `Addr64` (R167): a 64-bit address operand and the displacement. -/
def State.addr64 (s : State) (a : Code) (l : Nat) : DWord := BitVec.ofNat 64 (s.src a true l) + s.grp.literal

/-- `Addr64` without a displacement (R199). -/
def State.addr64Plain (s : State) (a : Code) (l : Nat) : DWord := BitVec.ofNat 64 (s.src a true l)

/-- A core-SRAM offset (R167). -/
def State.sramOffset (s : State) (a : Code) (l : Nat) : Nat :=
  ((BitVec.ofNat 32 (s.src a false l)) + s.grp.literal.setWidth 32).toNat

end Sys2Proof.Machine
end

