-- ==== Sys2Proof/Machine/Flags.lean ====
section
/-! DEFINITION. Condition results: predicate bits (R20) and the status bits of tiles (R23). -/

namespace Sys2Proof.Machine

/-- The mask of the lanes of `m` that satisfy `f`. -/
def maskIn (m : Mask) (f : Nat → Bool) : Mask := maskOf fun l => m.getLsbD l && f l

/-- Comparison conditions (R135): equal, less, and unordered, combined by a condition code. -/
def condition (c : Nat) (eq lt un : Bool) : Bool :=
  match c with
  | 0 => eq && !un
  | 1 => !eq || un
  | 2 => lt && !un
  | 3 => (lt || eq) && !un
  | 4 => !lt && !eq && !un
  | 5 => !lt && !un
  | 6 => !un
  | _ => un

/-- TSTAT (R30): bits [4n+3:4n] give S, F, D, V of mn. -/
def Warp.tstat (w : Warp) : Word :=
  (List.range 8).foldl (fun x n =>
    let b (m : Byte) (i : Nat) : Word := if m.getLsbD n then 1#32 <<< (4 * n + i) else 0
    x ||| b w.tv 0 ||| b w.td 1 ||| b w.tf 2 ||| b w.ts 3) 0

/-- Sets or clears a status bit of the tiles of a mask. -/
def setTiles (m : Byte) (set : Byte) (on : Bool) : Byte := if on then m ||| set else m &&& ~~~set

end Sys2Proof.Machine
end

