-- ==== Sys2Proof/Machine/Watch.lean ====
section
/-! DEFINITION. Queue control blocks (R329, R330), and the words that a monitor unit watches (R203): of warps that wait, of
queues (R331, R334) and of service cores (R351). -/

namespace Sys2Proof.Machine

/-! Queue control blocks. -/

/-- The QCB of a queue (R329). -/
def State.qcb (s : State) (q : Nat) : Nat := s.qbase.toNat + 256 * q

/-- The live copy of a queue (R330). -/
def State.qCopy (s : State) (q : Nat) : Nat := s.qcb q + 64 + 64 * (s.memRead (s.qcb q) 8 % 2)

/-- A field of the live copy. -/
def State.qf (s : State) (q off n : Nat) : Nat := s.memRead (s.qCopy q + off) n

def State.qRing (s : State) (q : Nat) : DWord := BitVec.ofNat 64 (s.qf q 0 8)
def State.qAsid (s : State) (q : Nat) : BitVec 16 := BitVec.ofNat 16 (s.qf q 8 2)
def State.qSize (s : State) (q : Nat) : Nat := 2 ^ s.qf q 10 1
def State.qPrio (s : State) (q : Nat) : Nat := s.qf q 11 1 % 8
def State.qEnabled (s : State) (q : Nat) : Bool := s.qbase != 0 && decide (q < 1024) && (s.qf q 11 1).testBit 3
def State.qState (s : State) (q : Nat) : Nat := s.qf q 12 1
def State.qStep (s : State) (q : Nat) : Nat := s.qf q 13 1
def State.qQuantum (s : State) (q : Nat) : Nat := s.qf q 14 2
def State.qRoot (s : State) (q : Nat) : DWord := BitVec.ofNat 64 (s.qf q 16 8)
def State.qWaddr (s : State) (q : Nat) : DWord := BitVec.ofNat 64 (s.qf q 24 8)
def State.qWval (s : State) (q : Nat) : Nat := s.qf q 32 8
def State.qQctr (s : State) (q : Nat) : DWord := BitVec.ofNat 64 (s.qf q 40 8)
def State.qSeen (s : State) (q : Nat) : Nat := s.memRead (s.qcb q + 8) 8
def State.qHead (s : State) (q : Nat) : Nat := s.memRead (s.qcb q + 16) 8

/-! Watches. -/

/-- The physical addresses that a warp's fragments and handler watch. -/
def State.warpWatches (s : State) (w : Warp) : List Nat :=
  (w.live.filterMap fun e => match e.2.wait with
    | .cwait a _ _ _ => some (placePa a)
    | _ => none) ++
  (match w.solo with
    | none => []
    | some h => match h.wait with
      | .cwait a _ _ _ => [placePa a]
      | .upcall a => (s.reach (some (s.asidOf w.launch)) a.toNat .r).toList
      | _ => [])

/-- The physical addresses that the front ends watch for a queue: its TAIL, and the counter of a WAIT in progress. -/
def State.queueWatches (s : State) (q : Nat) : List Nat :=
  if s.qEnabled q then
    (s.reach (some (s.qAsid q)) (s.qQctr q).toNat .r).toList ++
    (if s.qState q = 2 then (s.reach (some (s.qAsid q)) (s.qWaddr q).toNat .r).toList else [])
  else []

/-- Whether a watch holds a word of a line (R203): its RED are then applied at home. -/
def State.watched (s : State) (pa : Nat) : Bool :=
  let on (a : Nat) : Bool := lineOf a == lineOf pa
  s.allWarps.any (fun w => (s.warpWatches w).any on) ||
  (s.qbase != 0 && (List.range 1024).any fun q => (s.queueWatches q).any on) ||
  s.svcs.any fun c => c.2.watch.any on

end Sys2Proof.Machine
end

