-- ==== Sys2Proof/Machine/Access.lean ====
section
/-! DEFINITION. Lane requests to global memory: how a group opens them (R169, R170, R300), how the home serves them
(R185, R277), and how their results return. -/

namespace Sys2Proof.Machine

/-! Opening. -/

/-- A lane whose translation posts a fault (R170). -/
structure FaultLane where
  lane : Nat
  va : DWord
  code : Nat
  cause : Nat
  aux : DWord
deriving DecidableEq, Repr

/-- The block whose fill the warp has open (R191). -/
def State.ownBlock (s : State) : Option Nat := s.warp.fillOpen

/-- The leader of the fill a warp has open. -/
def State.ownLeader (s : State) : Option Nat := (s.fillOfWarp s.warp).map (·.leader)

/-- The access kind of an operation's requests (R299). -/
def OpKind.acc : OpKind → Acc
  | .store _ _ => .w
  | .tileStore _ _ _ => .w
  | .atom _ _ _ => .rmw
  | .red _ _ _ => .rmw
  | .cadd _ => .rmw
  | .mcas _ _ => .rmw
  | _ => .r

/-- The operation's own home rules (R300 step 6): a counter's home (R200), an MCAS block's (R188). -/
def OpKind.homeRule (k : OpKind) (place : Nat) : Option (Nat × Nat) :=
  match k with
  | .cadd _ => if placePeer place then some (0x27, 0) else if placeHome place = 1 then some (0x20, 5) else none
  | .mcas _ _ => if placePeer place then some (0x25, 0) else none
  | _ => none

/-- The step in which a request leaves its warp (R418). -/
def State.now (s : State) : BitVec 128 := BitVec.ofNat 128 s.ticks

/-- What a translation makes of one lane: its request at a stage, or its fault. -/
def State.openLane (s : State) (asid : BitVec 16) (sys : Bool) (own ownLeader : Option Nat) (kind : OpKind) (lane : Nat)
    (va : DWord) : State × Option LaneReq × Option FaultLane :=
  let req (place : Nat) (st : Stage) : LaneReq := { lane := lane, va := va, pa := place, stage := st, val := s.now, aux := 0, since := s.clock }
  match s.translateIn asid va kind.acc sys own with
  | (s, .ok place _) => match kind.homeRule place with
    | some (code, cause) => (s, none, some { lane := lane, va := va, code := code, cause := cause, aux := 0 })
    | none => (s, some (req place .request), none)
  | (s, .fault code cause aux) => (s, none, some { lane := lane, va := va, code := code, cause := cause, aux := aux })
  | (s, .miss) => (s, some (req 0 (.parkPage (va.toNat / 4096))), none)
  | (s, .cow) => (s, some (req 0 (.parkPage (va.toNat / 4096))), none)
  | (s, .fill leader) =>
    match s.touch asid va leader ownLeader with
    | (s, .park) => (s, some (req 0 (.parkFill leader)), none)
    | (s, .full) => (s, some (req 0 (.retry leader)), none)
    | (s, .refused _) => (s, none, none)

/-- Opens the lanes of a group in ascending order. -/
def State.openLanes (s : State) (m : Mask) (kind : OpKind) (va : Nat → DWord) : State × List LaneReq × List FaultLane :=
  let asid := s.asid
  let sys := s.sysReq
  let own := s.ownBlock
  let leader := s.ownLeader
  (lanesOf m).foldl (fun (r : State × List LaneReq × List FaultLane) l =>
    match r.1.openLane asid sys own leader kind l (va l) with
    | (s, q, f) => (s, r.2.1 ++ q.toList, r.2.2 ++ f.toList)) (s, [], [])

/-- Posts the faults of a group, one record for each faulting address (R358); at most 64 lanes fault. -/
def State.postLanes : Nat → List FaultLane → State → State
  | n + 1, f :: fs, s =>
    let same (g : FaultLane) : Bool := g.va == f.va && g.code == f.code
    let mask := (fs.filter same).foldl (fun m g => m ||| laneBit g.lane) (laneBit f.lane)
    State.postLanes n (fs.filter fun g => !same g) (s.fault f.code f.cause mask f.va f.aux)
  | _, _, s => s

/-- Whether the pages that a group of the warp that issues misses find its cluster's miss table full (R302). -/
def State.missFull (s : State) (vpns : List Nat) : Bool :=
  s.tableFull (clusterOf s.warp.core) s.asid vpns

/-- The pages that lanes of a group have missed. -/
def missedPages (lanes : List LaneReq) : List Nat := lanes.filterMap fun l => match l.stage with
  | .parkPage vpn => some vpn
  | _ => none

/-- Whether a group of another fragment, or of the handler, that parked as a whole keeps its place at bytes of an access (R286). -/
def Warp.holdsAt (w : Warp) (va n : Nat) : Bool :=
  let on (h : DWord × Nat) : Bool := overlap h.1.toNat h.2 va n
  (w.frags.any fun e => e.2.holds.any on) || w.solo.any fun h => h.holds.any on

/-- Whether lanes of a group meet such bytes. -/
def State.laneHeld (s : State) (kind : OpKind) (lanes : List LaneReq) : Bool :=
  lanes.any fun l => s.warp.holdsAt l.va.toNat (l.bytes kind)

/-- The group in front parks as a whole, and keeps its place at the bytes that it is to access (R286). -/
def State.holding (s : State) (hs : List (DWord × Nat)) : State :=
  let hand (h : Solo) : Solo := { h with holds := hs }
  if s.grp.solo then { s with warp := { s.warp with solo := s.warp.solo.map hand } }
  else { s with warp := { s.warp with frag := { s.warp.frag with holds := hs, whole := true } } }

/-- A group's operation once its lanes are open: a group that finds the miss table full is held (R302), and one that meets bytes at
which a parked group keeps its place (R286); faults are posted,
and a group with a parked lane makes its fragment wait until the operation has completed (R169). -/
def State.launchOpWith (s : State) (kind : OpKind) (lanes : List LaneReq) (faults : List FaultLane) (data data2 : SMap Word) (bytes : SMap Byte) : Eff :=
  let uid := s.warp.uid
  let full := s.missFull (missedPages lanes) || s.laneHeld kind lanes
  let s := State.postLanes 64 faults s
  if full then .hold
  else if s.warp.uid ≠ uid then .moved s
  else if lanes.isEmpty then .done s
  else
    let id := s.nextOp
    let s := s.newOpWith kind lanes data data2 bytes
    if lanes.any fun l => l.stage.parked then .waits s (.lanes id) else .done s

/-- The same for an operation that captures lane data alone. -/
def State.launchOp (s : State) (kind : OpKind) (lanes : List LaneReq) (faults : List FaultLane) (data : SMap Word) : Eff :=
  s.launchOpWith kind lanes faults data [] []

/-- The lanes whose address is not a multiple of `n` (R166). -/
def misaligned (m : Mask) (n : Nat) (va : Nat → DWord) : Mask := maskIn m fun l => (va l).toNat % n != 0

/-- MISALIGNED (R168): the address of the lowest such lane goes to SFADDR. -/
def misalignedTrap (bad : Mask) (va : Nat → DWord) : TrapInfo :=
  { code := 0x09, mask := bad, addr := (((lowest bad).map va).getD 0), cause := 0 }

/-! A single address of a group as a whole (R117, R119, R120, R161, R207, R354 row 6.8). -/

/-- What a translation means for the group: go on, wait and be issued again, be held by a full miss table (R302), trap with
the fault's code, or end with the warp that a refused fill edge ended. -/
inductive Pre where
  | ok (place : Nat)
  | park (w : Wait)
  | held
  | trap (code cause : Nat) (aux : DWord)
  | gone
deriving DecidableEq, Repr

/-- `Translate` for a group as a whole. -/
def State.pre (s : State) (va : DWord) (acc : Acc) : State × Pre :=
  let missed (s : State) : State × Pre :=
    (s, if s.missFull [va.toNat / 4096] then .held else .park (.page s.asid va acc))
  match s.translateIn s.asid va acc s.sysReq s.ownBlock with
  | (s, .ok place _) => (s, .ok place)
  | (s, .fault code cause aux) => (s, .trap code cause aux)
  | (s, .miss) => missed s
  | (s, .cow) => missed s
  | (s, .fill leader) =>
    match s.touch s.asid va leader s.ownLeader with
    | (s, .park) => (s, .park (.fill leader va))
    | (s, .full) => (s, .park .poll)
    | (s, .refused _) => (s, .gone)

/-- Runs the rest of a group at a translated address, of which it accesses `n` bytes; it is held while a parked group keeps its place
there. -/
def State.withPre (s : State) (va : DWord) (n : Nat) (acc : Acc) (m : Mask) (k : State → Nat → Eff) : Eff :=
  match s.pre va acc with
  | (s, .ok place) => if s.warp.holdsAt va.toNat n then .hold else k s place
  | (s, .park w) => .again (s.holding [(va, n)]) w m
  | (_, .held) => .hold
  | (_, .trap code cause aux) => .trap { code := code, mask := m, addr := va, cause := cause, aux := aux }
  | (s, .gone) => .moved s

/-- An entry of an MCAS block (R186). -/
structure McasEntry where
  addr : DWord
  size : Nat
  expect : Nat
  new : Nat
deriving DecidableEq, Repr

/-- The entries of a block, none when it is malformed (R187); `blk` is its address and `byte` its bytes. -/
def mcasEntries (blk : Nat) (byte : Nat → Byte) : Option (List McasEntry) :=
  let q (o n : Nat) : Nat := leValue ((List.range n).map fun i => byte (o + i))
  let n := q 0 1
  let wide := q 1 1
  let es := (List.range n).map fun i =>
    let size := if wide.testBit i then 8 else 4
    ({ addr := BitVec.ofNat 64 (q (16 + 24 * i) 8), size := size, expect := q (24 + 24 * i) size, new := q (32 + 24 * i) size } : McasEntry)
  let clash (i : Nat) (e : McasEntry) : Bool :=
    e.addr.toNat % e.size != 0 || overlap e.addr.toNat e.size blk 256 ||
    (es.take i).any fun f => overlap e.addr.toNat e.size f.addr.toNat f.size
  if n = 0 ∨ 8 < n ∨ wide / 2 ^ n ≠ 0 ∨ q 2 14 ≠ 0 then none
  else if (es.zipIdx.any fun p => clash p.2 p.1) then none
  else some es

/-! Order among the accesses of one warp (R172), and after those of other warps (R270, R273). -/

/-- The operations that its warp issued before an operation. -/
def State.ownEarlier (s : State) (o : Op) : List Op := (s.ops.takeWhile fun p => p.id != o.id).filter fun p => p.uid == o.uid

/-- The operations that come before an operation: those its warp issued earlier, and those of other warps that it is
ordered after. -/
def State.earlier (s : State) (o : Op) : List Op :=
  s.ownEarlier o ++ s.ops.filter fun p => p.uid != o.uid && o.after.contains p.id

/-- The entries that an MCAS block names as it stands, by address and size (R186). -/
def State.mcasSpans (s : State) (l : LaneReq) : List (Nat × Nat) :=
  match mcasEntries l.va.toNat fun i => s.memByte (placePa l.pa + i) with
  | some es => es.map fun e => (e.addr.toNat, e.size)
  | none => []

/-- Whether an MCAS lane is parked on one of its entries (R188). -/
def LaneReq.onEntry (l : LaneReq) : Bool := l.stage.parked && decide (2 ^ 64 ≤ l.aux.toNat)

/-- Whether a request has still to take effect on a byte of an access at `va`, which stands at `pa`. A parked request keeps
its place (R169, R286), and is compared by its address, an MCAS lane by those of its entries too. -/
def State.awaits (s : State) (o : Op) (l : LaneReq) (va pa n : Nat) : Bool :=
  (l.due o.kind && overlap (placePa l.pa) (l.bytes o.kind) pa n) ||
  (l.stage.parked && overlap l.va.toNat (l.bytes o.kind) va n) ||
  (match o.kind with
    | .mcas _ _ => (l.live || l.onEntry) && (s.mcasSpans l).any fun e => overlap e.1 e.2 va n
    | _ => false)

/-- Operations that read global memory. -/
def OpKind.reads : OpKind → Bool
  | .load _ _ _ _ _ => true
  | .kload _ => true
  | .tileLoad _ _ sram => !sram
  | _ => false

/-- TEX, TEXN, TEXQ and TRACE, which read through the path caches (R240). -/
def OpKind.paths : OpKind → Bool
  | .tex _ _ _ => true
  | .trace _ => true
  | _ => false

/-- Stores, whose bytes the caches of the cluster show before they register (R277). -/
def OpKind.plainStore : OpKind → Bool
  | .store _ _ => true
  | .tileStore _ _ sram => !sram
  | _ => false

/-- Whether a store of the warp that issues has to wait (R172): an earlier access to a byte of it, but a store that has reached the
cluster's cache, has still to take effect. -/
def State.loadsPending (s : State) (va pa n : Nat) : Bool :=
  s.ops.any fun o => (o.uid == s.warp.uid || s.warp.after.contains o.id) &&
    o.lanes.any fun l => !(o.kind.plainStore && l.live) && s.awaits o l va pa n

/-- Whether a warp has a store, RED, ATOM, MCAS or CADD that is not registered (R173, R192). -/
def State.pendingWrites (s : State) (uid : Nat) : Bool := s.warpHas uid fun o => o.kind.writes

/-- Whether every earlier global access of a warp has completed, TLD and TST included (R271, R280). -/
def State.globalIdle (s : State) (uid : Nat) : Bool := !s.warpHas uid fun o => match o.kind with
  | .load _ _ _ _ _ => true
  | .kload _ => true
  | .tileLoad _ _ sram => !sram
  | k => k.writes

/-- Whether every earlier read of a warp has returned (R204, R271): loads, TLD (TLD.S is ordered through FENCE with TILE alone, R280),
ATOM, CADD, and MCAS but for the write-back of a failed lane. -/
def State.readsBack (s : State) (uid : Nat) : Bool := !s.warpHas uid fun o => match o.kind with
  | .load _ _ _ _ _ => true
  | .kload _ => true
  | .tileLoad _ _ sram => !sram
  | .atom _ _ _ => true
  | .cadd _ => true
  | .mcas _ _ => o.lanes.any fun l => l.live || l.stage.parked
  | _ => false

/-- Whether an access of another warp that a warp is ordered after is still on its way. -/
def State.afterBusyOf (s : State) (w : Warp) : Bool := w.after.any fun i => s.ops.any fun o => o.id == i
def State.afterBusy (s : State) : Bool := s.afterBusyOf s.warp

/-- Whether a warp's accesses, and those of other warps that it is ordered after, have completed (R271, R273): its path reads too, which
may not return a later write (R270 rule 1). -/
def State.released (s : State) (w : Warp) : Bool := s.globalIdle w.uid && !s.afterBusyOf w && !s.warpHas w.uid fun o => o.kind.paths

/-- Whether a release of the warp that issues has to wait (R271). -/
def State.releaseBusy (s : State) : Bool := !s.released s.warp

/-- Whether an LDA of the warp has still to make its acquire, or an LDNC to invalidate the copies of what it read:
later loads wait (R173, R439). -/
def State.acquiring (s : State) : Bool := s.warpHas s.warp.uid fun o => match o.kind with
  | .load .acq _ _ _ _ => true
  | .load .nc _ _ _ _ => true
  | _ => false

/-- A group that needs an in-flight slot and finds 64 taken is held (R193). -/
def State.slotsFull (s : State) : Bool := decide (64 ≤ s.slotsUsed s.warp.uid)

/-- A group issued with a nonempty active set ends eligibility for flush-and-restart (R194, R198, R257). -/
def State.clearElig (s : State) : State :=
  if s.active = 0 then s else s.onWg s.warp.launch s.warp.wg fun g => { g with eligible := false }

/-- Whether every access to the bytes that comes before the operation has taken effect, plain stores that the caches of
the cluster hold aside where `near`. -/
def State.inOrder (s : State) (o : Op) (va pa n : Nat) (near : Bool) : Bool :=
  (s.earlier o).all fun p => p.lanes.all fun l => !s.awaits p l va pa n ||
    (near && l.live && placeCached l.pa && p.kind.plainStore)

/-- Whether a path read that comes before an operation is on its way: a write waits for it, since a read returns no write that it
happens before (R270 rule 1). -/
def State.pathsBefore (s : State) (o : Op) : Bool := (s.earlier o).any fun p => p.kind.paths

/-- Whether the other part of a request's row is parked: the row waits until both pages can be served (R232). -/
def Op.waitsPart (o : Op) (l : LaneReq) : Bool := o.lanes.any fun m => m.lane % 64 == l.lane % 64 && m.stage.parked

/-- Whether a lower lane of a store group is parked that may yet write a byte of this one, through another page (R172). -/
def Op.lanesBefore (o : Op) (l : LaneReq) : Bool :=
  o.lanes.any fun m => m.stage.parked && decide (m.lane % 64 < l.lane % 64) && overlap (m.va.toNat % 4096) (m.bytes o.kind) (l.va.toNat % 4096) (l.bytes o.kind)

/-- The operations of other warps of a cluster whose stores to the bytes of an access are on their way: a load that
takes them from a copy comes after them (R270 rule 3). -/
def State.storesSeen (s : State) (uid core pa n : Nat) : List Nat :=
  (s.ops.filter fun p => p.uid != uid && clusterOf p.core == clusterOf core &&
    p.lanes.any fun l => l.stores p.kind && !p.waitsPart l && overlap (placePa l.pa) (l.bytes p.kind) pa n).map (·.id)

/-- The later accesses of the warp of operation `o` come after the operations `ids`. -/
def State.comesAfter (s : State) (o : Op) (ids : List Nat) : State :=
  if ids.isEmpty then s
  else
    let s := s.onWarp o.uid fun w => { w with after := (w.after.filter fun i => s.ops.any fun p => p.id == i) ++ ids }
    { s with ops := s.ops.map fun p => if p.uid = o.uid ∧ o.id < p.id then { p with after := p.after ++ ids } else p }

/-- The elements of a tile row that a request moves: a row's second part ends with its last element (R232). -/
def LaneReq.elems (l : LaneReq) (k : OpKind) : List Nat :=
  (List.range (l.bytes k / 4)).map fun j => if l.lane < 64 then j else 64 - l.bytes k / 4 + j

/-- A store of four-word lane data as bytes. -/
def laneBytes (data : SMap Word) (lane n : Nat) : List Byte :=
  (leBytes 16 ((List.range 4).foldl (fun a j => a + (rd data (4 * lane + j)).toNat * 2 ^ (32 * j)) 0)).take n

/-- The bytes that a request of a store carries: a lane's, or a row's part's (R232). -/
def LaneReq.storeBytes (l : LaneReq) (k : OpKind) (data : SMap Word) : List Byte :=
  match k with
  | .tileStore _ _ _ => (l.elems k).flatMap fun j => leBytes 4 (rd data (64 * (l.lane % 64) + j)).toNat
  | k => laneBytes data l.lane k.size

/-- The bytes that a lane of a store carries. -/
def Op.storeBytes (o : Op) (lane : Nat) : List Byte :=
  match o.lane lane with
  | some l => l.storeBytes o.kind o.data
  | none => []

/-! Stores on their way. A store reaches its cluster's cache when its request is made, and its home when it registers: in the same
order, byte by byte, as the other stores of the cluster (R270 rule 3, R277; log entry 62). -/

/-- The first operand of an atomic's lane, and the replacement of CAS. -/
def laneV (data : SMap Word) (l : Nat) : Nat := (rd data (4 * l)).toNat + 2 ^ 32 * (rd data (4 * l + 1)).toNat
def laneC (data : SMap Word) (l : Nat) : Nat := (rd data (4 * l + 2)).toNat + 2 ^ 32 * (rd data (4 * l + 3)).toNat

/-- What a request that stores writes, by address: a store's bytes, or the EXPECT fields that a failed MCAS lane writes back (R188). -/
def LaneReq.carries (l : LaneReq) (k : OpKind) (data : SMap Word) : List (Nat × List Byte) :=
  match k with
  | .mcas _ _ => (List.range (l.aux.toNat % 16)).map fun i => (placePa l.pa + 24 + 24 * i, leBytes 8 (laneV data (8 * l.lane + i)))
  | k => [(placePa l.pa, l.storeBytes k data)]

/-- Whether a request of an operation stands in its cluster's cache as a store on its way. -/
def Op.inCache (o : Op) (l : LaneReq) : Bool := l.stores o.kind && !o.waitsPart l && placeCached l.pa && !placePeer l.pa

/-- The stores of a cluster that are on their way, in the order in which they reached its cache. -/
def State.onWay (s : State) (cluster : Nat) : List (Nat × List Byte) :=
  (sortBy (fun e => e.1) ((s.ops.filter fun o => clusterOf o.core == cluster).flatMap fun o =>
    (o.lanes.filter o.inCache).map fun l => (l.val.toNat, l.carries o.kind o.data))).flatMap fun e => e.2

/-- A byte as the stores `ws`, made one after the other, leave it. -/
def overlaid (ws : List (Nat × List Byte)) (a : Nat) (b : Byte) : Byte :=
  ws.foldl (fun b w => if w.1 ≤ a ∧ a < w.1 + w.2.length then w.2.getD (a - w.1) 0 else b) b

/-- A line read from the home is installed in a cluster's cache, with the stores that are on their way merged into it (R277). -/
def State.installCluster (s : State) (cluster : Nat) (ws : List (Nat × List Byte)) (line : Nat) : State :=
  s.installWith (ccOf cluster) line fun a => overlaid ws a (s.memByte a)

/-- A store of `n` bytes as its cluster sees it at once (R277): absent lines are installed, but for those that an engine owns, which the
home does not read yet (R185 step 2); the cluster's copy takes the bytes, the core's own L1 is updated where present and the cluster's
other L1s are invalidated. `ws` are the stores on their way, this one among them. -/
def State.clusterStore (s : State) (core : Nat) (ws : List (Nat × List Byte)) (pa n : Nat) : State :=
  let cl := clusterOf core
  let s := (linesOf pa n).foldl (fun s line =>
    if ((List.range 32).all fun i => s.hasWord (ccOf cl) (line * 32 + i)) || s.lineOwned line then s
    else (s.mergeLine line).installCluster cl ws line) s
  (wordsOf pa n).foldl (fun s wd =>
    let own := s.hasWord (l1Of core) wd
    let s := s.dropWord (fun h => holderIn cl h && h != ccOf cl && h != l1Of core) wd
    if s.hasWord (ccOf cl) wd then
      let s := s.setWord (ccOf cl) wd fun i => overlaid ws (wd * 4 + i) (s.copyByte (ccOf cl) (wd * 4 + i))
      if own then [wd, otherHalf wd].foldl (fun s x =>
        if s.hasWord (ccOf cl) x && s.hasWord (l1Of core) x then s.setWord (l1Of core) x fun i => s.copyByte (ccOf cl) (x * 4 + i)
        else s.dropWord (· == l1Of core) x) s
      else s
    else s.dropWord (· == l1Of core) wd) s

/-- The cluster of an operation's core sees at once what those of its requests that `p` names store. -/
def State.nearLanes (s : State) (op : Nat) (p : LaneReq → Bool) : State :=
  match s.opOf op with
  | none => s
  | some o =>
    let ws := s.onWay (clusterOf o.core)
    (o.lanes.filter fun l => p l && o.inCache l).foldl (fun s l =>
      (l.carries o.kind o.data).foldl (fun s e => s.clusterStore o.core ws e.1 e.2.length) s) s

/-- A group's end changed: the state from which its warp goes on. -/
def Eff.onNext (e : Eff) (f : State → State) : Eff :=
  match e with
  | .done s => .done (f s)
  | .waits s w => .waits (f s) w
  | e => e

/-- A group that stores, launched and seen by its cluster. -/
def State.launchStore (s : State) (kind : OpKind) (lanes : List LaneReq) (faults : List FaultLane) (data data2 : SMap Word) (bytes : SMap Byte) : Eff :=
  (s.launchOpWith kind lanes faults data data2 bytes).onNext fun t => t.nearLanes s.nextOp fun _ => true

/-- Whether a request reached its cluster's cache, or left its warp, before another. -/
def leftBefore (p : Op) (m : LaneReq) (o : Op) (l : LaneReq) : Bool :=
  decide (m.val.toNat < l.val.toNat) || m.val == l.val && (decide (p.id < o.id) || p.id == o.id && decide (m.lane < l.lane))

/-- Whether a store of the cluster that reached its cache before this one is on its way to a byte of it. -/
def State.storesBefore (s : State) (o : Op) (l : LaneReq) : Bool :=
  s.ops.any fun p => clusterOf p.core == clusterOf o.core && p.lanes.any fun m =>
    m.stores p.kind && !p.waitsPart m && !placePeer m.pa && leftBefore p m o l && overlap (placePa m.pa) (m.bytes p.kind) (placePa l.pa) (l.bytes o.kind)

/-! Service. -/

/-- Drops a cluster's copies of the words of an access. -/
def State.dropOwn (s : State) (cluster pa n : Nat) : State :=
  (wordsOf pa n).foldl (fun s wd => s.dropWord (holderIn cluster) wd) s

/-- The bytes of an access, little-endian, from the caches of the core where one of them holds every word (R277). -/
def State.nearRead (s : State) (core pa n : Nat) : Option Nat :=
  if s.hasBytes (l1Of core) pa n then some (s.copyRead (l1Of core) pa n)
  else if s.hasBytes (ccOf (clusterOf core)) pa n then some (s.copyRead (ccOf (clusterOf core)) pa n)
  else none

/-- Whether stores of the cluster to the words of an access are on their way (R277). -/
def State.clusterStoring (s : State) (core pa n : Nat) : Bool := (wordsOf pa n).any (s.storing (clusterOf core))

/-- A plain load's bytes from the copies of its cluster, where it may take them (R277). -/
def State.copyLoad (s : State) (o : Op) (va place n : Nat) : Option Nat :=
  if placeCached place && s.inOrder o va (placePa place) n true then s.nearRead o.core (placePa place) n else none

/-- Drops a cluster's copies of words that it does not own: a read at the home orders the later loads of its warp after
it (R270 rule 3, R439). -/
def State.dropStale (s : State) (cluster pa n : Nat) : State :=
  (wordsOf pa n).foldl (fun s wd =>
    if SMap.find wd s.owners == some cluster then s else s.dropWord (holderIn cluster) wd) s

/-- A plain load brings its line into the cluster cache and the L1 (R277). -/
def State.installLoad (s : State) (core place : Nat) : State :=
  let cl := clusterOf core
  if placeCached place then
    let s := s.installCluster cl (s.onWay cl) (lineOf (placePa place))
    (List.range 32).foldl (fun s i =>
      let wd := lineOf (placePa place) * 32 + i
      if s.hasWord (ccOf cl) wd then s.setWord (l1Of core) wd fun j => s.copyByte (ccOf cl) (wd * 4 + j) else s) s
  else s

/-- The words of a store in the caches of its cluster once it has registered (R276): the line is installed where it was not yet, and
each copy of a word, with the other half of its 8-byte unit (R166), holds the home's value with the stores still on their way. -/
def State.refresh (s : State) (cluster pa n : Nat) : State :=
  let ws := s.onWay cluster
  let s := (linesOf pa n).foldl (fun s line => if s.lineOwned line then s else s.installCluster cluster ws line) s
  let put (c : Copy) (x : Nat) : Copy :=
    if bit c.valid (x % 32) then { c with data := (List.range 4).foldl (fun d j => wr d (x % 32 * 4 + j) (overlaid ws (x * 4 + j) (s.memByte (x * 4 + j)))) c.data } else c
  s.mapCopies fun c => (wordsOf pa n).foldl (fun c wd =>
    if holderIn cluster c.holder && c.line == wd / 32 then put (put c wd) (otherHalf wd) else c) c

/-- A lane's new stage and values. -/
def LaneReq.to (l : LaneReq) (st : Stage) (val : Nat) : LaneReq := { l with stage := st, val := BitVec.ofNat 128 val }

/-- Sign or zero extension of a loaded value (R165). -/
def extendLoad (n : Nat) (signed wide : Bool) (x : Nat) : Nat :=
  let w := if wide then 64 else 32
  if signed && decide (8 * n < w) && x.testBit (8 * n - 1) then x + (2 ^ w - 2 ^ (8 * n)) else x

/-- Writes a load's value into the registers its D names (R165). -/
def Warp.loadInto (w : Warp) (d : Code) (lane n : Nat) (signed wide : Bool) (x : Nat) : Warp :=
  if 0xBF < d.toNat then w
  else if n = 16 then
    (w.setV d.toNat lane true x).setV (d.toNat + 2) lane true (x / 2 ^ 64)
  else w.setV d.toNat lane wide (extendLoad n signed wide x)

/-- What returning data does to the registers of the warp. -/
def State.returnData (s : State) (o : Op) (lane x : Nat) : State :=
  s.onWarp o.uid fun w =>
    match o.kind with
    | .load _ n signed wide d => w.loadInto d lane n signed wide x
    | .kload d => if 0xC0 ≤ d.toNat ∧ d.toNat ≤ 0xEF then { w with k := wr w.k (d.toNat - 0xC0) (BitVec.ofNat 64 x) }
      else if d.toNat ≤ 0x0F then
        { w with solo := w.solo.map fun h => { h with h := wr h.h d.toNat (BitVec.ofNat 64 x) } }
      else w
    | .atom _ et d => w.loadInto d lane (atomBytes et) false (etypeOf et).wide x
    | .cadd d => w.loadInto d lane 8 false true x
    | _ => w

/-- The acquire of R173 for a warp's cluster, GLOBAL class. -/
def State.acquireAt (s : State) (core : Nat) : State := s.selfInvalidate (clusterOf core)

/-- A lane is done; the operation ends with its last lane, but for a tile move, which ends when its rows are written into
the tile or its slot is freed (R219). -/
def State.finishLane (s : State) (o : Op) (lane : Nat) : State :=
  (s.onOp o.id fun o => o.onLane lane fun l => { l with stage := .done }).settle o.id

/-! Reads that a group makes as it issues: branch tables, return-stack entries and descriptors. -/

/-- The warp that issues as the issuer of an operation that is still to be numbered. -/
def State.selfOp (s : State) : Op where
  id := s.nextOp
  uid := s.warp.uid
  entry := s.warp.fragIx
  pc := s.grp.pc
  kind := .copy
  lanes := []
  data := []
  data2 := []
  bytes := []
  core := s.warp.core
  asid := s.asid
  launch := s.warp.launch
  sys := s.sysReq
  rep := s.grp.repIx
  after := s.warp.after

/-- A request that the warp that issues makes at once. -/
def State.selfReq (s : State) (va : DWord) (place : Nat) : LaneReq := { lane := 0, va := va, pa := place, stage := .request, val := s.now, aux := 0 }

/-- Whether nothing keeps a plain load from reading its home: no copy serves it, and no store of its cluster is on its way to its words
(R277). -/
def State.misses (s : State) (o : Op) (l : LaneReq) (n : Nat) : Bool :=
  let pa := placePa l.pa
  s.inOrder o l.va.toNat pa n true && !(placeCached l.pa && (s.clusterStoring o.core pa n || (s.nearRead o.core pa n).isSome))

/-- Whether a request can be served at its home now (R172, R185, R270): no engine owns its bytes, the accesses that come before it have
taken effect, and a store's turn has come among those of its cluster. -/
def State.arrives (s : State) (o : Op) (l : LaneReq) : Bool :=
  let pa := placePa l.pa
  let n := Max.max (l.bytes o.kind) 1
  !placePeer l.pa && !o.waitsPart l && !s.bytesOwned pa n &&
  (if l.stores o.kind then
    !s.storesBefore o l && (l.stage == .served || s.inOrder o l.va.toNat pa n true && !o.lanesBefore l && !s.pathsBefore o)
  else l.live && (match o.kind with
    | .load .plain _ _ _ _ => s.misses o l n
    | .load _ _ _ _ _ => s.inOrder o l.va.toNat pa n false
    | .kload _ => s.misses o l n
    | .tileLoad _ _ sram => !sram && s.misses o l n
    | .mcas _ _ => s.inOrder o l.va.toNat pa n false && !s.pathsBefore o && !s.clusterStoring o.core pa n
    | k => k.writes && s.inOrder o l.va.toNat pa n false && !s.pathsBefore o))

/-- Whether another group of the warp has a request to the same home that left the warp before and can be served now: requests of one
warp to one home slice arrive in the order in which they left (R418). -/
def State.sliceBusy (s : State) (o : Op) (l : LaneReq) : Bool :=
  s.ops.any fun p => p.uid == o.uid && p.id != o.id && p.lanes.any fun m => leftBefore p m o l && homeOf m.pa == homeOf l.pa && s.arrives p m

/-- Free bytes of the machine, a fresh value each (log entry 9). -/
def State.freeBytes (s : State) (n : Nat) : List Byte := (List.range n).map fun i => (Config.free (s.freeCtr + i)).setWidth 8

/-- A plain read of `n` bytes at a place, made at once; none while an earlier access of the warp, an engine or a store
of the cluster must come first. What a peer's page gives is a free value (log entry 14). -/
def State.readNow (s : State) (va : DWord) (place n : Nat) : Option (State × Nat) :=
  let o := s.selfOp
  let pa := placePa place
  if placePeer place then some ({ s with freeCtr := s.freeCtr + n }, leValue (s.freeBytes n))
  else if s.acquiring then none
  else match s.copyLoad o va.toNat place n with
    | some x => some (s.comesAfter o (s.storesSeen o.uid o.core pa n), x)
    | none =>
      if s.bytesOwned pa n || !s.inOrder o va.toNat pa n true || (placeCached place && s.clusterStoring o.core pa n) ||
          s.sliceBusy o (s.selfReq va place) then none
      else
        let s := s.mergeBytes pa n
        some ((s.dropStale (clusterOf o.core) pa n).installLoad o.core place, s.memRead pa n)

/-- Why a peer gives no data to a read of a group that is made at once, if it does (R429): it denies it, it does not answer within PTMO,
or the context has no credential (R423). Which of them is a free value (log entry 14). -/
def State.peerRefuses (s : State) (lane place : Nat) : Option Nat :=
  if !placePeer place then none
  else if s.credOf s.asid = 0 then some 0x2A
  else match (Config.free (2 ^ 62 + 64 * s.ticks + lane)).toNat % 3 with
    | 0 => none
    | 1 => some 0x2A
    | _ => some 0x2B

/-- The precise trap of a group of whose reads a peer refuses some: it names the lowest such lane's address, and the failing lanes. AUX is
the peer. -/
def State.peerTrap (s : State) (places : List (Nat × DWord × Nat)) (mask : Nat → Mask) : Option TrapInfo :=
  let bad := places.filterMap fun e => (s.peerRefuses e.1 e.2.2).map fun code => (e, code)
  match bad with
  | [] => none
  | (e, code) :: _ => some { code := code, mask := bad.foldl (fun m b => m ||| mask b.1.1) 0, addr := e.2.1, cause := 0, aux := BitVec.ofNat 64 (placeId e.2.2) }

/-- What the translations of several lanes of a group mean for the group (R117, R207, R354 row 6.8). -/
inductive PreLanes where
  | ok (places : List (Nat × DWord × Nat))
  | park (w : Wait) (m : Mask)
  | held
  | trap (t : TrapInfo)
  | gone
deriving DecidableEq, Repr

/-- One lane's outcome. -/
abbrev LanePre := Nat × DWord × Pre

/-- Whether two parks end, or fail, together: on one block's fill, or on one page (R117, R357). -/
def Wait.sameEnd : Wait → Wait → Bool
  | .fill l _, .fill m _ => l == m
  | .page a va acc, .page b wa bcc => a == b && va.toNat / 4096 == wa.toNat / 4096 && acc == bcc
  | .poll, .poll => true
  | _, _ => false

/-- The lanes' outcomes put together: a failure traps the group with the code of the lowest failing lane, else a full miss
table holds it, else a park parks it, else every lane has its place. -/
def joinPre (ls : List LanePre) : PreLanes :=
  let failed := ls.filter fun e => match e.2.2 with
    | .trap _ _ _ => true
    | _ => false
  let parked := ls.filterMap fun e => match e.2.2 with
    | .park w => some (e.1, w)
    | _ => none
  let gone := ls.any fun e => match e.2.2 with
    | .gone => true
    | _ => false
  let held := ls.any fun e => match e.2.2 with
    | .held => true
    | _ => false
  if gone then .gone
  else match failed, held, parked with
    | (_, va, .trap code cause aux) :: _, _, _ =>
      .trap { code := code, mask := failed.foldl (fun m e => m ||| laneBit e.1) 0, addr := va, cause := cause, aux := aux }
    | _, true, _ => .held
    | _, _, (_, w) :: _ =>
      .park w (parked.foldl (fun m e => if e.2.sameEnd w then m ||| laneBit e.1 else m) 0)
    | _, _, _ => .ok (ls.filterMap fun e => match e.2.2 with
      | .ok place => some (e.1, e.2.1, place)
      | _ => none)

/-- `Translate` for the lanes of `m`, in ascending order. -/
def State.preLanes (s : State) (m : Mask) (acc : Acc) (va : Nat → DWord) : State × PreLanes :=
  let (s, ls) := (lanesOf m).foldl (fun (r : State × List LanePre) l =>
    match r.1.pre (va l) acc with
    | (s, p) => (s, r.2 ++ [(l, va l, p)])) (s, [])
  (s, joinPre ls)

/-- Reads `n` bytes for each lane; none while one of the reads must wait. -/
def State.readLanes (s : State) (n : Nat) : List (Nat × DWord × Nat) → Option (State × List (Nat × Nat))
  | [] => some (s, [])
  | (l, va, place) :: rest =>
    match s.readNow va place n with
    | none => none
    | some (s, x) => match State.readLanes s n rest with
      | none => none
      | some (s, xs) => some (s, (l, x) :: xs)

/-- Reads `n` bytes for the lanes of `m`, and runs the rest of the group on them. -/
def State.withReads (s : State) (m : Mask) (n : Nat) (va : Nat → DWord) (k : State → List (Nat × Nat) → Eff) : Eff :=
  match s.preLanes m .r va with
  | (_, .trap t) => .trap t
  | (s, .park w p) => .again (s.holding ((lanesOf m).map fun l => (va l, n))) w p
  | (_, .held) => .hold
  | (s, .gone) => .moved s
  | (s, .ok places) =>
    if (lanesOf m).any fun l => s.warp.holdsAt (va l).toNat n then .hold
    else match s.peerTrap places laneBit, s.readLanes n places with
      | some t, _ => .trap t
      | none, none => .hold
      | none, some (s, xs) => k s xs

end Sys2Proof.Machine
end

