-- ==== Sys2Proof/Machine/Special.lean ====
section
/-! DEFINITION. The special functions of R137 and R138. Their exact values are enclosed in fixed point; which result
within the stated error the part gives is a free value of Config (log entry 5). -/

namespace Sys2Proof.Machine

/-- ln 2 in fixed point with `p` fraction bits. -/
def fixLn2 (p : Nat) : Nat :=
  (List.range p).foldl (fun a k => a + 2 ^ p / ((k + 1) * 2 ^ (k + 1))) 0

/-- exp of a fixed-point number below 1, by its series. -/
def fixExp (p t : Nat) : Nat :=
  ((List.range 80).foldl (fun (a : Nat × Nat) k => (a.1 + a.2, a.2 * t / ((k + 1) * 2 ^ p))) (0, 2 ^ p)).1

/-- `p` fraction bits of log2 of a fixed-point number in [1, 2), by squaring. -/
def fixLog2 (p y : Nat) : Nat :=
  ((List.range p).foldl (fun (a : Nat × Nat) _ =>
    let z := a.2 * a.2 / 2 ^ (2 * p)
    if 2 ^ (2 * p + 1) ≤ z then (2 * a.1 + 1, z / 2) else (2 * a.1, z)) (0, y * 2 ^ p)).1

/-- atan(1 / n) in fixed point. -/
def fixAtanInv (p n : Nat) : Int :=
  ((List.range (p / 4 + 1)).foldl (fun (a : Int × Int × Nat) k =>
    (a.1 + (if k % 2 = 0 then a.2.1 else -a.2.1) / ((2 * k + 1 : Nat) : Int), a.2.1 / ((n * n : Nat) : Int), a.2.2))
    (0, ((2 ^ p / n : Nat) : Int), 0)).1

/-- π in fixed point (Machin). -/
def fixPi (p : Nat) : Int := 16 * fixAtanInv p 5 - 4 * fixAtanInv p 239

/-- sin and cos of a fixed-point number of magnitude below 1, by their series. -/
def fixSinCos (p : Nat) (r : Int) : Int × Int :=
  let st := (List.range 300).foldl (fun (a : Int × Int × Int) k =>
      let s := if k % 4 = 1 then a.1 + a.2.2 else if k % 4 = 3 then a.1 - a.2.2 else a.1
      let c := if k % 4 = 0 then a.2.1 + a.2.2 else if k % 4 = 2 then a.2.1 - a.2.2 else a.2.1
      (s, c, a.2.2 * r / (((k + 1) * 2 ^ p : Nat) : Int))) ((0, 0, ((2 ^ p : Nat) : Int)))
  (st.1, st.2.1)

/-- The fraction bits kept for sin and cos: enough for the whole finite range of FP64. -/
def trigBits : Nat := 2600

/-- sin or cos of a finite value in fixed point, with exact argument reduction (R137). -/
def fixTrig (cosine : Bool) (d : Dy) : Int :=
  let x := (Dy.mul d ⟨1, trigBits⟩).floor
  let half := fixPi trigBits / 2
  let q := Int.fdiv (x + half / 2) half
  let sc := fixSinCos trigBits (x - q * half)
  match ((q + (if cosine then 1 else 0)) % 4).toNat with
  | 0 => sc.1
  | 1 => sc.2
  | 2 => -sc.1
  | _ => -sc.2

/-- The functions of R137 whose result is within an error. -/
inductive SpecialFn where
  | rcp | rsq | exp2 | log2 | sin | cos
deriving DecidableEq, Repr

def SpecialFn.index : SpecialFn → Nat
  | .rcp => 0
  | .rsq => 1
  | .exp2 => 0
  | .log2 => 1
  | .sin => 2
  | .cos => 3

/-- The code of `n` units of `2 ^ q` (with 0 ≤ n), overflowing as an infinity (R57, RNE column). -/
def Fmt.ofUnits (f : Fmt) (neg : Bool) (n : Nat) (q : Int) : Nat :=
  if n = 0 then f.zero neg else f.round Mode.home (.fin neg n q)

/-- A result with error below 1 ulp: one of the two neighbours of an inexact exact value. -/
def Fmt.nearby (f : Fmt) (up neg : Bool) (r : Ratio) : Nat :=
  let q : Int := Max.max (r.exponent - f.mb) (1 - (f.bias : Int) - f.mb)
  let sc := r.scaled q
  f.ofUnits neg (if sc.2.2 then sc.1 else if up then sc.1 + 1 else sc.1) q

/-- The exponent of the last place of a magnitude in a format. -/
def Fmt.lastPlace (f : Fmt) (r : Ratio) : Int := Max.max (r.exponent - f.mb) (1 - (f.bias : Int) - f.mb)

/-- Whether `c`, rounded up and down to a format, errs by at most 1 ulp of the exact `r` (R137, packed types). -/
def Fmt.lands (f : Fmt) (c r : Ratio) : Bool :=
  let q := f.lastPlace c
  let sc := c.scaled q
  [0, if sc.2.2 then 0 else 1].all fun u =>
    Dy.le (Dy.abs (Dy.sub ⟨Int.ofNat (sc.1 + u), q⟩ ⟨Int.ofNat r.num, r.e⟩)) ⟨1, f.lastPlace r⟩

/-- A result with error at most 2 ulp of an exact value enclosed by `r`; of a dyadic `r`, one that a format of `gs` then rounds
with error at most 1 ulp. -/
def Fmt.within2 (f : Fmt) (gs : List Fmt) (dev : Nat) (neg : Bool) (r : Ratio) : Nat :=
  let q := f.lastPlace r
  let n := (r.scaled q).1 + dev % 4 - 1
  f.ofUnits neg (if gs.all fun g => g.lands ⟨n, 1, q⟩ r then n else (r.scaled q).1 + dev % 2) q

/-- The 16-bit formats that hold the FP32 value of a code: the 8-bit formats' values are among theirs. -/
def narrowHolders (x : Nat) : List Fmt :=
  [fp16, bf16].filter fun g => fp32.round Mode.home (g.value (g.round Mode.home (fp32.value x))) == x

/-- 2 ^ d of a dyadic d that is no integer, enclosed in fixed point. -/
def exp2Value (d : Dy) : Ratio :=
  if Dy.lt d (Dy.ofInt (-5000)) then ⟨1, 1, -5000⟩
  else
    let t := (Dy.mul (Dy.sub d (Dy.ofInt d.floor)) ⟨1, 240⟩).floor.toNat
    ⟨fixExp 240 (t * fixLn2 240 / 2 ^ 240), 1, d.floor - 240⟩

/-- 2 ^ d for a dyadic d (R138: an integer d is exact, then Round). In FP32 and FP64, where RND is ignored and the manual names no mode,
it is rounded to nearest, ties to even, and overflows to infinity (DESIGN CHOICE, log entry 73). -/
def exp2Of (f : Fmt) (gs : List Fmt) (md : Mode) (dev : Nat) (d : Dy) : Nat :=
  let n := d.floor
  let whole := (Dy.sub d (Dy.ofInt n)).m == 0
  if Dy.lt (Dy.ofInt 5000) d then f.infinite md false
  else if whole then f.round md (.fin false 1 (Max.max n (-5000)))
  else f.within2 gs dev false (exp2Value d)

/-- The significand of `m × 2 ^ e` in [1, 2), in fixed point. -/
def fixMantissa (m : Nat) : Nat := m * 2 ^ 240 / 2 ^ (bitLen m - 1)

/-- The sign and magnitude of log2 of `m × 2 ^ e` that is no power of two, enclosed in fixed point. -/
def log2Value (m : Nat) (e : Int) : Bool × Ratio :=
  let v : Int := (e + bitLen m - 1) * (2 ^ 240 : Nat) + fixLog2 240 (fixMantissa m)
  (decide (v < 0), ⟨v.natAbs, 1, -240⟩)

/-- log2 of `m × 2 ^ e`, m > 0 (R138: a power of two is exact). -/
def log2Of (f : Fmt) (gs : List Fmt) (md : Mode) (dev : Nat) (m : Nat) (e : Int) : Nat :=
  if fixMantissa m = 2 ^ 240 then f.round md (Fv.ofDy (Dy.ofInt (e + bitLen m - 1)))
  else f.within2 gs dev (log2Value m e).1 (log2Value m e).2

/-- The magnitude of sin or cos of a nonzero finite value and its sign, enclosed in fixed point; below 2 ^ -800 a sine is its
argument less a part too small to show. -/
def trigValue (cosine : Bool) (s : Bool) (m : Nat) (e : Int) : Bool × Ratio :=
  if !cosine && decide (e + bitLen m < -800) then (s, ⟨m * 2 ^ 200 - 1, 1, e - 200⟩)
  else
    let y := fixTrig cosine (Fv.fin s m e).dy
    (decide (y < 0), ⟨y.natAbs, 1, -(trigBits : Int)⟩)

/-- A special function in FP32 or FP64 (R137, R138). `x` are the input's bits and `v` its value after FTZ. -/
def specialWide (fn : SpecialFn) (f : Fmt) (x : Nat) (v : Fv) : Nat :=
  let wide := f.mb == 52
  let up := Config.neighbourUp fn.index wide x
  let dev := Config.ulpError fn.index wide [x]
  let gs := if wide then [] else narrowHolders x
  let md := Mode.home
  match fn, v with
  | _, .nan => f.nan
  | .rcp, .inf s => f.zero s
  | .rcp, .fin s m e =>
    if m = 0 then f.infinite md s else f.nearby up s ⟨1, m, -e⟩
  | .rsq, .inf s => if s then f.nan else f.zero false
  | .rsq, .fin s m e =>
    if m = 0 then f.infinite md s
    else if s then f.nan
    else
      let r := sqrtRatio (4 * f.mb + 16) m e
      f.nearby up false ⟨1, r.num, -r.e⟩
  | .exp2, .inf s => if s then f.zero false else f.infinite md false
  | .exp2, .fin _ _ _ => exp2Of f gs md dev v.dy
  | .log2, .inf s => if s then f.nan else f.infinite md false
  | .log2, .fin s m e =>
    if m = 0 then f.infinite md true else if s then f.nan else log2Of f gs md dev m e
  | .sin, .inf _ => f.nan
  | .sin, .fin s m e =>
    if m = 0 then f.zero s
    else f.within2 gs dev (trigValue false s m e).1 (trigValue false s m e).2
  | .cos, .inf _ => f.nan
  | .cos, .fin s m e =>
    if m = 0 then f.round md (.fin false 1 0)
    else f.within2 gs dev (trigValue true s m e).1 (trigValue true s m e).2

/-- FTZ of an FP32 or FP64 result (R59). -/
def flushResult (f : Fmt) (md : Mode) (x : Nat) : Nat :=
  if md.ftz && f.flush && f.subnormal x then f.zero (f.value x).sign else x

/-- A special function in any floating-point format: the packed types take the FP32 result, then Round to the format
(R137); the special values of R138 are exact in every format. -/
def Fmt.special (fn : SpecialFn) (f : Fmt) (md : Mode) (x : Nat) : Nat :=
  let v := f.input md x
  if f.narrow then
    let x32 := fp32.round Mode.home v
    f.round md (fp32.value (specialWide fn fp32 x32 v))
  else flushResult f md (specialWide fn f x v)

end Sys2Proof.Machine
end

