-- ==== Sys2Proof/Machine/Arith.lean ====
section
/-! DEFINITION. Vector arithmetic, comparison, selection and special functions (R126–R141). -/

namespace Sys2Proof.Machine

/-- Element types admitted by an instruction (R129). -/
def etAny (_ : Nat) : Bool := true
def etInt (e : Nat) : Bool := decide (e ≤ 7)
def etWord (e : Nat) : Bool := decide (e ≤ 3)
def etFloat (e : Nat) : Bool := decide (8 ≤ e)
def etPacked (e : Nat) : Bool := (decide (4 ≤ e) && decide (e ≤ 7)) || decide (10 ≤ e)
def etField (e : Nat) : Bool := decide (e ≤ 3) || e == 8 || e == 9

/-- A three-operand ALU instruction under the element types it admits. -/
def State.alu3 (s : State) (op : Nat) (ok : Nat → Bool) (d a b : Code) : Ins :=
  { op := op, d := dstF d s.wide, a := srcF a s.wide, b := srcF b s.wide, bad := !ok (wmEtype s.wm) }

/-- A two-operand ALU instruction; B is reserved. -/
def State.alu2 (s : State) (op : Nat) (ok : Nat → Bool) (d a : Code) : Ins :=
  { op := op, d := dstF d s.wide, a := srcF a s.wide, b := .resv, bad := !ok (wmEtype s.wm) }

/-- `Elementwise` (R127): `f` on the sub-elements of A, B and D. -/
def State.elementwise (s : State) (d a b : Code) (f : Nat → Nat → Nat → Nat) : State :=
  let t := s.et
  s.dst d t.wide s.active fun l =>
    let x := s.src a t.wide l
    let y := s.src b t.wide l
    let z := s.src d t.wide l
    t.pack fun i => f (t.elem x i) (t.elem y i) (t.elem z i)

/-- A group of R127: the checks, and then the loop. -/
def State.issueElem (s : State) (i : Ins) (d a b : Code) (f : State → Nat → Nat → Nat → Nat) :
    Host.Outcome State Fault Refusal :=
  s.issue i fun s => .done (s.elementwise d a b (f s))

/-- `Sat` of an exact integer under the element type (R128). -/
def State.satElem (s : State) (sg : Bool) (x : Int) : Nat := satInt s.et.w sg s.md.sat x

/-- An integer or a floating-point operation on sub-elements (R131). DEDUCED, log entry 23: SAT turns an infinite MIN, MAX, ABS
or NEG result in a narrow format into ±MAX, as R57 and R58 say of every result, where R131 calls these exact. -/
def State.arith (s : State) (fi : Bool → Int → Int → Int → Int) (ff : Fmt → Fv → Fv → Fv → Fv) (x y z : Nat) : Nat :=
  match s.et.kind with
  | .int sg => s.satElem sg (fi sg (intValue s.et.w sg x) (intValue s.et.w sg y) (intValue s.et.w sg z))
  | .fp f => f.round s.md (ff f (f.input s.md x) (f.input s.md y) (f.input s.md z))

/-- A floating-point special function on sub-elements (R137). -/
def State.specialElem (s : State) (fn : SpecialFn) (x : Nat) : Nat :=
  match s.et.kind with
  | .fp f => f.special fn s.md x
  | .int _ => 0

def execAdd (d a b : Code) (s : State) : Host.Outcome State Fault Refusal :=
  s.issueElem (s.alu3 0x10 etAny d a b) d a b fun s =>
    s.arith (fun _ x y _ => x + y) (fun _ x y _ => Fv.add s.md.rnd x y)

def execSub (d a b : Code) (s : State) : Host.Outcome State Fault Refusal :=
  s.issueElem (s.alu3 0x11 etAny d a b) d a b fun s =>
    s.arith (fun _ x y _ => x - y) (fun _ x y _ => Fv.add s.md.rnd x y.neg)

def execMul (d a b : Code) (s : State) : Host.Outcome State Fault Refusal :=
  s.issueElem (s.alu3 0x12 etAny d a b) d a b fun s =>
    s.arith (fun _ x y _ => x * y) (fun _ x y _ => Fv.mul x y)

def execMulh (d a b : Code) (s : State) : Host.Outcome State Fault Refusal :=
  s.issueElem (s.alu3 0x13 etInt d a b) d a b fun s x y _ =>
    let w := s.et.w
    let p := intValue w s.et.signed x * intValue w s.et.signed y
    (Int.fdiv p ((2 ^ w : Nat) : Int) % ((2 ^ w : Nat) : Int)).toNat

def execMac (d a b : Code) (s : State) : Host.Outcome State Fault Refusal :=
  s.issueElem { s.alu3 0x14 etAny d a b with d := dstRdF d s.wide } d a b fun s =>
    s.arith (fun _ x y z => x * y + z) (fun _ x y z => Fv.sum s.md.rnd [Fv.mul x y, z])

def execMin (d a b : Code) (s : State) : Host.Outcome State Fault Refusal :=
  s.issueElem (s.alu3 0x15 etAny d a b) d a b fun s =>
    s.arith (fun _ x y _ => Min.min x y) (fun _ x y _ => Fv.min x y)

def execMax (d a b : Code) (s : State) : Host.Outcome State Fault Refusal :=
  s.issueElem (s.alu3 0x16 etAny d a b) d a b fun s =>
    s.arith (fun _ x y _ => Max.max x y) (fun _ x y _ => Fv.max x y)

def execAbs (d a : Code) (s : State) : Host.Outcome State Fault Refusal :=
  s.issueElem (s.alu2 0x17 etAny d a) d a 0xF5 fun s =>
    s.arith (fun _ x _ _ => Int.ofNat x.natAbs) (fun _ x _ _ => x.abs)

def execNeg (d a : Code) (s : State) : Host.Outcome State Fault Refusal :=
  s.issueElem (s.alu2 0x18 etAny d a) d a 0xF5 fun s =>
    s.arith (fun _ x _ _ => -x) (fun _ x _ _ => x.neg)

/-- One sub-element comparison (R135). -/
def State.compare (s : State) (c x y : Nat) : Bool :=
  match s.et.kind with
  | .int sg =>
    condition c (intValue s.et.w sg x == intValue s.et.w sg y)
      (decide (intValue s.et.w sg x < intValue s.et.w sg y)) false
  | .fp f =>
    let u := f.input s.md x
    let v := f.input s.md y
    condition c (!Fv.lt false u v && !Fv.lt false v u) (Fv.lt false u v) (u.isNan || v.isNan)

/-- CMP (R135): n is ANY, p is PRED. -/
def execCmp (c : BitVec 4) (n : BitVec 1) (p : BitVec 3) (a b : Code) (s : State) : Host.Outcome State Fault Refusal :=
  s.issue { op := 0x19, d := .imm, a := srcF a s.wide, b := srcF b s.wide, preds := [p.toNat], bad := decide (8 ≤ c.toNat) }
    fun s =>
      let t := s.et
      let res (l i : Nat) : Bool := s.compare c.toNat (t.elem (s.src a t.wide l) i) (t.elem (s.src b t.wide l) i)
      .done (s.setP p.toNat s.active (maskIn s.active fun l =>
        if n = 1 then (List.range t.n).any (res l) else (List.range t.n).all (res l)))

/-- DOT4 (R134). -/
def State.dot4 (s : State) (x y c : Nat) : Nat :=
  let t := s.et
  match t.kind with
  | .int sg =>
    satInt 32 sg s.md.sat ((List.range t.n).foldl (fun z i => z + intValue t.w sg (t.elem x i) * intValue t.w sg (t.elem y i))
      (intValue 32 sg c))
  | .fp f =>
    fp32.round s.md (Fv.sum s.md.rnd (fp32.input s.md c ::
      (List.range t.n).map fun i => Fv.mul (f.input s.md (t.elem x i)) (f.input s.md (t.elem y i))))

def execDot4 (d a b : Code) (s : State) : Host.Outcome State Fault Refusal :=
  s.issue { s.alu3 0x1A etPacked d a b with d := dstRdF d false } fun s =>
    .done (s.dst d false s.active fun l => s.dot4 (s.src a false l) (s.src b false l) (s.src d false l))

/-- ADDX (R133): carry through p6. -/
def execAddx (d a b : Code) (s : State) : Host.Outcome State Fault Refusal :=
  s.issue { s.alu3 0x1B etWord d a b with preds := [6] } fun s =>
    let t (l : Nat) : Nat := s.src a s.wide l + s.src b s.wide l + (if (s.warp.pred 6).getLsbD l then 1 else 0)
    let m := s.active
    .done ((s.dst d s.wide m fun l => t l % 2 ^ s.et.w).setP 6 m (maskIn m fun l => decide (2 ^ s.et.w ≤ t l)))

/-- SEL (R136): n names the predicate (R95). -/
def execSel (n : BitVec 3) (d a b : Code) (s : State) : Host.Outcome State Fault Refusal :=
  s.issue { s.alu3 (0x20 + n.toNat) etAny d a b with preds := [n.toNat], ill := n == 7 } fun s =>
    .done (s.dst d s.wide s.active fun l =>
      if (s.warp.pred n.toNat).getLsbD l then s.src a s.wide l else s.src b s.wide l)

/-- DIV on integers (R132). -/
def State.divInt (s : State) (sg : Bool) (x y : Int) : Nat :=
  let w := s.et.w
  let hi : Int := if sg then (2 ^ (w - 1) : Nat) - 1 else (2 ^ w : Nat) - 1
  if y = 0 then
    (if s.md.sat then satInt w sg true (if sg && decide (x < 0) then -(2 ^ (w - 1) : Nat) else hi) else 2 ^ w - 1)
  else s.satElem sg (Int.tdiv x y)

def execDiv (d a b : Code) (s : State) : Host.Outcome State Fault Refusal :=
  s.issueElem (s.alu3 0x30 etAny d a b) d a b fun s x y _ =>
    match s.et.kind with
    | .int sg => s.divInt sg (intValue s.et.w sg x) (intValue s.et.w sg y)
    | .fp f => f.div s.md (f.input s.md x) (f.input s.md y)

def execRcp (d a : Code) (s : State) : Host.Outcome State Fault Refusal :=
  s.issueElem (s.alu2 0x31 etFloat d a) d a 0xF5 fun s x _ _ => s.specialElem .rcp x

def execRsq (d a : Code) (s : State) : Host.Outcome State Fault Refusal :=
  s.issueElem (s.alu2 0x32 etFloat d a) d a 0xF5 fun s x _ _ => s.specialElem .rsq x

/-- SQRT is correctly rounded under RND (R137). -/
def execSqrt (d a : Code) (s : State) : Host.Outcome State Fault Refusal :=
  s.issueElem (s.alu2 0x33 etFloat d a) d a 0xF5 fun s x _ _ =>
    match s.et.kind with
    | .fp f => f.sqrt s.md (f.input s.md x)
    | .int _ => 0

def execExp2 (d a : Code) (s : State) : Host.Outcome State Fault Refusal :=
  s.issueElem (s.alu2 0x34 etFloat d a) d a 0xF5 fun s x _ _ => s.specialElem .exp2 x

def execLog2 (d a : Code) (s : State) : Host.Outcome State Fault Refusal :=
  s.issueElem (s.alu2 0x35 etFloat d a) d a 0xF5 fun s x _ _ => s.specialElem .log2 x

def execSin (d a : Code) (s : State) : Host.Outcome State Fault Refusal :=
  s.issueElem (s.alu2 0x36 etFloat d a) d a 0xF5 fun s x _ _ => s.specialElem .sin x

def execCos (d a : Code) (s : State) : Host.Outcome State Fault Refusal :=
  s.issueElem (s.alu2 0x37 etFloat d a) d a 0xF5 fun s x _ _ => s.specialElem .cos x

def execRint (d a : Code) (s : State) : Host.Outcome State Fault Refusal :=
  s.issueElem (s.alu2 0x38 etFloat d a) d a 0xF5 fun s x _ _ =>
    match s.et.kind with
    | .fp f => f.rint s.md (f.input s.md x)
    | .int _ => 0

def execClassify (d a : Code) (s : State) : Host.Outcome State Fault Refusal :=
  s.issueElem (s.alu2 0x39 etFloat d a) d a 0xF5 fun s x _ _ =>
    match s.et.kind with
    | .fp f => f.classOf s.md x
    | .int _ => 0

/-- SCALE (R141). A scale beyond ±5,000 takes every finite value past the range of every format, so it is cut
there. DEDUCED, log entry 23: an infinity is kept under SAT too, as R141 says of this instruction. -/
def Fmt.scale (f : Fmt) (md : Mode) (v : Fv) (k : Int) : Nat :=
  match v with
  | .fin s m e => f.round md (.fin s m (e + Max.max (-5000) (Min.min 5000 k)))
  | .inf s => f.inf s
  | .nan => f.nan

def execScale (d a b : Code) (s : State) : Host.Outcome State Fault Refusal :=
  s.issueElem (s.alu3 0x3A etFloat d a b) d a b fun s x y _ =>
    match s.et.kind with
    | .fp f => f.scale s.md (f.input s.md x) (intValue s.et.w true y)
    | .int _ => 0

end Sys2Proof.Machine
end

