-- ==== Sys2Proof/Machine/Bits.lean ====
section
/-! DEFINITION. Bit operations (R142–R146) and conversions (R61, R147, R148). -/

namespace Sys2Proof.Machine

def execAnd (d a b : Code) (s : State) : Host.Outcome State Fault Refusal :=
  s.issueElem (s.alu3 0x40 etAny d a b) d a b fun _ x y _ => x &&& y

def execOr (d a b : Code) (s : State) : Host.Outcome State Fault Refusal :=
  s.issueElem (s.alu3 0x41 etAny d a b) d a b fun _ x y _ => x ||| y

def execXor (d a b : Code) (s : State) : Host.Outcome State Fault Refusal :=
  s.issueElem (s.alu3 0x42 etAny d a b) d a b fun _ x y _ => x ^^^ y

def execNot (d a : Code) (s : State) : Host.Outcome State Fault Refusal :=
  s.issueElem (s.alu2 0x43 etAny d a) d a 0xF5 fun s x _ _ => 2 ^ s.et.w - 1 - x

/-- SHL, SHR and ROT on one sub-element (R142). -/
def shlElem (w x n : Nat) : Nat := if w ≤ n then 0 else x * 2 ^ n % 2 ^ w
def shrElem (w : Nat) (sg : Bool) (x n : Nat) : Nat :=
  if sg then (Int.fdiv (intValue w true x) ((2 ^ Min.min n w : Nat) : Int) % ((2 ^ w : Nat) : Int)).toNat
  else if w ≤ n then 0 else x / 2 ^ n
def rotElem (w x n : Nat) : Nat := (x * 2 ^ (n % w) % 2 ^ w) + x / 2 ^ (w - n % w)

def execShl (d a b : Code) (s : State) : Host.Outcome State Fault Refusal :=
  s.issueElem (s.alu3 0x44 etAny d a b) d a b fun s x y _ => shlElem s.et.w x y

def execShr (d a b : Code) (s : State) : Host.Outcome State Fault Refusal :=
  s.issueElem (s.alu3 0x45 etAny d a b) d a b fun s x y _ => shrElem s.et.w s.et.signed x y

def execRot (d a b : Code) (s : State) : Host.Outcome State Fault Refusal :=
  s.issueElem (s.alu3 0x46 etAny d a b) d a b fun s x y _ => rotElem s.et.w x y

/-- The field length L of BFX and BFI (R143). -/
def fieldLen (w y : Nat) : Nat := Min.min (y / 256 % 256) (w - y % 256)

def bfxElem (w : Nat) (sg : Bool) (x y : Nat) : Nat :=
  let len := fieldLen w y
  if w ≤ y % 256 ∨ len = 0 then 0
  else
    let v := x / 2 ^ (y % 256) % 2 ^ len
    if sg && v.testBit (len - 1) then v + (2 ^ w - 2 ^ len) else v

def bfiElem (w x y c : Nat) : Nat :=
  let o := y % 256
  let len := fieldLen w y
  if w ≤ o ∨ len = 0 then c
  else c % 2 ^ o + (x % 2 ^ len) * 2 ^ o + c / 2 ^ (o + len) * 2 ^ (o + len)

def execBfx (d a b : Code) (s : State) : Host.Outcome State Fault Refusal :=
  s.issueElem (s.alu3 0x47 etField d a b) d a b fun s x y _ => bfxElem s.et.w s.et.signed x y

def execBfi (d a b : Code) (s : State) : Host.Outcome State Fault Refusal :=
  s.issueElem { s.alu3 0x48 etField d a b with d := dstRdF d s.wide } d a b fun s x y c => bfiElem s.et.w x y c

/-- POPC, CLZ and BREV on one sub-element (R144). -/
def popcElem (w x : Nat) : Nat := ((List.range w).filter fun i => x.testBit i).length
def clzElem (w x : Nat) : Nat := w - bitLen x
def brevElem (w x : Nat) : Nat :=
  (List.range w).foldl (fun r i => r + (if x.testBit i then 2 ^ (w - 1 - i) else 0)) 0

def execPopc (d a : Code) (s : State) : Host.Outcome State Fault Refusal :=
  s.issueElem (s.alu2 0x49 etAny d a) d a 0xF5 fun s x _ _ => popcElem s.et.w x

def execClz (d a : Code) (s : State) : Host.Outcome State Fault Refusal :=
  s.issueElem (s.alu2 0x4A etAny d a) d a 0xF5 fun s x _ _ => clzElem s.et.w x

def execBrev (d a : Code) (s : State) : Host.Outcome State Fault Refusal :=
  s.issueElem (s.alu2 0x4B etAny d a) d a 0xF5 fun s x _ _ => brevElem s.et.w x

/-- PERM (R145). -/
def permWord (x y z : Nat) : Nat :=
  (List.range 4).foldl (fun r j =>
    let sel := y / 16 ^ j % 16
    let q := sel % 8
    let byte := (if q ≤ 3 then x / 256 ^ q else z / 256 ^ (q - 4)) % 256
    r + (if 8 ≤ sel then (if 128 ≤ byte then 255 else 0) else byte) * 256 ^ j) 0

def execPerm (d a b : Code) (s : State) : Host.Outcome State Fault Refusal :=
  s.issue { op := 0x4C, d := dstRdF d false, a := srcF a false, b := srcF b false } fun s =>
    .done (s.dst d false s.active fun l => permWord (s.src a false l) (s.src b false l) (s.src d false l))

/-- HASH (R146). -/
def hashWord (c key : Word) : Word :=
  let h := c + key * 0x9E3779B9
  let h := h ^^^ (h >>> 15)
  let h := h * 0x2C1B3C6D
  let h := h ^^^ (h >>> 12)
  let h := h * 0x297A2D39
  h ^^^ (h >>> 15)

def execHash (d a b : Code) (s : State) : Host.Outcome State Fault Refusal :=
  s.issue { op := 0x4D, d := dstF d false, a := srcF a false, b := srcF b false } fun s =>
    .done (s.dst d false s.active fun l =>
      (hashWord (BitVec.ofNat 32 (s.src a false l)) (BitVec.ofNat 32 (s.src b false l))).toNat)

/-! Conversions. -/

/-- A conversion's source or target: an ETYPE's element, or RES24 (R147). -/
inductive CvtType where
  | elem (t : EType)
  | res24
deriving DecidableEq, Repr

/-- Sub-elements a lane. -/
def CvtType.n : CvtType → Nat
  | .elem t => t.n
  | .res24 => 1
def CvtType.w : CvtType → Nat
  | .elem t => t.w
  | .res24 => 32
def CvtType.wide : CvtType → Bool
  | .elem t => t.wide
  | .res24 => false

/-- A conversion marked none in R61. -/
def cvtNone : CvtType → CvtType → Bool
  | .elem t, .res24 => !t.isInt
  | _, _ => false

/-- One conversion of R61. DEDUCED, log entry 23, where R61 has no row: RES24 to a narrow signed integer takes the integer
row on the CRT value, RES24 to RES24 writes the canonical container, and a format to itself goes through `Round`. -/
def convert (md : Mode) (src tgt : CvtType) (x : Nat) : Nat :=
  match src, tgt with
  | .res24, .res24 => res24Pack (res24Canon x)
  | .res24, .elem t =>
    let v := crtValue (res24Canon x)
    match t.kind with
    | .int sg => satInt t.w sg md.sat v
    | .fp f => f.round md (Fv.ofDy (Dy.ofInt v))
  | .elem u, .res24 =>
    match u.kind with
    | .int sg => res24Pack (res24Of (intValue u.w sg x))
    | .fp _ => 0
  | .elem u, .elem t =>
    match u.kind, t.kind with
    | .int sg, .int tg => satInt t.w tg md.sat (intValue u.w sg x)
    | .int sg, .fp f => f.round md (Fv.ofDy (Dy.ofInt (intValue u.w sg x)))
    | .fp g, .fp f => if f.widens g then f.exact (g.input md x) else f.round md (g.input md x)
    | .fp g, .int tg => (g.input md x).toInt t.w tg md.rnd

/-- H out of range (R147, R148). -/
def cvtPartBad (s t h : Nat) : Bool :=
  if s = t then h != 0 else if s < t then decide (t / s ≤ h) else decide (s / t ≤ h)

/-- The value CVT writes (R148); `z` is the old D. -/
def cvtLane (md : Mode) (src tgt : CvtType) (h x z : Nat) : Nat :=
  let s := src.n
  let t := tgt.n
  let from_ (i : Nat) : Nat := convert md src tgt (x / 2 ^ (src.w * i) % 2 ^ src.w)
  let part (i : Nat) : Nat :=
    if s < t then (if h * s ≤ i ∧ i < h * s + s then from_ (i - h * s) else z / 2 ^ (tgt.w * i) % 2 ^ tgt.w)
    else if t < s then from_ (h * t + i)
    else from_ i
  (List.range t).foldl (fun a i => a + part i * 2 ^ (tgt.w * i)) 0

/-- CVT (R147): r is RSRC, h the part index, t the target. -/
def execCvt (d a : Code) (r : BitVec 1) (h : BitVec 2) (t : BitVec 5) (s : State) : Host.Outcome State Fault Refusal :=
  let src : CvtType := if r = 1 then .res24 else .elem s.et
  let tgt : CvtType := if t = 15 then .res24 else .elem (etypeOf t.toNat)
  let bad := t.toNat == 14 || decide (16 ≤ t.toNat) || cvtNone src tgt || cvtPartBad src.n tgt.n h.toNat
  s.issue { op := 0x4E, d := if src.n < tgt.n then dstRdF d tgt.wide else dstF d tgt.wide, a := srcF a src.wide, b := .imm, bad := bad }
    fun s => .done (s.dst d tgt.wide s.active fun l => cvtLane s.md src tgt h.toNat (s.src a src.wide l) (s.src d tgt.wide l))

end Sys2Proof.Machine
end

