-- ==== Sys2Proof/WellFormed.lean ====
section
/-! DEFINITION. Which words are instructions (R75, R76, R95, R96) and which terms of Instr stand for one. -/

namespace Sys2Proof

/-- The reserved bits of an assigned opcode's word, in bits [23:0] (R76, and the encoding tables R105, R126, R150,
R164, R197, R218, R239); an unassigned opcode, a prefix and opcode 0x00 have none (R95, R96). -/
def reservedBits : Nat → Option (BitVec 24)
  | 0x01 | 0x0A | 0x0C | 0x0D | 0x7E | 0x84 | 0xC8 | 0xD2 | 0xD6 => some 0xFFFFFF#24
  | 0x05 | 0x07 | 0x08 | 0x09 | 0x0B | 0x10 | 0x11 | 0x12 | 0x13 | 0x14 | 0x15 | 0x16 | 0x19 | 0x1A | 0x1B |
    0x20 | 0x21 | 0x22 | 0x23 | 0x24 | 0x25 | 0x26 | 0x30 | 0x3A | 0x40 | 0x41 | 0x42 | 0x44 | 0x45 | 0x46 |
    0x47 | 0x48 | 0x4C | 0x4D | 0x4E | 0x50 | 0x51 | 0x52 | 0x53 | 0x60 | 0x61 | 0x62 | 0x63 | 0x64 | 0x65 |
    0x66 | 0x67 | 0x6A | 0x6B | 0x70 | 0x71 | 0x72 | 0x73 | 0x74 | 0x75 | 0x76 | 0x77 | 0x78 | 0x79 | 0x7A |
    0x90 | 0x91 | 0x98 | 0x9E | 0xA0 | 0xA1 | 0xC0 | 0xC1 | 0xC2 | 0xD0 | 0xD1 | 0xD4 | 0xD5 => some 0x000000#24
  | 0x06 => some 0xFFFFF0#24
  | 0x0E | 0x0F | 0x85 | 0x95 | 0x9B | 0x9D | 0xD3 | 0xD8 => some 0xFF0000#24
  | 0x17 | 0x18 | 0x31 | 0x32 | 0x33 | 0x34 | 0x35 | 0x36 | 0x37 | 0x38 | 0x39 | 0x43 | 0x49 | 0x4A | 0x4B |
    0x68 | 0xC6 | 0xD7 => some 0x0000FF#24
  | 0x54 | 0x55 => some 0xF8F0FF#24
  | 0x56 => some 0x00F0FF#24
  | 0x57 => some 0x0000F0#24
  | 0x58 | 0x7B | 0x7C | 0x80 | 0x81 | 0x82 | 0x83 => some 0x0000F8#24
  | 0x59 => some 0x000078#24
  | 0x5A => some 0xF8FFFF#24
  | 0x5B => some 0x0000FE#24
  | 0x5C => some 0x00FF00#24
  | 0x69 => some 0x080000#24
  | 0x7D => some 0xFFFFC0#24
  | 0x7F | 0xC3 => some 0xFC0000#24
  | 0x92 => some 0xFF00F8#24
  | 0x93 => some 0xFFFFFC#24
  | 0x94 | 0x96 | 0x97 | 0x99 | 0xC5 => some 0xFF00FF#24
  | 0x9A | 0x9C => some 0x780000#24
  | 0xA2 | 0xA3 | 0xA6 => some 0x00FFFF#24
  | 0xA4 | 0xA5 => some 0xF00000#24
  | 0xA7 => some 0x80F800#24
  | 0xA8 => some 0x000030#24
  | 0xA9 => some 0xF800FE#24
  | 0xAA | 0xAB => some 0xF000FF#24
  | 0xC4 => some 0x00FCFF#24
  | 0xC7 => some 0xF000FE#24
  | _ => none

/-- A word whose opcode is assigned and whose reserved bits are zero (R76, R96). -/
def legalWord (w : Word) : Bool :=
  match reservedBits (w.extractLsb' 24 8).toNat with
  | some m => w.extractLsb' 0 24 &&& m == 0
  | none => false

/-- A term that stands for an instruction word or an event of the manual: SEL selects by p0–p6 (R95), an illegal
word is no legal one, an event names one of 64 lanes (R13) and one of four dies (R1). -/
def Instr.wf : Instr → Bool
  | .sel n _ _ _ => n != 7
  | .illegalOp w => !legalWord w
  | .loadDataReturn _ l => decide (l < 64)
  | .storeRegistration _ l => decide (l < 64)
  | .homeRequestService _ l => decide (l < 64)
  | .redPartialUpdate _ l => decide (l < 64)
  | .mcasLaneEvent _ l => decide (l < 64)
  | .fillWaiterRetry _ l => decide (l < 64)
  | .pressureReclaim r => decide (r.die < 4)
  | .rayTraversalEnd _ slot l => decide (slot < 4) && decide (l < 64)
  | .savedImageReplyWrite _ _ _ l => decide (l < 64)
  | .syscReply _ l => decide (l < 64)
  | .syscResubmit _ l => decide (l < 64)
  | .peerPageAccess _ l _ => decide (l < 64)
  | .captureCtlWrite m _ => decide (m < 64)
  | .dramWipeDone die => decide (die < 4)
  | _ => true

end Sys2Proof
end

