-- ==== Sys2Proof/Decode.lean ====
section
/-! DEFINITION. Decoding an instruction word (R74, R75 and the encoding tables) and encoding one. The prefixes
0x02–0x04 are words of a group and are taken off by the fetch (R81). -/

namespace Sys2Proof

/-- The fields of a word whose opcode is `op` (R75, R105, R126, R150, R164, R197, R218, R239). -/
def decodeFields (op : Nat) (w : Word) : Instr :=
  match op with
  | 0x01 => .nop
  | 0x05 => .mode (w.extractLsb' 0 24)
  | 0x06 => .guard (w.extractLsb' 0 4)
  | 0x07 => .bra (w.extractLsb' 0 24)
  | 0x08 => .brx (w.extractLsb' 16 8) (w.extractLsb' 8 8) (w.extractLsb' 0 8)
  | 0x09 => .call (w.extractLsb' 0 24)
  | 0x0A => .ret
  | 0x0B => .join (w.extractLsb' 0 24)
  | 0x0C => .exit
  | 0x0D => .yield
  | 0x0E => .bkpt (w.extractLsb' 0 16)
  | 0x0F => .trap (w.extractLsb' 0 16)
  | 0x10 => .add (w.extractLsb' 16 8) (w.extractLsb' 8 8) (w.extractLsb' 0 8)
  | 0x11 => .sub (w.extractLsb' 16 8) (w.extractLsb' 8 8) (w.extractLsb' 0 8)
  | 0x12 => .mul (w.extractLsb' 16 8) (w.extractLsb' 8 8) (w.extractLsb' 0 8)
  | 0x13 => .mulh (w.extractLsb' 16 8) (w.extractLsb' 8 8) (w.extractLsb' 0 8)
  | 0x14 => .mac (w.extractLsb' 16 8) (w.extractLsb' 8 8) (w.extractLsb' 0 8)
  | 0x15 => .min (w.extractLsb' 16 8) (w.extractLsb' 8 8) (w.extractLsb' 0 8)
  | 0x16 => .max (w.extractLsb' 16 8) (w.extractLsb' 8 8) (w.extractLsb' 0 8)
  | 0x17 => .abs (w.extractLsb' 16 8) (w.extractLsb' 8 8)
  | 0x18 => .neg (w.extractLsb' 16 8) (w.extractLsb' 8 8)
  | 0x19 => .cmp (w.extractLsb' 20 4) (w.extractLsb' 19 1) (w.extractLsb' 16 3) (w.extractLsb' 8 8) (w.extractLsb' 0 8)
  | 0x1A => .dot4 (w.extractLsb' 16 8) (w.extractLsb' 8 8) (w.extractLsb' 0 8)
  | 0x1B => .addx (w.extractLsb' 16 8) (w.extractLsb' 8 8) (w.extractLsb' 0 8)
  | 0x20 => .sel (w.extractLsb' 24 3) (w.extractLsb' 16 8) (w.extractLsb' 8 8) (w.extractLsb' 0 8)
  | 0x21 => .sel (w.extractLsb' 24 3) (w.extractLsb' 16 8) (w.extractLsb' 8 8) (w.extractLsb' 0 8)
  | 0x22 => .sel (w.extractLsb' 24 3) (w.extractLsb' 16 8) (w.extractLsb' 8 8) (w.extractLsb' 0 8)
  | 0x23 => .sel (w.extractLsb' 24 3) (w.extractLsb' 16 8) (w.extractLsb' 8 8) (w.extractLsb' 0 8)
  | 0x24 => .sel (w.extractLsb' 24 3) (w.extractLsb' 16 8) (w.extractLsb' 8 8) (w.extractLsb' 0 8)
  | 0x25 => .sel (w.extractLsb' 24 3) (w.extractLsb' 16 8) (w.extractLsb' 8 8) (w.extractLsb' 0 8)
  | 0x26 => .sel (w.extractLsb' 24 3) (w.extractLsb' 16 8) (w.extractLsb' 8 8) (w.extractLsb' 0 8)
  | 0x30 => .div (w.extractLsb' 16 8) (w.extractLsb' 8 8) (w.extractLsb' 0 8)
  | 0x31 => .rcp (w.extractLsb' 16 8) (w.extractLsb' 8 8)
  | 0x32 => .rsq (w.extractLsb' 16 8) (w.extractLsb' 8 8)
  | 0x33 => .sqrt (w.extractLsb' 16 8) (w.extractLsb' 8 8)
  | 0x34 => .exp2 (w.extractLsb' 16 8) (w.extractLsb' 8 8)
  | 0x35 => .log2 (w.extractLsb' 16 8) (w.extractLsb' 8 8)
  | 0x36 => .sin (w.extractLsb' 16 8) (w.extractLsb' 8 8)
  | 0x37 => .cos (w.extractLsb' 16 8) (w.extractLsb' 8 8)
  | 0x38 => .rint (w.extractLsb' 16 8) (w.extractLsb' 8 8)
  | 0x39 => .classify (w.extractLsb' 16 8) (w.extractLsb' 8 8)
  | 0x3A => .scale (w.extractLsb' 16 8) (w.extractLsb' 8 8) (w.extractLsb' 0 8)
  | 0x40 => .and (w.extractLsb' 16 8) (w.extractLsb' 8 8) (w.extractLsb' 0 8)
  | 0x41 => .or (w.extractLsb' 16 8) (w.extractLsb' 8 8) (w.extractLsb' 0 8)
  | 0x42 => .xor (w.extractLsb' 16 8) (w.extractLsb' 8 8) (w.extractLsb' 0 8)
  | 0x43 => .not (w.extractLsb' 16 8) (w.extractLsb' 8 8)
  | 0x44 => .shl (w.extractLsb' 16 8) (w.extractLsb' 8 8) (w.extractLsb' 0 8)
  | 0x45 => .shr (w.extractLsb' 16 8) (w.extractLsb' 8 8) (w.extractLsb' 0 8)
  | 0x46 => .rot (w.extractLsb' 16 8) (w.extractLsb' 8 8) (w.extractLsb' 0 8)
  | 0x47 => .bfx (w.extractLsb' 16 8) (w.extractLsb' 8 8) (w.extractLsb' 0 8)
  | 0x48 => .bfi (w.extractLsb' 16 8) (w.extractLsb' 8 8) (w.extractLsb' 0 8)
  | 0x49 => .popc (w.extractLsb' 16 8) (w.extractLsb' 8 8)
  | 0x4A => .clz (w.extractLsb' 16 8) (w.extractLsb' 8 8)
  | 0x4B => .brev (w.extractLsb' 16 8) (w.extractLsb' 8 8)
  | 0x4C => .perm (w.extractLsb' 16 8) (w.extractLsb' 8 8) (w.extractLsb' 0 8)
  | 0x4D => .hash (w.extractLsb' 16 8) (w.extractLsb' 8 8) (w.extractLsb' 0 8)
  | 0x4E => .cvt (w.extractLsb' 16 8) (w.extractLsb' 8 8) (w.extractLsb' 7 1) (w.extractLsb' 5 2) (w.extractLsb' 0 5)
  | 0x50 => .shflPick (w.extractLsb' 16 8) (w.extractLsb' 8 8) (w.extractLsb' 0 8)
  | 0x51 => .shflLow (w.extractLsb' 16 8) (w.extractLsb' 8 8) (w.extractLsb' 0 8)
  | 0x52 => .shflHigh (w.extractLsb' 16 8) (w.extractLsb' 8 8) (w.extractLsb' 0 8)
  | 0x53 => .shflFlip (w.extractLsb' 16 8) (w.extractLsb' 8 8) (w.extractLsb' 0 8)
  | 0x54 => .voteAny (w.extractLsb' 16 3) (w.extractLsb' 11 1) (w.extractLsb' 8 3)
  | 0x55 => .voteAll (w.extractLsb' 16 3) (w.extractLsb' 11 1) (w.extractLsb' 8 3)
  | 0x56 => .voteBallot (w.extractLsb' 16 8) (w.extractLsb' 11 1) (w.extractLsb' 8 3)
  | 0x57 => .matchLanes (w.extractLsb' 16 8) (w.extractLsb' 8 8) (w.extractLsb' 3 1) (w.extractLsb' 0 3)
  | 0x58 => .redux (w.extractLsb' 16 8) (w.extractLsb' 8 8) (w.extractLsb' 0 3)
  | 0x59 => .scan (w.extractLsb' 16 8) (w.extractLsb' 8 8) (w.extractLsb' 7 1) (w.extractLsb' 0 3)
  | 0x5A => .elect (w.extractLsb' 16 3)
  | 0x5B => .kget (w.extractLsb' 16 8) (w.extractLsb' 8 8) (w.extractLsb' 0 1)
  | 0x5C => .sreg (w.extractLsb' 16 8) (w.extractLsb' 0 8)
  | 0x60 => .kadd (w.extractLsb' 16 8) (w.extractLsb' 8 8) (w.extractLsb' 0 8)
  | 0x61 => .ksub (w.extractLsb' 16 8) (w.extractLsb' 8 8) (w.extractLsb' 0 8)
  | 0x62 => .kmul (w.extractLsb' 16 8) (w.extractLsb' 8 8) (w.extractLsb' 0 8)
  | 0x63 => .kand (w.extractLsb' 16 8) (w.extractLsb' 8 8) (w.extractLsb' 0 8)
  | 0x64 => .kor (w.extractLsb' 16 8) (w.extractLsb' 8 8) (w.extractLsb' 0 8)
  | 0x65 => .kxor (w.extractLsb' 16 8) (w.extractLsb' 8 8) (w.extractLsb' 0 8)
  | 0x66 => .kshl (w.extractLsb' 16 8) (w.extractLsb' 8 8) (w.extractLsb' 0 8)
  | 0x67 => .kshr (w.extractLsb' 16 8) (w.extractLsb' 8 8) (w.extractLsb' 0 8)
  | 0x68 => .kmov (w.extractLsb' 16 8) (w.extractLsb' 8 8)
  | 0x69 => .kcmp (w.extractLsb' 20 4) (w.extractLsb' 16 3) (w.extractLsb' 8 8) (w.extractLsb' 0 8)
  | 0x6A => .ksel (w.extractLsb' 16 8) (w.extractLsb' 8 8) (w.extractLsb' 0 8)
  | 0x6B => .kld (w.extractLsb' 16 8) (w.extractLsb' 8 8) (w.extractLsb' 0 8)
  | 0x70 => .ld8 (w.extractLsb' 16 8) (w.extractLsb' 8 8) (w.extractLsb' 0 8)
  | 0x71 => .ld16 (w.extractLsb' 16 8) (w.extractLsb' 8 8) (w.extractLsb' 0 8)
  | 0x72 => .ld (w.extractLsb' 16 8) (w.extractLsb' 8 8) (w.extractLsb' 0 8)
  | 0x73 => .ldq (w.extractLsb' 16 8) (w.extractLsb' 8 8) (w.extractLsb' 0 8)
  | 0x74 => .st8 (w.extractLsb' 16 8) (w.extractLsb' 8 8) (w.extractLsb' 0 8)
  | 0x75 => .st16 (w.extractLsb' 16 8) (w.extractLsb' 8 8) (w.extractLsb' 0 8)
  | 0x76 => .st (w.extractLsb' 16 8) (w.extractLsb' 8 8) (w.extractLsb' 0 8)
  | 0x77 => .stq (w.extractLsb' 16 8) (w.extractLsb' 8 8) (w.extractLsb' 0 8)
  | 0x78 => .ldnc (w.extractLsb' 16 8) (w.extractLsb' 8 8) (w.extractLsb' 0 8)
  | 0x79 => .lda (w.extractLsb' 16 8) (w.extractLsb' 8 8) (w.extractLsb' 0 8)
  | 0x7A => .stl (w.extractLsb' 16 8) (w.extractLsb' 8 8) (w.extractLsb' 0 8)
  | 0x7B => .lds (w.extractLsb' 16 8) (w.extractLsb' 8 8) (w.extractLsb' 0 3)
  | 0x7C => .sts (w.extractLsb' 16 8) (w.extractLsb' 8 8) (w.extractLsb' 0 3)
  | 0x7D => .fence (w.extractLsb' 5 1) (w.extractLsb' 4 1) (w.extractLsb' 3 1) (w.extractLsb' 2 1) (w.extractLsb' 1 1) (w.extractLsb' 0 1)
  | 0x7E => .ifence
  | 0x7F => .pref (w.extractLsb' 16 2) (w.extractLsb' 8 8) (w.extractLsb' 0 8)
  | 0x80 => .atom (w.extractLsb' 16 8) (w.extractLsb' 8 8) (w.extractLsb' 0 3)
  | 0x81 => .red (w.extractLsb' 16 8) (w.extractLsb' 8 8) (w.extractLsb' 0 3)
  | 0x82 => .atoms (w.extractLsb' 16 8) (w.extractLsb' 8 8) (w.extractLsb' 0 3)
  | 0x83 => .mcas (w.extractLsb' 16 8) (w.extractLsb' 8 8) (w.extractLsb' 0 3)
  | 0x84 => .filldone
  | 0x85 => .fillfail (w.extractLsb' 0 16)
  | 0x90 => .cadd (w.extractLsb' 16 8) (w.extractLsb' 8 8) (w.extractLsb' 0 8)
  | 0x91 => .cwait (w.extractLsb' 16 8) (w.extractLsb' 8 8) (w.extractLsb' 0 8)
  | 0x92 => .bar (w.extractLsb' 8 8) (w.extractLsb' 0 3)
  | 0x93 => .gbar (w.extractLsb' 0 2)
  | 0x94 => .cpy (w.extractLsb' 8 8)
  | 0x95 => .cpyY (w.extractLsb' 8 8) (w.extractLsb' 0 8)
  | 0x96 => .getx (w.extractLsb' 8 8)
  | 0x97 => .putx (w.extractLsb' 8 8)
  | 0x98 => .rwr (w.extractLsb' 16 8) (w.extractLsb' 8 8) (w.extractLsb' 0 8)
  | 0x99 => .fetchw (w.extractLsb' 8 8)
  | 0x9A => .racq (w.extractLsb' 23 1) (w.extractLsb' 16 3) (w.extractLsb' 0 16)
  | 0x9B => .rrel (w.extractLsb' 0 16)
  | 0x9C => .tacq (w.extractLsb' 23 1) (w.extractLsb' 16 3) (w.extractLsb' 0 16)
  | 0x9D => .trel (w.extractLsb' 0 16)
  | 0x9E => .sysc (w.extractLsb' 16 8) (w.extractLsb' 8 8) (w.extractLsb' 0 8)
  | 0xA0 => .mma (w.extractLsb' 23 1) (w.extractLsb' 19 4) (w.extractLsb' 16 3) (w.extractLsb' 8 8) (w.extractLsb' 0 8)
  | 0xA1 => .mmas (w.extractLsb' 23 1) (w.extractLsb' 19 4) (w.extractLsb' 16 3) (w.extractLsb' 8 8) (w.extractLsb' 0 8)
  | 0xA2 => .mcommit (w.extractLsb' 16 8)
  | 0xA3 => .mdiscard (w.extractLsb' 16 8)
  | 0xA4 => .tld (w.extractLsb' 19 1) (w.extractLsb' 16 3) (w.extractLsb' 8 8) (w.extractLsb' 0 8)
  | 0xA5 => .tst (w.extractLsb' 19 1) (w.extractLsb' 16 3) (w.extractLsb' 8 8) (w.extractLsb' 0 8)
  | 0xA6 => .tzero (w.extractLsb' 16 8)
  | 0xA7 => .tcvt (w.extractLsb' 21 2) (w.extractLsb' 19 2) (w.extractLsb' 16 3) (w.extractLsb' 8 3) (w.extractLsb' 0 8)
  | 0xA8 => .tmov (w.extractLsb' 16 8) (w.extractLsb' 8 8) (w.extractLsb' 6 2) (w.extractLsb' 3 1) (w.extractLsb' 0 3)
  | 0xA9 => .tfill (w.extractLsb' 16 3) (w.extractLsb' 8 8) (w.extractLsb' 0 1)
  | 0xAA => .tldS (w.extractLsb' 19 1) (w.extractLsb' 16 3) (w.extractLsb' 8 8)
  | 0xAB => .tstS (w.extractLsb' 19 1) (w.extractLsb' 16 3) (w.extractLsb' 8 8)
  | 0xC0 => .tex (w.extractLsb' 16 8) (w.extractLsb' 8 8) (w.extractLsb' 0 8)
  | 0xC1 => .texn (w.extractLsb' 16 8) (w.extractLsb' 8 8) (w.extractLsb' 0 8)
  | 0xC2 => .texq (w.extractLsb' 16 8) (w.extractLsb' 8 8) (w.extractLsb' 0 8)
  | 0xC3 => .trace (w.extractLsb' 16 2) (w.extractLsb' 8 8) (w.extractLsb' 0 8)
  | 0xC4 => .trres (w.extractLsb' 16 8) (w.extractLsb' 8 2)
  | 0xC5 => .prim (w.extractLsb' 8 8)
  | 0xC6 => .attr (w.extractLsb' 16 8) (w.extractLsb' 15 1) (w.extractLsb' 13 2) (w.extractLsb' 8 5)
  | 0xC7 => .expf (w.extractLsb' 16 4) (w.extractLsb' 8 8) (w.extractLsb' 0 1)
  | 0xC8 => .kill
  | 0xD0 => .csrr (w.extractLsb' 16 8) (w.extractLsb' 0 16)
  | 0xD1 => .csrw (w.extractLsb' 16 8) (w.extractLsb' 0 16)
  | 0xD2 => .rett
  | 0xD3 => .tlbi (w.extractLsb' 8 8) (w.extractLsb' 0 8)
  | 0xD4 => .vget (w.extractLsb' 16 8) (w.extractLsb' 8 8) (w.extractLsb' 0 8)
  | 0xD5 => .vset (w.extractLsb' 16 8) (w.extractLsb' 8 8) (w.extractLsb' 0 8)
  | 0xD6 => .park
  | 0xD7 => .wake (w.extractLsb' 16 8) (w.extractLsb' 8 8)
  | 0xD8 => .upcall (w.extractLsb' 0 16)
  | _ => .illegalOp w

/-- The instruction a warp's decoder reads from a word: a word with OP 0x00, an unassigned opcode or a nonzero
reserved field is rejected by name (R76, R96). -/
def decode (w : Word) : Instr :=
  if legalWord w then decodeFields (w.extractLsb' 24 8).toNat w else .illegalOp w

/-- The instruction a service core's decoder reads from a custom-0 word (R348); none for every other word. -/
def decodePsv (w : Word) : Option Instr :=
  if w &&& 0xFE00707F = 0x0000000B then
    some (.psvSpawn (w.extractLsb' 7 5) (w.extractLsb' 15 5) (w.extractLsb' 20 5))
  else if w &&& 0xFE00707F = 0x0000100B then
    some (.psvCwait (w.extractLsb' 7 5) (w.extractLsb' 15 5) (w.extractLsb' 20 5))
  else none

/-- Whether a service core issues the instruction (R348). -/
def Instr.isPsv : Instr → Bool
  | .psvSpawn _ _ _ => true
  | .psvCwait _ _ _ => true
  | _ => false

/-- The word of an instruction, by the same encoding tables; an event has none. -/
def encode : Instr → Option Word
  | .nop => some (0x1000000#32)
  | .mode w => some (0x5#8 ++ w)
  | .guard g => some (0x600000#28 ++ g)
  | .bra o => some (0x7#8 ++ o)
  | .brx d a b => some (0x8#8 ++ d ++ a ++ b)
  | .call o => some (0x9#8 ++ o)
  | .ret => some (0xA000000#32)
  | .join o => some (0xB#8 ++ o)
  | .exit => some (0xC000000#32)
  | .yield => some (0xD000000#32)
  | .bkpt id => some (0xE00#16 ++ id)
  | .trap c => some (0xF00#16 ++ c)
  | .add d a b => some (0x10#8 ++ d ++ a ++ b)
  | .sub d a b => some (0x11#8 ++ d ++ a ++ b)
  | .mul d a b => some (0x12#8 ++ d ++ a ++ b)
  | .mulh d a b => some (0x13#8 ++ d ++ a ++ b)
  | .mac d a b => some (0x14#8 ++ d ++ a ++ b)
  | .min d a b => some (0x15#8 ++ d ++ a ++ b)
  | .max d a b => some (0x16#8 ++ d ++ a ++ b)
  | .abs d a => some (0x17#8 ++ d ++ a ++ 0x0#8)
  | .neg d a => some (0x18#8 ++ d ++ a ++ 0x0#8)
  | .cmp c n p a b => some (0x19#8 ++ c ++ n ++ p ++ a ++ b)
  | .dot4 d a b => some (0x1A#8 ++ d ++ a ++ b)
  | .addx d a b => some (0x1B#8 ++ d ++ a ++ b)
  | .sel n d a b => some (0x4#5 ++ n ++ d ++ a ++ b)
  | .div d a b => some (0x30#8 ++ d ++ a ++ b)
  | .rcp d a => some (0x31#8 ++ d ++ a ++ 0x0#8)
  | .rsq d a => some (0x32#8 ++ d ++ a ++ 0x0#8)
  | .sqrt d a => some (0x33#8 ++ d ++ a ++ 0x0#8)
  | .exp2 d a => some (0x34#8 ++ d ++ a ++ 0x0#8)
  | .log2 d a => some (0x35#8 ++ d ++ a ++ 0x0#8)
  | .sin d a => some (0x36#8 ++ d ++ a ++ 0x0#8)
  | .cos d a => some (0x37#8 ++ d ++ a ++ 0x0#8)
  | .rint d a => some (0x38#8 ++ d ++ a ++ 0x0#8)
  | .classify d a => some (0x39#8 ++ d ++ a ++ 0x0#8)
  | .scale d a b => some (0x3A#8 ++ d ++ a ++ b)
  | .and d a b => some (0x40#8 ++ d ++ a ++ b)
  | .or d a b => some (0x41#8 ++ d ++ a ++ b)
  | .xor d a b => some (0x42#8 ++ d ++ a ++ b)
  | .not d a => some (0x43#8 ++ d ++ a ++ 0x0#8)
  | .shl d a b => some (0x44#8 ++ d ++ a ++ b)
  | .shr d a b => some (0x45#8 ++ d ++ a ++ b)
  | .rot d a b => some (0x46#8 ++ d ++ a ++ b)
  | .bfx d a b => some (0x47#8 ++ d ++ a ++ b)
  | .bfi d a b => some (0x48#8 ++ d ++ a ++ b)
  | .popc d a => some (0x49#8 ++ d ++ a ++ 0x0#8)
  | .clz d a => some (0x4A#8 ++ d ++ a ++ 0x0#8)
  | .brev d a => some (0x4B#8 ++ d ++ a ++ 0x0#8)
  | .perm d a b => some (0x4C#8 ++ d ++ a ++ b)
  | .hash d a b => some (0x4D#8 ++ d ++ a ++ b)
  | .cvt d a r h t => some (0x4E#8 ++ d ++ a ++ r ++ h ++ t)
  | .shflPick d a b => some (0x50#8 ++ d ++ a ++ b)
  | .shflLow d a b => some (0x51#8 ++ d ++ a ++ b)
  | .shflHigh d a b => some (0x52#8 ++ d ++ a ++ b)
  | .shflFlip d a b => some (0x53#8 ++ d ++ a ++ b)
  | .voteAny p n q => some (0xA80#13 ++ p ++ 0x0#4 ++ n ++ q ++ 0x0#8)
  | .voteAll p n q => some (0xAA0#13 ++ p ++ 0x0#4 ++ n ++ q ++ 0x0#8)
  | .voteBallot d n q => some (0x56#8 ++ d ++ 0x0#4 ++ n ++ q ++ 0x0#8)
  | .matchLanes d a l p => some (0x57#8 ++ d ++ a ++ 0x0#4 ++ l ++ p)
  | .redux d a o => some (0x58#8 ++ d ++ a ++ 0x0#5 ++ o)
  | .scan d a e o => some (0x59#8 ++ d ++ a ++ e ++ 0x0#4 ++ o)
  | .elect p => some (0xB40#13 ++ p ++ 0x0#16)
  | .kget d a f => some (0x5B#8 ++ d ++ a ++ 0x0#7 ++ f)
  | .sreg d sel => some (0x5C#8 ++ d ++ 0x0#8 ++ sel)
  | .kadd d a b => some (0x60#8 ++ d ++ a ++ b)
  | .ksub d a b => some (0x61#8 ++ d ++ a ++ b)
  | .kmul d a b => some (0x62#8 ++ d ++ a ++ b)
  | .kand d a b => some (0x63#8 ++ d ++ a ++ b)
  | .kor d a b => some (0x64#8 ++ d ++ a ++ b)
  | .kxor d a b => some (0x65#8 ++ d ++ a ++ b)
  | .kshl d a b => some (0x66#8 ++ d ++ a ++ b)
  | .kshr d a b => some (0x67#8 ++ d ++ a ++ b)
  | .kmov d a => some (0x68#8 ++ d ++ a ++ 0x0#8)
  | .kcmp c p a b => some (0x69#8 ++ c ++ 0x0#1 ++ p ++ a ++ b)
  | .ksel d a b => some (0x6A#8 ++ d ++ a ++ b)
  | .kld d a b => some (0x6B#8 ++ d ++ a ++ b)
  | .ld8 d a b => some (0x70#8 ++ d ++ a ++ b)
  | .ld16 d a b => some (0x71#8 ++ d ++ a ++ b)
  | .ld d a b => some (0x72#8 ++ d ++ a ++ b)
  | .ldq d a b => some (0x73#8 ++ d ++ a ++ b)
  | .st8 d a b => some (0x74#8 ++ d ++ a ++ b)
  | .st16 d a b => some (0x75#8 ++ d ++ a ++ b)
  | .st d a b => some (0x76#8 ++ d ++ a ++ b)
  | .stq d a b => some (0x77#8 ++ d ++ a ++ b)
  | .ldnc d a b => some (0x78#8 ++ d ++ a ++ b)
  | .lda d a b => some (0x79#8 ++ d ++ a ++ b)
  | .stl d a b => some (0x7A#8 ++ d ++ a ++ b)
  | .lds d a z => some (0x7B#8 ++ d ++ a ++ 0x0#5 ++ z)
  | .sts d a z => some (0x7C#8 ++ d ++ a ++ 0x0#5 ++ z)
  | .fence t im sr gl rel acq => some (0x1F40000#26 ++ t ++ im ++ sr ++ gl ++ rel ++ acq)
  | .ifence => some (0x7E000000#32)
  | .pref l a b => some (0x1FC0#14 ++ l ++ a ++ b)
  | .atom d a o => some (0x80#8 ++ d ++ a ++ 0x0#5 ++ o)
  | .red d a o => some (0x81#8 ++ d ++ a ++ 0x0#5 ++ o)
  | .atoms d a o => some (0x82#8 ++ d ++ a ++ 0x0#5 ++ o)
  | .mcas d a p => some (0x83#8 ++ d ++ a ++ 0x0#5 ++ p)
  | .filldone => some (0x84000000#32)
  | .fillfail c => some (0x8500#16 ++ c)
  | .cadd d a b => some (0x90#8 ++ d ++ a ++ b)
  | .cwait d a b => some (0x91#8 ++ d ++ a ++ b)
  | .bar c n => some (0x9200#16 ++ c ++ 0x0#5 ++ n)
  | .gbar n => some (0x24C00000#30 ++ n)
  | .cpy a => some (0x9400#16 ++ a ++ 0x0#8)
  | .cpyY a b => some (0x9500#16 ++ a ++ b)
  | .getx a => some (0x9600#16 ++ a ++ 0x0#8)
  | .putx a => some (0x9700#16 ++ a ++ 0x0#8)
  | .rwr d a b => some (0x98#8 ++ d ++ a ++ b)
  | .fetchw a => some (0x9900#16 ++ a ++ 0x0#8)
  | .racq t p n => some (0x9A#8 ++ t ++ 0x0#4 ++ p ++ n)
  | .rrel n => some (0x9B00#16 ++ n)
  | .tacq t p n => some (0x9C#8 ++ t ++ 0x0#4 ++ p ++ n)
  | .trel n => some (0x9D00#16 ++ n)
  | .sysc d a b => some (0x9E#8 ++ d ++ a ++ b)
  | .mma c f t a b => some (0xA0#8 ++ c ++ f ++ t ++ a ++ b)
  | .mmas c f t a b => some (0xA1#8 ++ c ++ f ++ t ++ a ++ b)
  | .mcommit m => some (0xA2#8 ++ m ++ 0x0#16)
  | .mdiscard m => some (0xA3#8 ++ m ++ 0x0#16)
  | .tld c t a b => some (0xA40#12 ++ c ++ t ++ a ++ b)
  | .tst c t a b => some (0xA50#12 ++ c ++ t ++ a ++ b)
  | .tzero m => some (0xA6#8 ++ m ++ 0x0#16)
  | .tcvt f o d src b => some (0x14E#9 ++ f ++ o ++ d ++ 0x0#5 ++ src ++ b)
  | .tmov d a r t g => some (0xA8#8 ++ d ++ a ++ r ++ 0x0#2 ++ t ++ g)
  | .tfill t a c => some (0x1520#13 ++ t ++ a ++ 0x0#7 ++ c)
  | .tldS c t a => some (0xAA0#12 ++ c ++ t ++ a ++ 0x0#8)
  | .tstS c t a => some (0xAB0#12 ++ c ++ t ++ a ++ 0x0#8)
  | .tex d a b => some (0xC0#8 ++ d ++ a ++ b)
  | .texn d a b => some (0xC1#8 ++ d ++ a ++ b)
  | .texq d a b => some (0xC2#8 ++ d ++ a ++ b)
  | .trace q a b => some (0x30C0#14 ++ q ++ a ++ b)
  | .trres d q => some (0xC4#8 ++ d ++ 0x0#6 ++ q ++ 0x0#8)
  | .prim a => some (0xC500#16 ++ a ++ 0x0#8)
  | .attr d w interp n => some (0xC6#8 ++ d ++ w ++ interp ++ n ++ 0x0#8)
  | .expf t a n => some (0xC70#12 ++ t ++ a ++ 0x0#7 ++ n)
  | .kill => some (0xC8000000#32)
  | .csrr d c => some (0xD0#8 ++ d ++ c)
  | .csrw d c => some (0xD1#8 ++ d ++ c)
  | .rett => some (0xD2000000#32)
  | .tlbi a b => some (0xD300#16 ++ a ++ b)
  | .vget d a b => some (0xD4#8 ++ d ++ a ++ b)
  | .vset d a b => some (0xD5#8 ++ d ++ a ++ b)
  | .park => some (0xD6000000#32)
  | .wake d a => some (0xD7#8 ++ d ++ a ++ 0x0#8)
  | .upcall svc => some (0xD800#16 ++ svc)
  | .psvSpawn rd r1 r2 => some (0x0#7 ++ r2 ++ r1 ++ 0x0#3 ++ rd ++ 0xB#7)
  | .psvCwait rd r1 r2 => some (0x0#7 ++ r2 ++ r1 ++ 0x1#3 ++ rd ++ 0xB#7)
  | .latchChainForceOff _ => none
  | .loadDataReturn _ _ => none
  | .storeRegistration _ _ => none
  | .homeRequestService _ _ => none
  | .redPartialUpdate _ _ => none
  | .mcasLaneEvent _ _ => none
  | .generatorLaunch _ _ => none
  | .fillWaiterRetry _ _ => none
  | .pressureReclaim _ => none
  | .pageWalk _ _ _ => none
  | .translationMissResolve _ _ _ => none
  | .copyOnWrite _ _ _ _ => none
  | .watchWake _ _ => none
  | .watchPoll _ _ => none
  | .barTimeout _ _ _ _ => none
  | .copyEngineCopy _ => none
  | .copyCompletion _ => none
  | .transferSourceRead _ _ _ => none
  | .transferLanding _ _ _ _ => none
  | .transferConfirm _ => none
  | .peerTimeout _ _ => none
  | .peerPageAccess _ _ _ => none
  | .rwrLanding _ => none
  | .fetchwReply _ _ => none
  | .syscReply _ _ => none
  | .syscResubmit _ _ => none
  | .upcallReply _ => none
  | .textureResult _ => none
  | .rayTraversalEnd _ _ _ => none
  | .mmaCompletion _ => none
  | .tileMoveCompletion _ => none
  | .tilePortCompletion _ => none
  | .acquisitionGrant _ => none
  | .shadowGrant _ => none
  | .primitiveCommit _ => none
  | .binArenaReplay _ => none
  | .fragmentWarpLaunch _ _ _ => none
  | .fragmentRetire _ _ _ => none
  | .tailWake _ => none
  | .launchPacket _ => none
  | .twoStageLaunch _ => none
  | .prologueRepeat _ => none
  | .prologueGroupLimit _ => none
  | .signal _ => none
  | .wait _ => none
  | .waitMet _ => none
  | .writesignalStore _ => none
  | .writesignalSignal _ => none
  | .quantumExpiry _ => none
  | .frontEndWatchdog _ => none
  | .launchCompletion _ => none
  | .place _ => none
  | .placeReply _ => none
  | .hawthornTakeover => none
  | .preemptionRequest _ _ => none
  | .preemptStopped _ _ => none
  | .drainBoundExpiry _ _ => none
  | .workgroupSave _ _ _ => none
  | .workgroupFlush _ _ => none
  | .savedImageReplyWrite _ _ _ _ => none
  | .workgroupRestore _ _ => none
  | .debugRelease _ => none
  | .contextCreate _ _ _ _ => none
  | .memalloc _ _ _ => none
  | .memfree _ _ => none
  | .memprotect _ _ => none
  | .qsdeclare _ _ _ => none
  | .qsrearm _ => none
  | .qswithdraw _ => none
  | .qsevict _ => none
  | .link _ _ _ _ _ => none
  | .sharemap _ _ => none
  | .qcreate _ _ _ _ => none
  | .qdestroy _ => none
  | .socket _ _ => none
  | .bind _ _ => none
  | .connect _ _ => none
  | .listen _ _ => none
  | .accept _ _ => none
  | .send _ _ => none
  | .recv _ _ _ _ _ => none
  | .returnRange _ _ => none
  | .close _ => none
  | .sendLendEnd _ => none
  | .deviceRegisterWrite _ _ _ => none
  | .pwrcapWrite _ => none
  | .updctlGo _ _ => none
  | .updateReset => none
  | .captureCtlWrite _ _ => none
  | .captureSample _ _ _ => none
  | .windowEntryWrite _ _ _ => none
  | .hostApertureRead _ _ => none
  | .hostApertureWrite _ _ => none
  | .islandClockControl _ _ => none
  | .reset => none
  | .dramWipeDone _ => none
  | .getVersion => none
  | .getCapabilities => none
  | .negotiateAlgorithms _ _ => none
  | .getDigests => none
  | .getCertificate _ _ => none
  | .challenge _ => none
  | .getMeasurements _ => none
  | .lifeCycleChange _ _ _ => none
  | .i3cSensorRead _ => none
  | .illegalOp w => some w
  | .queueRestart _ => none
  | .linkTraining _ _ => none
  | .serviceCoreInterrupt _ _ => none

/-- Four little-endian bytes as a word (R10, R74). -/
def wordOfBytes (b0 b1 b2 b3 : Byte) : Word := b3 ++ b2 ++ b1 ++ b0

/-- The instruction at the head of a byte list, and the bytes behind it: the service cores' custom-0 words are told
from the warps' words by the opcode table, which gives the two apart. -/
def decodeBytes : List Byte → Option (Instr × List Byte)
  | b0 :: b1 :: b2 :: b3 :: rest =>
    match decodePsv (wordOfBytes b0 b1 b2 b3) with
    | some i => some (i, rest)
    | none => some (decode (wordOfBytes b0 b1 b2 b3), rest)
  | _ => none

/-- The instruction of a row of the opcode table, whose first byte is the least significant (R74). -/
def decodeTableWord (nbits w : Nat) : Option Instr :=
  let x := BitVec.ofNat 32 (if nbits < 32 then w % 2 ^ nbits else w)
  (decodeBytes [x.extractLsb' 0 8, x.extractLsb' 8 8, x.extractLsb' 16 8, x.extractLsb' 24 8]).map (·.1)

end Sys2Proof
end

