-- ==== Sys2Proof/Machine/Fetch.lean ====
section
/-! DEFINITION. Fetching an issue group: its words, prefixes, literal and repetition (R81–R86), and the faults of the
fetch (R357). -/

namespace Sys2Proof.Machine

/-- What fetching one word gives. -/
inductive WordFetch where
  | word (w : Word)
  | park (w : Wait)
  | trap (t : TrapInfo)
  | held
  | gone
deriving DecidableEq, Repr

/-- Whether a fetch from the home waits for a copy engine that owns its line (R185 step 2). -/
def State.fetchWaits (s : State) (place : Nat) : Bool :=
  !placePeer place && !s.hasWord (icOf s.warp.core) (placePa place / 4) && s.lineOwned (lineOf (placePa place))

/-- The word at a place, from the core's instruction cache or, with its line, from the home (R175, R287). A word of a
peer's page is a free value (log entry 14). -/
def State.fetchAt (s : State) (place : Nat) : State × Word :=
  let h := icOf s.warp.core
  let pa := placePa place
  if placePeer place then
    ({ s with freeCtr := s.freeCtr + 1 }, (Config.free s.freeCtr).setWidth 32)
  else if s.hasWord h (pa / 4) then (s, BitVec.ofNat 32 (s.copyRead h pa 4))
  else
    let s := s.mergeBytes pa 4
    let x := s.memRead pa 4
    (if s.inDram pa then s.install h (lineOf pa) else s, BitVec.ofNat 32 x)

/-- Fetches one word with access X (R357). -/
def State.fetchWord (s : State) (va : DWord) : State × WordFetch :=
  match s.pre va .x with
  | (s, .ok place) => if s.fetchWaits place then (s, .held) else match s.fetchAt place with
    | (s, w) => (s, .word w)
  | (s, .park w) => (s, .park w)
  | (s, .held) => (s, .held)
  | (s, .trap code _ aux) =>
    (s, .trap { code := code, mask := s.fragMask, addr := va, cause := if code = 0x20 then 6 else 0, aux := aux })
  | (s, .gone) => (s, .gone)

/-- What fetching a group gives: the group with the instruction it holds, before any step. -/
inductive GroupFetch where
  | ok (g : Group)
  | bad (g : Group)
  | park (w : Wait)
  | trap (t : TrapInfo)
  | held
  | gone
deriving DecidableEq, Repr

/-- Prefix payloads met so far. -/
structure Prefixes where
  lit : Option (BitVec 24)
  lith : Option (BitVec 24)
  rep : Option (BitVec 24)
deriving DecidableEq, Repr

/-- The literal of the prefixes (R83). -/
def Prefixes.literal (p : Prefixes) : Option DWord :=
  match p.lit, p.lith with
  | some lo, some hi => some ((hi ++ lo).signExtend 64)
  | some lo, none => some (lo.signExtend 64)
  | none, _ => none

/-- A group whose `n`-th byte begins its instruction word `w`. -/
def Group.close (g : Group) (n : Nat) (p : Prefixes) (w : Word) : Group :=
  { g with word := w, bytes := n + 4, lit := p.literal, rep := p.rep }

/-- Fetches the words of a group from its `n`-th byte on (R81, R82): a second prefix of one kind, or LITH without LIT,
makes the group bad. The words after a second prefix of one kind are not fetched (log entry 64). -/
def State.fetchFrom (s : State) (g : Group) : Nat → Nat → Prefixes → State × GroupFetch
  | 0, n, p => (s, .bad (g.close n p 0))
  | fuel + 1, n, p =>
    match s.fetchWord (g.pc + BitVec.ofNat 64 n) with
    | (s, .park w) => (s, .park w)
    | (s, .trap t) => (s, .trap t)
    | (s, .held) => (s, .held)
    | (s, .gone) => (s, .gone)
    | (s, .word w) =>
      let x : BitVec 24 := w.extractLsb' 0 24
      match (w.extractLsb' 24 8).toNat with
      | 2 => if p.lit.isSome then (s, .bad (g.close n p w)) else State.fetchFrom s g fuel (n + 4) { p with lit := some x }
      | 3 => if p.lith.isSome then (s, .bad (g.close n p w)) else State.fetchFrom s g fuel (n + 4) { p with lith := some x }
      | 4 => if p.rep.isSome then (s, .bad (g.close n p w)) else State.fetchFrom s g fuel (n + 4) { p with rep := some x }
      | _ => (s, if p.lith.isSome ∧ p.lit.isNone then .bad (g.close n p w) else .ok (g.close n p w))

/-- Fetches the group at the PC of `g`. -/
def State.fetchGroup (s : State) (g : Group) : State × GroupFetch :=
  s.fetchFrom g 4 0 { lit := none, lith := none, rep := none }

/-- The instruction word of repetition `i` (R84, R85). -/
def Group.stepped (g : Group) : Word :=
  let f (n : Nat) : BitVec 8 := BitVec.ofNat 8 (g.base n + g.repIx * g.step n)
  (g.word.extractLsb' 24 8) ++ f 0 ++ f 1 ++ f 2

/-- The instruction of a group: a word that is illegal before any step is illegal in every repetition (R88). -/
def Group.instr (g : Group) : Instr :=
  if legalWord g.word then decodeFields (g.word.extractLsb' 24 8).toNat g.stepped else .illegalOp g.word

/-- Whether a repeated group resumes past its last repetition (R87). -/
def Group.over (g : Group) : Bool :=
  match g.rep with
  | some p => decide (field p 18 6 < g.repIx)
  | none => false

end Sys2Proof.Machine
end

