-- ==== Sys2Proof/Machine/Memory.lean ====
section
/-! DEFINITION. The memory, atomic and fill instructions (R161, R164–R195) as they issue; their requests are served by
the events of Machine/MemEvents.lean. -/

namespace Sys2Proof.Machine

/-! Global loads. -/

/-- Registers and alignment of a D that moves `n` bytes (R165). -/
def regsOf (n : Nat) (wide : Bool) : Nat := if n = 16 then 4 else if wide then 2 else 1

/-- The fields of a global load: D is a v register or 0xF5 (R165). -/
def State.loadIns (s : State) (op n : Nat) (d a b : Code) : Ins :=
  { op := op, d := .opd d (if n = 16 then 1 else 0x11) (regsOf n s.wide) (regsOf n s.wide) false true, a := offsetF a, b := .memk b }

/-- A global load (R169): every active lane performs it (R171). -/
def State.loadGroup (s : State) (fl : LoadKind) (n : Nat) (d a b : Code) : Eff :=
  let va := s.memAddr a b
  let bad := misaligned s.active n va
  if bad ≠ 0 then .trap (misalignedTrap bad va)
  else if s.active ≠ 0 ∧ (s.slotsFull ∨ s.acquiring) then .hold
  else
    let kind : OpKind := .load fl n s.et.signed s.wide d
    let (s', lanes, faults) := s.openLanes s.active kind va
    s'.launchOp kind lanes faults []

/-- Bytes of an access of the element width (R165). -/
def State.widthBytes (s : State) : Nat := if s.wide then 8 else 4

def execLd8 (d a b : Code) (s : State) : Host.Outcome State Fault Refusal :=
  s.issue (s.loadIns 0x70 1 d a b) fun s => s.loadGroup .plain 1 d a b

def execLd16 (d a b : Code) (s : State) : Host.Outcome State Fault Refusal :=
  s.issue (s.loadIns 0x71 2 d a b) fun s => s.loadGroup .plain 2 d a b

def execLd (d a b : Code) (s : State) : Host.Outcome State Fault Refusal :=
  s.issue (s.loadIns 0x72 s.widthBytes d a b) fun s => s.loadGroup .plain s.widthBytes d a b

def execLdq (d a b : Code) (s : State) : Host.Outcome State Fault Refusal :=
  s.issue (s.loadIns 0x73 16 d a b) fun s => s.loadGroup .plain 16 d a b

/-- LDNC (R173). -/
def execLdnc (d a b : Code) (s : State) : Host.Outcome State Fault Refusal :=
  s.issue (s.loadIns 0x78 s.widthBytes d a b) fun s => s.loadGroup .nc s.widthBytes d a b

/-- LDA (R173). -/
def execLda (d a b : Code) (s : State) : Host.Outcome State Fault Refusal :=
  s.issue (s.loadIns 0x79 s.widthBytes d a b) fun s => s.loadGroup .acq s.widthBytes d a b

/-- KLD (R161), once per group whatever the guard selects. -/
def execKld (d a b : Code) (s : State) : Host.Outcome State Fault Refusal :=
  s.issue { op := 0x6B, d := .opd d 0x02 1 1 false true, a := .opd a 0x12 1 1 true false, b := .memk b } fun s =>
    let ea := s.memAddr a b 0
    if ea.toNat % 8 ≠ 0 then .trap { code := 0x09, mask := s.fragMask, addr := ea, cause := 0 }
    else if s.slotsFull ∨ s.acquiring then .hold
    else s.withPre ea 8 .r s.fragMask fun s place => .done (s.newOp (.kload d) [s.selfReq ea place] [])

/-! Global stores. -/

/-- The fields of a global store: data from any source but the literal; in solo mode D is an h or k register and A one
or 0xF5 (R165, R258). -/
def State.storeIns (s : State) (op n : Nat) (d a b : Code) : Ins :=
  { op := op
    d := .opd d (if n = 16 then 1 else if s.grp.solo then 2 else 0x37) (regsOf n s.wide) (regsOf n s.wide) true false
    a := if s.grp.solo then .opd a 0x12 1 1 true false else offsetF a
    b := .memk b }

/-- The data of a store's lanes, four words a lane. -/
def State.storeData (s : State) (m : Mask) (d : Code) (n : Nat) : SMap Word :=
  forLanes m (fun l t =>
    if n = 16 then (List.range 4).foldl (fun t j => wr t (4 * l + j) (rd s.warp.v ((d.toNat + j) * 64 + l))) t
    else
      let x := s.src d s.wide l
      wr (wr t (4 * l) (BitVec.ofNat 32 x)) (4 * l + 1) (BitVec.ofNat 32 (x / 2 ^ 32))) []

/-- Whether a store's lanes meet bytes of an earlier access of the warp that has not taken effect. -/
def State.storeMeetsLoad (s : State) (m : Mask) (n : Nat) (va : Nat → DWord) : Bool :=
  (lanesOf m).any fun l =>
    match s.translate s.asid (va l) .w s.sysReq s.ownBlock with
    | .ok place _ => s.loadsPending (va l).toNat (placePa place) n
    | _ => false

/-- A global store (R169, R171, R173). -/
def State.storeGroup (s : State) (release : Bool) (n : Nat) (d a b : Code) : Eff :=
  let va := s.memAddr a b
  let m := s.doers
  let bad := misaligned m n va
  if bad ≠ 0 then .trap (misalignedTrap bad va)
  else if m ≠ 0 ∧ (s.slotsFull ∨ (release ∧ s.releaseBusy) ∨ s.storeMeetsLoad m n va) then .hold
  else
    let (s', lanes, faults) := s.openLanes m (.store n release) va
    let data := s.storeData m d n
    (if release then s'.clearElig else s').launchStore (.store n release) lanes faults data [] []

def execSt8 (d a b : Code) (s : State) : Host.Outcome State Fault Refusal :=
  s.issue (s.storeIns 0x74 1 d a b) fun s => s.storeGroup false 1 d a b

def execSt16 (d a b : Code) (s : State) : Host.Outcome State Fault Refusal :=
  s.issue (s.storeIns 0x75 2 d a b) fun s => s.storeGroup false 2 d a b

def execSt (d a b : Code) (s : State) : Host.Outcome State Fault Refusal :=
  s.issue (s.storeIns 0x76 s.widthBytes d a b) fun s => s.storeGroup false s.widthBytes d a b

def execStq (d a b : Code) (s : State) : Host.Outcome State Fault Refusal :=
  s.issue (s.storeIns 0x77 16 d a b) fun s => s.storeGroup false 16 d a b

/-- STL (R173): a release and then a store. -/
def execStl (d a b : Code) (s : State) : Host.Outcome State Fault Refusal :=
  s.issue (s.storeIns 0x7A s.widthBytes d a b) fun s => s.storeGroup true s.widthBytes d a b

/-! Core SRAM. -/

/-- The bytes an SRAM SIZE selects (R164). -/
def State.sramBytes (s : State) (z : BitVec 3) : Nat :=
  match z.toNat with
  | 0 => 1
  | 1 => 2
  | 2 => s.widthBytes
  | _ => 16

/-- Where the workgroup's allocation begins in the table of SRAM bytes, and its size (R42). -/
def State.sramBase (s : State) : Nat := match s.wg with
  | some g => g.core * 2 ^ 19 + g.sramBase
  | none => 0
def State.sramSize (s : State) : Nat := match s.wg with
  | some g => g.sramSize
  | none => 0

/-- Lanes with a byte at or beyond the allocation's size (R42). -/
def State.sramOut (s : State) (m : Mask) (n : Nat) (off : Nat → Nat) : Mask :=
  maskIn m fun l => decide (s.sramSize < off l + n)

/-- Bytes of the allocation. -/
def State.sramRead (s : State) (off n : Nat) : Nat := leValue ((List.range n).map fun i => rd s.sram (s.sramBase + off + i))
def State.sramWrite (s : State) (off : Nat) (bs : List Byte) : State :=
  { s with sram := (List.range bs.length).foldl (fun t i => wr t (s.sramBase + off + i) (bs.getD i 0)) s.sram }

/-- MISALIGNED and then SRAM_RANGE for an SRAM access (R168). -/
def State.sramCheck (s : State) (m : Mask) (n : Nat) (off : Nat → Nat) : Option TrapInfo :=
  let va (l : Nat) : DWord := BitVec.ofNat 64 (off l)
  let bad := misaligned m n va
  let out := s.sramOut m n off
  if bad ≠ 0 then some (misalignedTrap bad va)
  else if out ≠ 0 then some { code := 0x0A, mask := out, addr := ((lowest out).map va).getD 0, cause := 0 }
  else none

/-! LDS, STS and ATOMS complete as they issue, but find a slot free for it (R193). -/

/-- LDS (R177). -/
def execLds (d a : Code) (z : BitVec 3) (s : State) : Host.Outcome State Fault Refusal :=
  let n := s.sramBytes z
  s.issue { op := 0x7B, d := .opd d (if n = 16 then 1 else 0x11) (regsOf n s.wide) (regsOf n s.wide) false true, a := offsetF a, b := .imm, bad := decide (4 ≤ z.toNat) }
    fun s =>
      match s.sramCheck s.active n (s.sramOffset a) with
      | some t => .trap t
      | none => if s.active ≠ 0 ∧ s.slotsFull then .hold else .done { s with warp := forLanes s.active (fun l w =>
          w.loadInto d l n s.et.signed s.wide (s.sramRead (s.sramOffset a l) n)) s.warp }

/-- STS (R177): the highest-numbered lane's byte remains (R172). -/
def execSts (d a : Code) (z : BitVec 3) (s : State) : Host.Outcome State Fault Refusal :=
  let n := s.sramBytes z
  s.issue { op := 0x7C, d := .opd d (if n = 16 then 1 else 0x37) (regsOf n s.wide) (regsOf n s.wide) true false, a := offsetF a, b := .imm, bad := decide (4 ≤ z.toNat) }
    fun s =>
      match s.sramCheck s.performers n (s.sramOffset a) with
      | some t => .trap t
      | none =>
        let data := s.storeData s.performers d n
        if s.performers ≠ 0 ∧ s.slotsFull then .hold else .done (forLanes s.performers (fun l t => t.sramWrite (s.sramOffset a l) (laneBytes data l n)) s)

/-! Atomics. -/

/-- The element types of an atomic operation (R180). -/
def atomType (o et : Nat) : Bool :=
  if et ≤ 3 then true
  else if et = 8 ∨ et = 9 then o ≤ 2 || 6 ≤ o
  else if et = 10 ∨ et = 11 then o ≤ 2 || 6 ≤ o
  else false

/-- The D field of ATOM and ATOMS (R181): read and written; CAS names the replacement too. -/
def State.atomD (s : State) (o : Nat) (d : Code) : Fld :=
  let p := if s.wide then 2 else 1
  if o = 7 then .opd d 1 (2 * p) (2 * p) true true else .opd d 0x11 p p true true

/-- The operands v and c' of an atomic's lanes: words 0–1 and 2–3 of each. -/
def State.atomData (s : State) (m : Mask) (o : Nat) (d : Code) : SMap Word :=
  let p := if s.wide then 2 else 1
  forLanes m (fun l t =>
    let v := s.src d s.wide l
    let c := if o = 7 then s.warp.getV (d.toNat + p) l s.wide else 0
    wr (wr (wr (wr t (4 * l) (BitVec.ofNat 32 v)) (4 * l + 1) (BitVec.ofNat 32 (v / 2 ^ 32)))
      (4 * l + 2) (BitVec.ofNat 32 c)) (4 * l + 3) (BitVec.ofNat 32 (c / 2 ^ 32))) []

/-- Where a lane of an MCAS stands once its entries have been translated (R188): parked on the first of them that parks. `aux`
then holds that entry's address, with a 1 above it. -/
def State.mcasPark (s : State) (asid : BitVec 16) (sys : Bool) (own leader : Option Nat) (l : LaneReq) :
    List McasEntry → State × LaneReq
  | [] => (s, l)
  | e :: es =>
    let at_ (st : Stage) : LaneReq := { l with stage := st, aux := BitVec.ofNat 128 (2 ^ 64 + e.addr.toNat) }
    match s.translateIn asid e.addr .rmw sys own with
    | (s, .ok _ _) => State.mcasPark s asid sys own leader l es
    | (s, .fault _ _ _) => (s, l)
    | (s, .miss) => (s, if s.missFull [e.addr.toNat / 4096] then l else at_ (.parkPage (e.addr.toNat / 4096)))
    | (s, .cow) => (s, if s.missFull [e.addr.toNat / 4096] then l else at_ (.parkPage (e.addr.toNat / 4096)))
    | (s, .fill leader') =>
      match s.touch asid e.addr leader' leader with
      | (s, .park) => (s, at_ (.parkFill leader'))
      | (s, .full) => (s, at_ (.retry leader'))
      | (s, .refused _) => (s, l)

/-- Whether a lane of an MCAS can look at its block as it issues: what comes before it has taken effect there, and no engine owns it. -/
def State.mcasSees (s : State) (l : LaneReq) : Bool :=
  let pa := placePa l.pa
  s.inOrder s.selfOp l.va.toNat pa 256 false && !s.clusterStoring s.warp.core pa 256 && !s.bytesOwned pa 256

/-- The lanes of an MCAS as they issue: each looks at the entries of its block, so that its fragment
waits with it where one of them parks (R169, R188; log entry 63). -/
def State.mcasLook (s : State) (lanes : List LaneReq) : State × List LaneReq :=
  let asid := s.asid
  let sys := s.sysReq
  let own := s.ownBlock
  let leader := s.ownLeader
  lanes.foldl (fun (r : State × List LaneReq) l =>
    let pa := placePa l.pa
    if l.live then
      let s := r.1.mergeBytes pa 256
      match mcasEntries l.va.toNat fun i => s.memByte (pa + i) with
      | none => (s, r.2 ++ [l])
      | some es => match s.mcasPark asid sys own leader l es with
        | (s, l) => (s, r.2 ++ [l])
    else (r.1, r.2 ++ [l])) (s, [])

/-- A global atomic's group: ATOM, RED and MCAS share its checks and requests. -/
def State.atomGroup (s : State) (kind : OpKind) (align : Nat) (a : Code) (data : SMap Word) : Eff :=
  let m := s.performers
  let va := s.addr64 a
  let bad := misaligned m align va
  if bad ≠ 0 then .trap (misalignedTrap bad va)
  else if m ≠ 0 ∧ (s.slotsFull ∨ s.acquiring) then .hold
  else
    let (s', lanes, faults) := s.clearElig.openLanes m kind va
    match kind with
    | .mcas _ _ =>
      if lanes.any fun l => l.live && !s'.mcasSees l then .hold
      else match s'.mcasLook lanes with
        | (s', lanes) => s'.launchOp kind lanes faults data
    | _ => s'.launchOp kind lanes faults data

/-- ATOM (R181). -/
def execAtom (d a : Code) (o : BitVec 3) (s : State) : Host.Outcome State Fault Refusal :=
  s.issue { op := 0x80, d := s.atomD o.toNat d, a := addr64F a true, b := .imm, bad := !atomType o.toNat (wmEtype s.wm) } fun s =>
    s.atomGroup (.atom o.toNat (wmEtype s.wm) d) s.widthBytes a (s.atomData s.performers o.toNat d)

/-- RED (R183). -/
def execRed (d a : Code) (o : BitVec 3) (s : State) : Host.Outcome State Fault Refusal :=
  s.issue { op := 0x81, d := .opd d 0x17 (if s.wide then 2 else 1) (if s.wide then 2 else 1) true false, a := addr64F a true, b := .imm, bad := decide (6 ≤ o.toNat) || !atomType o.toNat (wmEtype s.wm) } fun s =>
    s.atomGroup (.red o.toNat (wmEtype s.wm) (wmDet s.wm)) s.widthBytes a (s.atomData s.performers 0 d)

/-- The lanes of a group of atomic events in the order that a free choice gives them (R182; log entry 8). -/
def State.eventOrder (s : State) (m : Mask) : List Nat :=
  sortBy (Config.laneOrder s.freeCtr) (lanesOf m)

/-- ATOMS (R181): carried out in the banks at issue. -/
def execAtoms (d a : Code) (o : BitVec 3) (s : State) : Host.Outcome State Fault Refusal :=
  s.issue { op := 0x82, d := s.atomD o.toNat d, a := offsetF a, b := .imm, bad := !atomType o.toNat (wmEtype s.wm) } fun s =>
    let et := wmEtype s.wm
    let n := s.widthBytes
    match s.sramCheck s.performers n (s.sramOffset a) with
    | some t => .trap t
    | none =>
      if s.performers ≠ 0 ∧ s.slotsFull then .hold else
      let data := s.atomData s.performers o.toNat d
      let lane (t : State) (l : Nat) : State :=
        let off := s.sramOffset a l
        let old := t.sramRead off n
        let t := t.sramWrite off (leBytes n (atomOp o.toNat et old (laneV data l) (laneC data l)))
        { t with warp := t.warp.loadInto d l n false s.wide old }
      let t := (s.eventOrder s.performers).foldl lane s
      let s := s.clearElig
      .done { s with sram := t.sram, warp := { s.warp with v := t.warp.v }, freeCtr := s.freeCtr + 1 }

/-- MCAS (R188): the block's address is 256-byte aligned (R186); p is PRED. -/
def execMcas (d a : Code) (p : BitVec 3) (s : State) : Host.Outcome State Fault Refusal :=
  s.issue { op := 0x83, d := .opd d 0x11 1 1 false true, a := addr64F a true, b := .imm, preds := [p.toNat] } fun s =>
    s.atomGroup (.mcas d p.toNat) 256 a []

/-! Fences, prefetch and fills. -/

/-- FENCE (R174): t TILE, im IMAGE, sr SRAM, gl GLOBAL. The group is held until what REL waits for is done, until the
earlier reads that ACQ orders have returned (R271), and, with ACQ and IMAGE, until every write that happens before it can
be read at its home (R280). -/
def execFence (t im sr gl rel acq : BitVec 1) (s : State) : Host.Outcome State Fault Refusal :=
  s.issue { op := 0x7D, d := .resv, a := .resv, b := .imm, bad := (rel == 0 && acq == 0) || (t == 0 && im == 0 && sr == 0 && gl == 0) } fun s =>
    let uid := s.warp.uid
    let tiles := s.warpHas uid fun o => o.kind.tileMove
    if (gl = 1 ∧ rel = 1 ∧ s.releaseBusy) ∨ (im = 1 ∧ (s.pendingWrites uid ∨ acq = 1 ∧ s.afterBusy)) ∨ (t = 1 ∧ tiles) ∨
        (acq = 1 ∧ !s.readsBack uid) then .hold
    else
      let s := if rel = 1 then s.clearElig else s
      let s := if acq = 1 ∧ gl = 1 then s.acquireAt s.warp.core else s
      .done (if acq = 1 ∧ im = 1 then s.mapCopies fun c =>
        if c.holder = pathOf s.warp.core then { c with valid := 0 } else c else s)

/-- IFENCE (R175). -/
def execIfence (s : State) : Host.Outcome State Fault Refusal :=
  s.issue { op := 0x7E, d := .resv, a := .resv, b := .resv } fun s =>
    .done (s.mapCopies fun c => if c.holder = icOf s.warp.core then { c with valid := 0 } else c)

/-- PREF (R176): l is LEVEL; a line that cannot be brought is dropped, one of a block that is being filled by any warp
among them. -/
def execPref (l : BitVec 2) (a b : Code) (s : State) : Host.Outcome State Fault Refusal :=
  s.issue { op := 0x7F, d := .imm, a := offsetF a, b := .memk b, bad := l == 3 } fun s =>
    .done ((lanesOf s.active).foldl (fun t i =>
      match t.translate s.asid (s.memAddr a b i) .r s.sysReq none with
      | .ok place _ =>
        let line := lineOf (placePa place)
        let cl := clusterOf s.warp.core
        if placeCached place && !placePeer place && !(t.comm.any fun c => c.line == line) && !t.lineOwned line then
          if l = 0 then t.installLoad s.warp.core place
          else if l = 1 then t.installCluster cl (t.onWay cl) line
          else t
        else t
      | _ => t) s)

/-- FILLDONE (R192). -/
def execFilldone (s : State) : Host.Outcome State Fault Refusal :=
  s.issue { op := 0x84, d := .resv, a := .resv, b := .resv } fun s =>
    match s.fillOfWarp s.warp with
    | none => .trap { code := 0x0B, mask := s.active, addr := 0, cause := 0 }
    | some f =>
      if s.performers = 0 then .done s.clearElig
      else if s.pendingWrites s.warp.uid then .hold
      else .done { (s.clearElig.fillDone f.leader) with warp := { (s.clearElig.fillDone f.leader).warp with fillOpen := none } }

/-- FILLFAIL (R192). -/
def execFillfail (c : BitVec 16) (s : State) : Host.Outcome State Fault Refusal :=
  s.issue { op := 0x85, d := .resv, a := .imm, b := .imm, bad := decide (0xFFF0 ≤ c.toNat) } fun s =>
    match s.fillOfWarp s.warp with
    | none => .trap { code := 0x0B, mask := s.active, addr := 0, cause := 0 }
    | some _ =>
      if s.performers = 0 then .done s.clearElig
      else .done (s.clearElig.failOpen s.warp c.toNat)

end Sys2Proof.Machine
end

