-- ==== Sys2Proof/Machine/Control.lean ====
section
/-! DEFINITION. The control instructions (R105–R125, R255). -/

namespace Sys2Proof.Machine

/-- A control instruction without an operand. -/
def plainIns (op : Nat) : Ins := { op := op, d := .resv, a := .resv, b := .resv }

/-- A control instruction with a J24 field. -/
def j24Ins (op : Nat) : Ins := { op := op, d := .imm, a := .imm, b := .imm }

/-- NOP (R108). -/
def execNop (s : State) : Host.Outcome State Fault Refusal := s.issue (plainIns 0x01) fun s => .done s

/-- Writes WMODE of the fragment, or of the handler (R107, R258). -/
def State.setWm (s : State) (w : BitVec 24) : State :=
  match s.grp.solo, s.warp.solo with
  | true, some h => { s with warp := { s.warp with solo := some { h with wmode := w } } }
  | true, none => s
  | _, _ => { s with warp := { s.warp with frag := { s.warp.frag with wmode := w } } }

/-- MODE (R28, R107). -/
def execMode (w : BitVec 24) (s : State) : Host.Outcome State Fault Refusal :=
  s.issue { j24Ins 0x05 with bad := !wmLegal w } fun s => .done (s.setWm w)

/-- GUARD (R107). -/
def execGuard (g : BitVec 4) (s : State) : Host.Outcome State Fault Refusal :=
  s.issue { op := 0x06, d := .resv, a := .resv, b := .imm } fun s => .done (s.setWm (setField s.wm 0 4 g.toNat))

/-- The index of the partition of the warp that issues. -/
def Warp.partition (w : Warp) : Nat := 4 * w.core + w.slot / 16

/-- YIELD (R108). -/
def execYield (s : State) : Host.Outcome State Fault Refusal :=
  s.issue (plainIns 0x0D) fun s => .done { s with passed := SMap.insert s.warp.partition s.warp.uid s.passed }

/-- The address of the group after this one. -/
def State.nextPc (s : State) : DWord := s.grp.pc + BitVec.ofNat 64 s.grp.bytes

/-- The target of a J24 branch: its own word plus four times the field (R77). -/
def State.target (s : State) (o : BitVec 24) : DWord := s.nextPc - 4 + 4 * o.signExtend 64

/-- The lanes of the fragment go to their next addresses (R111); `opens` is the address of a join record. -/
def State.goTo (s : State) (next : Nat → DWord) (opens : Option DWord) : Eff :=
  match partsOf ((lanesOf s.fragMask).map fun l => (l, next l)) with
  | [(a, _)] => .jump s (BitVec.ofNat 64 a)
  | parts => .moved { s with warp := s.warp.split parts opens }

/-- The effect of BRA (R110). -/
def State.bra (s : State) (o : BitVec 24) : Eff :=
  if s.active = 0 then .done s
  else s.goTo (fun l => if s.active.getLsbD l then s.target o else s.nextPc) s.grp.join

def braIns : Ins := j24Ins 0x07

def execBra (o : BitVec 24) (s : State) : Host.Outcome State Fault Refusal := s.issue braIns fun s => s.bra o

/-- The fields of BRX (R116). -/
def brxIns (d a b : Code) : Ins :=
  { op := 0x08, d := .opd d 0x1A 1 1 true false, a := .opd a 0x3F 1 1 true false, b := .opd b 0x02 1 1 true false }

/-- The effect of BRX (R117). -/
def State.brx (s : State) (d a b : Code) : Eff :=
  let bound := s.src d false 0
  let base : DWord := rd s.warp.k (b.toNat - 0xC0) &&& ~~~3
  let out := maskIn s.active fun l => decide (bound ≤ s.src a false l)
  if out ≠ 0 then .trap { code := 0x0C, mask := out, addr := 0, cause := 0 }
  else if s.active = 0 then .done s
  else s.withReads s.active 4 (fun l => base + BitVec.ofNat 64 (4 * s.src a false l)) fun s xs =>
    s.goTo (fun l => match xs.find? (fun e => e.1 == l) with
      | some e => (base + (BitVec.ofNat 32 e.2).signExtend 64) &&& ~~~3
      | none => s.nextPc) s.grp.join

def execBrx (d a b : Code) (s : State) : Host.Outcome State Fault Refusal := s.issue (brxIns d a b) fun s => s.brx d a b

/-- The branch group of a join pair, checked and carried out as part of the pair (R113): no other group follows a
JOIN. Its BRX never reads a latch (R116); one that names a latch raises ILLEGAL_OPERAND (DEDUCED, log entry 70). -/
def State.pairBranch (s : State) : Eff :=
  let run (i : Ins) (eff : State → Eff) : Eff :=
    match s.gate i with
    | some t => .trap t
    | none => if s.scoreboard i then .hold else eff s
  match s.grp.instr with
  | .bra o => run braIns fun s => s.bra o
  | .brx d a b => run { brxIns d a b with bad := classBit a.toNat == clsLat } fun s => s.brx d a b
  | _ => .trap { code := 0x01, mask := s.active, addr := 0, cause := 0 }

/-- JOIN (R113): the pair is one group that begins at the JOIN. -/
def execJoin (o : BitVec 24) (s : State) : Host.Outcome State Fault Refusal :=
  s.issue (j24Ins 0x0B) fun s =>
    match s.fetchGroup { Group.empty with pc := s.nextPc } with
    | (s, .ok g) =>
      State.pairBranch { s with grp := { g with pc := s.grp.pc, bytes := s.grp.bytes + g.bytes, join := some (s.target o) } }
    | (_, .bad _) => .trap { code := 0x01, mask := s.active, addr := 0, cause := 0 }
    | (s, .park w) => .again s w s.fragMask
    | (_, .trap t) => .trap t
    | (_, .held) => .hold
    | (s, .gone) => .moved s

/-- Whether a load has still to write k47, which CALL and RET read (R44, R118). -/
def State.k47Pending (s : State) : Bool :=
  s.ops.any fun o => o.uid == s.warp.uid && o.pendingK false == some (0xC0 + 47)

def State.k47 (s : State) : DWord := rd s.warp.k 47

/-- A k47 that is not 16-byte aligned (R118). -/
def State.badStack (s : State) : Bool := !s.k47Pending && s.k47.toNat % 16 != 0

/-- CALL (R119). -/
def execCall (o : BitVec 24) (s : State) : Host.Outcome State Fault Refusal :=
  s.issue { j24Ins 0x09 with bad := s.badStack } fun s =>
    if s.k47Pending then .hold
    else if s.active = 0 then .done s
    else
      let va := s.k47 - 16
      let lane := (lowest s.active).getD 0
      s.withPre va 16 .w s.active fun s place =>
        if s.slotsFull || s.loadsPending va.toNat (placePa place) 16 then .hold
        else
          let word (i : Nat) (x : DWord) (t : SMap Word) : SMap Word :=
            wr (wr t (4 * lane + i) (x.setWidth 32)) (4 * lane + i + 1) ((x >>> 32).setWidth 32)
          let data := word 2 s.active (word 0 s.nextPc [])
          let s := (s.newOp (.store 16 false) [{ s.selfReq va place with lane := lane }] data).nearLanes s.nextOp fun _ => true
          let s := s.setK (BitVec.ofNat 8 (0xC0 + 47)) va
          s.goTo (fun l => if s.active.getLsbD l then s.target o else s.nextPc) (some s.nextPc)

/-- RET (R120). -/
def execRet (s : State) : Host.Outcome State Fault Refusal :=
  s.issue { plainIns 0x0A with bad := s.badStack } fun s =>
    if s.k47Pending then .hold
    else
      let va := s.k47
      s.withPre va 16 .r s.fragMask fun s place =>
        match s.peerTrap [(0, va, place)] (fun _ => s.fragMask), s.readNow va place 16 with
        | some t, _ => .trap t
        | none, none => .hold
        | none, some (s, x) =>
          if BitVec.ofNat 64 (x / 2 ^ 64) &&& s.warp.liveLanes ≠ s.fragMask then
            .trap { code := 0x0D, mask := s.fragMask, addr := 0, cause := 0 }
          else .jump (s.setK (BitVec.ofNat 8 (0xC0 + 47)) (va + 16)) (BitVec.ofNat 64 x)

/-- EXIT (R121). -/
def execExit (s : State) : Host.Outcome State Fault Refusal :=
  s.issue (plainIns 0x0C) fun s =>
    if s.active = 0 then .done s else .moved (s.advance.exitLanes s.warp.uid s.active)

/-- A debug stop of a warp (R124): ready fragments stop, an open chain at its latch-restart PC, a handler between its
groups; its fragment's entry says so too (R125). -/
def Warp.debugStop (w : Warp) : Warp :=
  let w : Warp := { w.forceOff with debug := true }
  let stop (h : Solo) : Solo := { h with debugStopped := true }
  let w : Warp := { w with solo := w.solo.map stop }
  w.setLive (w.live.map fun e => if e.2.state = .ready ∨ w.solo.any (fun h => h.entry == e.1) then (e.1, { e.2 with state := .debugStopped }) else e)

/-- BKPT (R123, R124): with the region's debug flag set it stops the whole warp. -/
def execBkpt (id : BitVec 16) (s : State) : Host.Outcome State Fault Refusal :=
  s.issue { op := 0x0E, d := .resv, a := .imm, b := .imm } fun s =>
    if s.active = 0 then .done s
    else if (s.region s.warp.launch).debug then .done { s with warp := s.warp.debugStop }
    else .trap { code := 0x11, mask := s.active, addr := id.setWidth 64, cause := 0 }

/-- TRAP (R255). -/
def execTrap (c : BitVec 16) (s : State) : Host.Outcome State Fault Refusal :=
  s.issue { op := 0x0F, d := .resv, a := .imm, b := .imm } fun s =>
    if s.active = 0 then .done s else .trap { code := 0x12, mask := s.active, addr := c.setWidth 64, cause := 0 }

/-- ILLEGAL_OP (R96): a word that is no instruction. -/
def execIllegalOp (_w : Word) (s : State) : Host.Outcome State Fault Refusal :=
  s.issue { plainIns 0 with ill := true } fun s => .done s

end Sys2Proof.Machine
end

