-- ==== Sys2Proof/Machine/MemEvents.lean ====
section
/-! DEFINITION. The events that serve the requests of memory operations: at the home (R185), at a peer (R429), on the
way back to the warp (R193), and after a park (R312). An event whose condition does not hold changes nothing. -/

namespace Sys2Proof.Machine

/-- The live lanes of a load group with one address: they read one value (R172). -/
def Op.twins (o : Op) (l : LaneReq) : List LaneReq := o.lanes.filter fun m => m.live && m.pa == l.pa

/-- Gives a load's twins their value. -/
def State.serveTwins (s : State) (o : Op) (l : LaneReq) (x : Nat) : State :=
  s.onOp o.id fun o => { o with lanes := o.lanes.map fun m => if m.live && m.pa == l.pa then m.to .served x else m }

/-- Gives one lane its value. -/
def State.serveLane (s : State) (o : Op) (l : LaneReq) (x : Nat) : State :=
  s.onOp o.id fun o => o.onLane l.lane fun m => m.to .served x

/-- A plain load of `n` bytes read at the home (R277). -/
def State.serveLoad (s : State) (o : Op) (l : LaneReq) (n : Nat) : State :=
  let pa := placePa l.pa
  let s := s.mergeBytes pa n
  ((s.dropStale (clusterOf o.core) pa n).installLoad o.core l.pa).serveTwins o l (s.memRead pa n)

/-- A load that reads the home and leaves no copy (R173). -/
def State.serveHomeLoad (s : State) (o : Op) (l : LaneReq) (n : Nat) : State :=
  let pa := placePa l.pa
  let s := s.mergeBytes pa n
  (s.dropStale (clusterOf o.core) pa n).serveTwins o l (s.memRead pa n)

/-- The elements of a row, kept with the operation, from a number that holds its bytes. -/
def State.keepRow (s : State) (o : Op) (l : LaneReq) (x : Nat) : State :=
  let row (t : SMap Word) : SMap Word := (l.elems o.kind).zipIdx.foldl (fun t e =>
    wr t (64 * (l.lane % 64) + e.1) (BitVec.ofNat 32 (x / 2 ^ (32 * e.2)))) t
  s.onOp o.id fun o => { o.onLane l.lane fun m => m.to .served 0 with data := row o.data }

/-- A row of a tile read from global memory (R232). -/
def State.serveRow (s : State) (o : Op) (l : LaneReq) : State :=
  let pa := placePa l.pa
  let n := l.bytes o.kind
  let s := s.mergeBytes pa n
  let x := s.memRead pa n
  let s := s.dropStale (clusterOf o.core) pa n
  ((List.range (lineOf (pa + n - 1) + 1 - lineOf pa)).foldl (fun s i => s.installLoad o.core (l.pa + 128 * i)) s).keepRow o l x

/-- ATOM at the home (R181). -/
def State.serveAtom (s : State) (o : Op) (l : LaneReq) (op et : Nat) : State :=
  let pa := placePa l.pa
  let n := atomBytes et
  let s := s.mergeBytes pa n
  let old := s.memRead pa n
  let s := s.homeWrite none pa (leBytes n (atomOp op et old (laneV o.data l.lane) (laneC o.data l.lane)))
  (s.dropOwn (clusterOf o.core) pa n).serveLane o l old

/-- CADD at the home (R201). -/
def State.serveCadd (s : State) (o : Op) (l : LaneReq) : State :=
  let pa := placePa l.pa
  let (s, old, sat) := s.counterAdd pa (laneV o.data l.lane)
  let s := (s.dropOwn (clusterOf o.core) pa 8).serveLane o l old
  if sat then s.opFault o 0x26 0 (laneBit l.lane) l.va 0 else s

/-- The request of a lane that waits for its home. -/
def State.request (s : State) (op lane : Nat) : Option (Op × LaneReq) :=
  match s.opOf op with
  | none => none
  | some o => match o.lane lane with
    | some l => if l.live && !o.waitsPart l then some (o, l) else none
    | none => none

/-- HOME_REQUEST_SERVICE (R185): a load, ATOM or CADD is served at the line's home. -/
def execHomeRequestService (op lane : Nat) (s : State) : Host.Outcome State Fault Refusal :=
  .next (match s.request op lane with
    | none => s
    | some (o, l) =>
      if !s.arrives o l || s.sliceBusy o l then s
      else match o.kind with
        | .load .plain n _ _ _ => s.serveLoad o l n
        | .load _ n _ _ _ => s.serveHomeLoad o l n
        | .kload _ => s.serveLoad o l 8
        | .tileLoad _ _ sram => if sram then s else s.serveRow o l
        | .atom p et _ => s.serveAtom o l p et
        | .cadd _ => s.serveCadd o l
        | _ => s)

/-- Whether a kind's served lanes return data to registers one by one. -/
def OpKind.returns : OpKind → Bool
  | .load _ _ _ _ _ => true
  | .kload _ => true
  | .atom _ _ _ => true
  | .cadd _ => true
  | _ => false

/-- What the caches of its core give a load (R267, R277): a plain one its bytes, an LDA those of words that the cluster
owns (R173). -/
def State.near (s : State) (o : Op) (l : LaneReq) : Option Nat :=
  let pa := placePa l.pa
  if placePeer l.pa then none
  else match o.kind with
    | .load .plain n _ _ _ => s.copyLoad o l.va.toNat l.pa n
    | .load .acq n _ _ _ =>
      if (wordsOf pa n).all fun wd => SMap.find wd s.owners == some (clusterOf o.core) then s.copyLoad o l.va.toNat l.pa n else none
    | .kload _ => s.copyLoad o l.va.toNat l.pa 8
    | .tileLoad _ _ false => s.copyLoad o l.va.toNat l.pa (l.bytes o.kind)
    | _ => none

/-- When the data of an LDNC lane returns, its cluster invalidates the copies of the words read that it does not own (R439). -/
def State.returnStale (s : State) (o : Op) (l : LaneReq) : State :=
  match o.kind with
  | .load .nc n _ _ _ => if placePeer l.pa then s else s.dropStale (clusterOf o.core) (placePa l.pa) n
  | _ => s

/-- LOAD_DATA_RETURN (R193): data served at the home reaches its registers, or is taken from a valid copy (R277), a row of a
tile to be written with its tile (R219). -/
def execLoadDataReturn (op lane : Nat) (s : State) : Host.Outcome State Fault Refusal :=
  .next (match s.opOf op with
    | none => s
    | some o => match o.lane lane with
      | none => s
      | some l =>
        if l.stage = .served ∧ o.kind.returns then ((s.returnStale o l).returnData o lane l.val.toNat).finishLane o lane
        else if !l.live || o.waitsPart l then s
        else match s.near o l with
          | none => s
          | some x =>
            let s := s.comesAfter o (s.storesSeen o.uid o.core (placePa l.pa) (l.bytes o.kind))
            if o.kind.tileMove then s.keepRow o l x
            else ((s.serveTwins o l x).returnData o lane x).finishLane o lane)

/-- A write of a warp registered at its home with its cluster as the owner of the words, where they can be cached
(R276). -/
def State.register (s : State) (o : Op) (lane place : Nat) (bs : List Byte) : State :=
  let cl := clusterOf o.core
  let pa := placePa place
  let s := s.homeWrite (if placeCached place then some cl else none) pa bs
  let s := s.onOp o.id fun o => o.onLane lane fun l => { l with stage := .done }
  (if placeCached place then s.refresh cl pa bs.length else s).finishLane o lane

/-- The write-back of a failed MCAS lane (R188): the EXPECT fields take the values it saw. -/
def State.mcasBack (s : State) (o : Op) (l : LaneReq) : State :=
  let cl := clusterOf o.core
  let s := s.onOp o.id fun o => o.onLane l.lane fun l => { l with stage := .done }
  ((l.carries o.kind o.data).foldl (fun s e =>
    let s := s.homeWrite (if placeCached l.pa then some cl else none) e.1 e.2
    if placeCached l.pa then s.refresh cl e.1 e.2.length else s) s).finishLane o l.lane

/-- STORE_REGISTRATION (R276). -/
def execStoreRegistration (op lane : Nat) (s : State) : Host.Outcome State Fault Refusal :=
  .next (match s.opOf op with
    | none => s
    | some o => match o.lane lane with
      | none => s
      | some l =>
        if !l.stores o.kind || !s.arrives o l || s.sliceBusy o l then s
        else match o.kind with
          | .mcas _ _ => s.mcasBack o l
          | _ => s.register o lane l.pa (o.storeBytes lane))

/-- RED_PARTIAL_UPDATE (R183): applied to the issuing die's partial copy, or at home for lines that never enter the
commutative-update state, for watched words (R203) and for floating-point RED with DET. -/
def execRedPartialUpdate (op lane : Nat) (s : State) : Host.Outcome State Fault Refusal :=
  .next (match s.request op lane with
    | none => s
    | some (o, l) => match o.kind with
      | .red p et det =>
        let pa := placePa l.pa
        let n := atomBytes et
        if !s.arrives o l || s.sliceBusy o l then s
        else
          let comm := placeCached l.pa && !(det && decide (8 ≤ et)) && !s.watched pa
          ((s.redApply (dieOf o.core) l.pa p et comm (laneV o.data lane)).dropOwn (clusterOf o.core) pa n).finishLane o lane
      | _ => s)

/-! MCAS. -/

/-- The result of a lane: D, the predicate and, after a failure, its write-back to come (R188). -/
def State.mcasResult (s : State) (o : Op) (l : LaneReq) (d : Code) (p : Nat) (es : List McasEntry) (obs : List Nat) : State :=
  let bad := (List.range es.length).filter fun i => (es[i]?.map (·.expect)) != obs[i]?
  let mask := bad.foldl (fun m i => m + 2 ^ i) 0
  let ok := bad.isEmpty
  let s := s.onWarp o.uid fun w =>
    (w.loadInto d l.lane 4 false false mask).setPred p (laneBit l.lane) (if ok then laneBit l.lane else 0)
  if ok then s.finishLane o l.lane
  else
    let keep (t : SMap Word) : SMap Word := (List.range es.length).foldl (fun t i =>
      let x := (obs[i]?).getD 0
      wr (wr t (4 * (8 * l.lane + i)) (BitVec.ofNat 32 x)) (4 * (8 * l.lane + i) + 1) (BitVec.ofNat 32 (x / 2 ^ 32))) t
    let s := s.onOp o.id fun o =>
      { (o.onLane l.lane fun m => { m with stage := .served, val := s.now, aux := BitVec.ofNat 128 es.length }) with data := keep o.data }
    s.nearLanes o.id fun m => m.lane == l.lane

/-- The event of an MCAS lane whose entries stand at `places` (R188): all its reads and writes at once. -/
def State.mcasEvent (s : State) (o : Op) (l : LaneReq) (d : Code) (p : Nat) (es : List McasEntry) (places : List Nat) : State :=
  let at_ := es.zip places
  let s := at_.foldl (fun s e => s.mergeBytes (placePa e.2) e.1.size) s
  let obs := at_.map fun e => s.memRead (placePa e.2) e.1.size
  let ok := es.map (·.expect) == obs
  let s := if ok then at_.foldl (fun s e =>
    (s.homeWrite none (placePa e.2) (leBytes e.1.size e.1.new)).dropOwn (clusterOf o.core) (placePa e.2) e.1.size) s
    else at_.foldl (fun s e => s.dropStale (clusterOf o.core) (placePa e.2) e.1.size) s
  s.mcasResult o l d p es obs

/-- A fault of one lane of an operation: posted, and the lane is over (R170), with both parts of its row (R232). A KLD has no lane of its
own: the record of its peer's denial names lane 0 (DESIGN CHOICE, log entry 74). -/
def State.laneFault (s : State) (o : Op) (l : LaneReq) (code cause : Nat) (addr aux : DWord) : State :=
  let s := (s.opFault o code cause (laneBit l.lane) addr aux).spoil o [l.lane]
  (o.lanes.filter fun m => m.lane % 64 == l.lane % 64).foldl (fun s m => s.finishLane o m.lane) s

/-- The fragment of a lane made to wait for an operation of which that lane has parked after its issue (R169). -/
def State.waitLate (s : State) (o : Op) (lane : Nat) : State :=
  s.onWarp o.uid fun w => w.live.foldl (fun w e =>
    if e.2.state = .ready ∧ e.2.mask.getLsbD (lane % 64) then
      w.onFrag e.1 fun f => { f with state := .waiting, wait := .late o.id }
    else w) w

/-- A lane of an MCAS parks on an entry's address (R188): its fragment waits until the operation is over (R169). -/
def State.parkEntry (s : State) (o : Op) (lane : Nat) (addr : DWord) (st : Stage) : State :=
  (s.onOp o.id fun o => o.onLane lane fun l => { l with stage := st, aux := BitVec.ofNat 128 (2 ^ 64 + addr.toNat) }).waitLate o lane

/-- An MCAS lane misses an entry's page: where the miss table is full it comes again (R302). -/
def State.missEntry (s : State) (o : Op) (l : LaneReq) (addr : DWord) : State :=
  let vpn := addr.toNat / 4096
  if s.tableFull (clusterOf o.core) o.asid [vpn] then s else s.parkEntry o l.lane addr (.parkPage vpn)

/-- The fill a warp has open, by its block and leader. -/
def State.ownOf (s : State) (uid : Nat) : Option Nat × Option Nat :=
  match s.findWarp uid with
  | some w => (w.fillOpen, (s.fillOfWarp w).map (·.leader))
  | none => (none, none)

/-- Translates an MCAS lane's entries (R188); at the end its event happens. `done` holds the places found so far. -/
def State.mcasLane (s : State) (o : Op) (l : LaneReq) (d : Code) (p : Nat) (all : List McasEntry) :
    List McasEntry → List Nat → State
  | [], places =>
    let busy := (all.zip places).any fun e =>
      s.bytesOwned (placePa e.2) e.1.size || !s.inOrder o e.1.addr.toNat (placePa e.2) e.1.size false
    if busy then s else s.mcasEvent o l d p all places
  | e :: es, places =>
    match s.translateIn o.asid e.addr .rmw o.sys (s.ownOf o.uid).1 with
    | (s, .ok place _) =>
      if placePeer place then s.laneFault o l 0x25 0 e.addr 0
      else State.mcasLane s o l d p all es (places ++ [place])
    | (s, .fault code cause aux) => s.laneFault o l code cause e.addr aux
    | (s, .miss) => s.missEntry o l e.addr
    | (s, .cow) => s.missEntry o l e.addr
    | (s, .fill leader) =>
      match s.touch o.asid e.addr leader (s.ownOf o.uid).2 with
      | (s, .park) => s.parkEntry o l.lane e.addr (.parkFill leader)
      | (s, .full) => s.parkEntry o l.lane e.addr (.retry leader)
      | (s, .refused _) => s

/-- The translation caches that serve an operation of a warp: those of its partition's memory pipe (R301). -/
def State.viaOp (s : State) (o : Op) : State :=
  match s.findWarp o.uid with
  | some w => { s with via := viaPartition w.core (w.slot / 16) }
  | none => s.viaCore o.core

/-- MCAS_LANE_EVENT (R188). Locks are held within the event (log entry 10). -/
def execMcasLaneEvent (op lane : Nat) (s : State) : Host.Outcome State Fault Refusal :=
  .next (match s.request op lane with
    | none => s
    | some (o, l) => match o.kind with
      | .mcas d p =>
        let pa := placePa l.pa
        if !s.arrives o l || s.sliceBusy o l then s
        else
          let s := s.mergeBytes pa 256
          (match mcasEntries l.va.toNat fun i => s.memByte (pa + i) with
            | none => s.laneFault o l 0x24 0 l.va 0
            | some es => (s.viaOp o).mcasLane o l d p es es [])
      | _ => s)

/-! Parks that end, and peers. -/

/-- One parked lane presents its access again; a store waits there until the earlier accesses of its warp to the bytes have
taken effect (R172, R286). -/
def State.retryLane (s : State) (o : Op) (l : LaneReq) : State :=
  let own := s.ownOf o.uid
  match s.openLane o.asid o.sys own.1 own.2 o.kind l.lane l.va with
  | (s, some q, _) =>
    if o.kind.plainStore && q.live && !s.inOrder o q.va.toNat (placePa q.pa) (l.bytes o.kind) true then s
    else if s.tableFull (clusterOf o.core) o.asid (missedPages [q]) then s
    else
      let row (m : LaneReq) : Bool := m.lane % 64 == l.lane % 64
      let s := s.onOp o.id fun p => p.onLane l.lane fun m => { m with stage := q.stage, pa := q.pa, aux := (match o.kind with
        | .mcas _ _ => 0
        | _ => m.aux) }
      let s := s.onOp o.id fun p => { p with lanes := p.lanes.map fun m => if row m && m.live then { m with val := s.now, since := s.clock } else m }
      s.nearLanes o.id row
  | (s, none, some f) => s.laneFault o l f.code f.cause f.va f.aux
  | (s, none, none) => s

/-- Whether a stage is a retry. -/
def Stage.isRetry : Stage → Bool
  | .retry _ => true
  | _ => false

/-- FILL_WAITER_RETRY (R312): the lanes of an operation whose park has ended present their accesses again, together. -/
def execFillWaiterRetry (op lane : Nat) (s : State) : Host.Outcome State Fault Refusal :=
  .next (match (s.opOf op).filter fun o => (s.findWarp o.uid).isSome with
    | none => s
    | some o =>
      if (o.lane lane).any fun l => l.stage.isRetry then
        (o.lanes.filter fun l => l.stage.isRetry).foldl (fun s l => s.retryLane o l) (s.viaOp o)
      else s)

/-- Whether an access to a peer's page has to wait: an earlier access of the warp is on its way to the same peer (R429), or an access
that comes before it, a parked one of its place among them, is on its way to the bytes (R172, R286); a write also for path reads. -/
def State.peerBefore (s : State) (o : Op) (l : LaneReq) : Bool :=
  ((s.ownEarlier o).any fun p => p.lanes.any fun m => m.live && placePeer m.pa && placeId m.pa == placeId l.pa) ||
  !s.inOrder o l.va.toNat (placePa l.pa) (l.bytes o.kind) false || (o.kind.writes && s.pathsBefore o)

/-- The data a peer sends (R429). -/
def State.peerData (s : State) (o : Op) (l : LaneReq) (bs : List Byte) : State :=
  match o.kind with
  | .load _ n _ _ _ => s.serveTwins o l (leValue (bs.take n))
  | .kload _ => s.serveTwins o l (leValue (bs.take 8))
  | .atom _ et _ => s.serveLane o l (leValue (bs.take (atomBytes et)))
  | .tileLoad _ _ false =>
    let row (t : SMap Word) : SMap Word := (l.elems o.kind).zipIdx.foldl (fun t e =>
      wr t (64 * (l.lane % 64) + e.1) (BitVec.ofNat 32 (leValue ((bs.drop (4 * e.2)).take 4)))) t
    s.onOp o.id fun o => { o.onLane l.lane fun m => m.to .served 0 with data := row o.data }
  | _ => s

/-- LATCH_CHAIN_FORCE_OFF (R91): a warp whose open chain has been held for more than 4 ck leaves its slot, and does not
issue before the held group can. -/
def execLatchChainForceOff (w : Nat) (s : State) : Host.Outcome State Fault Refusal :=
  .next (match s.findWarp w with
    | some x => match x.heldGrp with
      | some h => if x.chainOpen ∧ h.since + 4 < s.clock then
          s.onWarp w fun x => { x.forceOff with heldGrp := some { h with off := true } }
        else s
      | none => s
    | none => s)

end Sys2Proof.Machine
end

