-- ==== Sys2Proof/Machine/Paging.lean ====
section
/-! DEFINITION. Walks, the pages that Tregrim maps or copies on demand (R297, R300, R305), and the eviction of quickset
blocks (R315, R316). -/

namespace Sys2Proof.Machine

/-! Waiters on a page. -/

/-- What a copy or a ray that waits for a page is parked on; a leader entry's address is below 2^60. -/
def pageKey (vpn : Nat) : Nat := 2 ^ 60 + vpn

/-- Whether a fragment or handler waits for a page. -/
def Wait.onPage (w : Wait) (asid : BitVec 16) (vpn : Nat) : Option (DWord × Acc) :=
  match w with
  | .page a va acc => if a = asid ∧ va.toNat / 4096 = vpn then some (va, acc) else .none
  | _ => .none

/-- Moves an operation's lanes that are parked on a page to another stage. -/
def Op.unpage (o : Op) (vpn : Nat) (st : Stage) : Op :=
  let f (l : LaneReq) : LaneReq := if l.stage = .parkPage vpn then { l with stage := st } else l
  { o with lanes := o.lanes.map f }

/-- Whether an agent waits for a page. -/
def AgentWait.onPage (w : AgentWait) (asid : BitVec 16) (vpn : Nat) : Bool :=
  w.asid == asid && w.va.toNat / 4096 == vpn && w.leader.isNone && w.refused.isNone

/-- Every access parked on a page presents itself again (R297). -/
def State.releasePage (s : State) (asid : BitVec 16) (vpn : Nat) : State :=
  let s : State := { s with
    agentWaits := s.agentWaits.filter fun w => !w.onPage asid vpn
    ops := s.ops.map fun o => if o.asid = asid then o.unpage vpn (.retry 0) else o
    copyJobs := s.copyJobs.map fun j => if j.asid = asid ∧ j.parked = some (pageKey vpn) then { j with parked := none } else j }
  s.onWarps (fun w => s.asidOf w.launch == asid) fun w =>
    let ray (r : Nat × Ray) : Nat × Ray := if r.2.parked = some (pageKey vpn) then (r.1, { r.2 with parked := none }) else r
    let hand (h : Solo) : Solo := if (h.wait.onPage asid vpn).isSome then { h with wait := .none } else h
    let w : Warp := { w with rays := w.rays.map ray, solo := w.solo.map hand }
    w.live.foldl (fun w e => if e.2.state = .waiting ∧ (e.2.wait.onPage asid vpn).isSome then w.wakeFrag e.1 else w) w

/-- Ends the lanes of one operation parked on a page, one record for each address (R297, R358). -/
def State.declineOp : Nat → State → Op → Nat → State
  | 0, s, _, _ => s
  | n + 1, s, o, vpn =>
    match (s.opOf o.id).bind fun p => p.lanes.find? fun l => l.stage == .parkPage vpn with
    | none => s
    | some l =>
      let same (m : LaneReq) : Bool := m.stage == .parkPage vpn && m.waitsAt o.kind == l.waitsAt o.kind
      let mask := (o.lanes.filter same).foldl (fun m l => m ||| laneBit l.lane) 0
      let s := (s.opFault o 0x20 3 mask (l.waitsAt o.kind) 0).spoil o ((o.lanes.filter same).map (·.lane))
      let hit (m : LaneReq) : Bool := o.lanes.any fun x => same x && x.lane % 64 == m.lane % 64
      let s := s.onOp o.id fun o => { o with lanes := o.lanes.map fun m => if hit m then { m with stage := .done } else m }
      State.declineOp n (s.settle o.id) o vpn

/-- Tregrim declines a page: TRANSLATION with the cause "unmapped" for every access parked on it, those of front ends, transfers and
landings too, which take it when they come to their access again (R297); a fragment
that waits as a whole raises it when it issues again, with cause 6 for a fetch (R357); an UPCALL's names UPCALLMB (R402). -/
def State.declinePage (s : State) (asid : BitVec 16) (vpn : Nat) : State :=
  let s : State := { s with agentWaits := s.agentWaits.map fun w => if w.onPage asid vpn then { w with refused := some (0x20, 3, 0) } else w }
  let s := (s.ops.filter fun o => o.asid == asid).foldl (fun s o => State.declineOp 64 s o vpn) s
  let s := (s.copyJobs.filter fun j => j.asid == asid && j.parked == some (pageKey vpn)).foldl (fun s j => s.copyFault j 0x20 3) s
  (s.allWarps.filter fun w => s.asidOf w.launch == asid).foldl (fun s w =>
    let s := (w.rays.filter fun r => r.2.parked == some (pageKey vpn)).foldl (fun s r =>
      let s := s.rayFault r.2 (r.1 % 64) 0x20 3 r.2.addr 0
      let ray (x : Nat × Ray) : Nat × Ray := if x.1 = r.1 then (x.1, x.2.endFault) else x
      s.onWarp w.uid fun w => { w with rays := w.rays.map ray }) s
    s.onWarp w.uid fun w =>
      let ended (va : DWord) (acc : Acc) : Wait := .refused 0x20 (if acc = .x then 6 else 3) va 0
      let hand (h : Solo) : Solo := match h.wait.onPage asid vpn with
        | some (va, acc) => { h with wait := ended (if acc = .rmw then (s.region w.launch).upcallmb else va) acc }
        | none => h
      let w : Warp := { w with solo := w.solo.map hand }
      w.live.foldl (fun w e =>
        match e.2.state, e.2.wait.onPage asid vpn with
        | .waiting, some (va, acc) => (w.wakeFrag e.1).onFrag e.1 fun f => { f with wait := ended va acc, pmask := e.2.pmask }
        | _, _ => w) w) s

/-! Tregrim's writes of page-table entries. -/

/-- Writes entries with 8-byte stores (R303). -/
def State.writePlan (s : State) (plan : List (Nat × DWord)) : State :=
  plan.foldl (fun s e => s.homeWrite none e.1 (leBytes 8 e.2.toNat)) s

/-- The leaf that a walk finds. -/
def State.walkLeaf (s : State) (asid : BitVec 16) (va : Nat) : Option Leaf :=
  match s.walk asid va with
  | .leaf l => some l
  | _ => none

/-- The first frame of the page that a leaf maps. -/
def Leaf.frame (l : Leaf) : Nat := ePa l.entry / l.bytes * l.bytes

/-- Bytes of a table at a level (R292). -/
def tableBytes (level : Nat) : Nat := if level = 4 then 65536 else 4096

/-- The addresses of the valid entries of a table; it is looked at where it holds something. -/
def State.validEntries (s : State) (level table : Nat) : List Nat :=
  ((s.mem.filterMap fun e => if table ≤ e.1 ∧ e.1 < table + tableBytes level then some (e.1 / 8 * 8) else none).eraseDups).filter fun a => eV (s.memQ a)

/-- Whether a valid entry of a table at a level is a leaf. -/
def isLeaf (level : Nat) (e : DWord) : Bool := level == 1 || (bit e 7 && decide (level < 4))

/-- The valid leaves below a table, each with its address and whether a SHARED non-leaf names a table on its path. -/
def State.leavesFrom (s : State) : Nat → Nat → Nat → Bool → List (Nat × Leaf × Bool)
  | 0, _, _, _ => []
  | level + 1, table, va, shared =>
    (s.validEntries (level + 1) table).flatMap fun a =>
      let e := s.memQ a
      let va := va + (a - table) / 8 * 2 ^ (12 + 9 * level)
      if isLeaf (level + 1) e then [(va, ⟨e, a, level + 1⟩, shared)] else State.leavesFrom s level (ePa e) va (shared || eShared e)

/-- The tables from one on downwards: address, bytes, and whether a SHARED non-leaf names it or one above it (R307). -/
def State.tablesFrom (s : State) : Nat → Nat → Bool → List (Nat × Nat × Bool)
  | 0, _, _ => []
  | level + 1, table, shared =>
    (table, tableBytes (level + 1), shared) :: ((s.validEntries (level + 1) table).flatMap fun a =>
      let e := s.memQ a
      if isLeaf (level + 1) e then [] else State.tablesFrom s level (ePa e) (shared || eShared e))

/-- The valid leaves of a context. -/
def State.allLeaves (s : State) (asid : BitVec 16) : List (Nat × Leaf × Bool) := match s.rootOf asid with
  | some root => s.leavesFrom 4 root 0 false
  | none => []

/-- The page tables of a context. -/
def State.tablesOf (s : State) (asid : BitVec 16) : List (Nat × Nat × Bool) := match s.rootOf asid with
  | some root => s.tablesFrom 4 root false
  | none => []

/-- The leaves and the tables of the registered shared sets (R307). -/
def State.setLeaves (s : State) : List Leaf :=
  s.treg.sets.flatMap fun k => k.tables.flatMap fun t => (s.leavesFrom (k.level - 1) t 0 true).map fun e => e.2.1
def State.setTables (s : State) : List (Nat × Nat × Bool) :=
  s.treg.sets.flatMap fun k => k.tables.flatMap fun t => s.tablesFrom (k.level - 1) t true

/-- Whether Tregrim may write each entry of a plan for a context: aligned words of memory, none in a table of another context, in one
that a SHARED non-leaf names (R307) or in a QCB (R329). -/
def State.planOk (s : State) (asid : BitVec 16) (plan : List (Nat × DWord)) : Bool :=
  let barred := (s.ctxs.flatMap fun c => (s.tablesOf c.asid).filter fun t => c.asid != asid || t.2.2) ++ s.setTables ++
    (if s.qbase = 0 then [] else [(s.qbase.toNat, 2 ^ 18, false)])
  plan.all fun e => e.1 % 8 == 0 && s.inDram e.1 && barred.all fun t => !overlap e.1 8 t.1 t.2.1

/-- Whether a leaf gives [lo, lo + n) of this device's memory an address. -/
def Leaf.maps (l : Leaf) (lo n : Nat) : Bool := !ePeer l.entry && ePa l.entry != 0 && overlap l.frame l.bytes lo n

/-- Whether a leaf with USER set, of any context, maps a byte of [lo, lo + n). -/
def State.userMaps (s : State) (lo n : Nat) : Bool :=
  s.ctxs.any fun c => (s.allLeaves c.asid).any fun e => eUser e.2.1.entry && e.2.1.maps lo n

/-- Whether a leaf gives its context a page of its own (R288): not a peer's, not a registered set's, and no quickset page, whose
backing comes later (R310). -/
def Leaf.own (l : Leaf) : Bool := !ePeer l.entry && !eShared l.entry && !eQs l.entry

/-- A page that a leaf maps, zeroed when the leaf gives its context a page of its own (R288). -/
def State.freshPage (s : State) (l : Leaf) : State := if l.own then s.zeroRange l.frame l.bytes else s

/-- Whether memory in [lo, lo + n) stands in a quickset page pool, backs a fill, or holds a page table. -/
def State.inUse (s : State) (lo n : Nat) : Bool :=
  (s.pools.any fun e => e.2.any fun f => overlap lo n f (2 ^ 21)) || (s.fills.any fun f => f.backing.any fun b => overlap lo n b (2 ^ 21)) ||
  ((s.ctxs.flatMap fun c => s.tablesOf c.asid) ++ s.setTables).any fun t => overlap lo n t.1 t.2.1

/-- Whether Tregrim may give any context a leaf: its memory is ready (R410) and holds no QCB (R329). -/
def State.leafSound (s : State) (l : Leaf) : Bool :=
  ePeer l.entry || eQs l.entry || (s.dramReady (ePa l.entry) && !(s.qbase != 0 && l.maps s.qbase.toNat (2 ^ 18)))

/-- The leaves of a context that were not valid in `old`. -/
def State.newLeaves (s old : State) (asid : BitVec 16) : List (Nat × Leaf × Bool) :=
  let before := (old.allLeaves asid).map fun e => (e.1, e.2.1.at_)
  (s.allLeaves asid).filter fun e => !before.contains (e.1, e.2.1.at_)

/-- Whether two leaves are one page's (R295). -/
def Leaf.same (a b : Leaf) : Bool := a.bytes == b.bytes && (if a.bytes = 2 ^ 16 then a.at_ / 128 == b.at_ / 128 else a.at_ == b.at_)

/-- Whether a leaf of a context or of a shared set, other than `l` in context `asid`, maps a byte of a range. -/
def State.mappedBeside (s : State) (asid : BitVec 16) (l : Leaf) (lo n : Nat) : Bool :=
  (s.ctxs.any fun c => (s.allLeaves c.asid).any fun e => !(c.asid == asid && e.2.1.same l) && e.2.1.maps lo n) ||
  s.setLeaves.any fun k => k.maps lo n

/-- Whether a page that a leaf gives its context is one that nothing else uses (R288): only then is no earlier content of it left to
any. -/
def State.leafFresh (s : State) (asid : BitVec 16) (l : Leaf) : Bool :=
  !l.own || (!s.mappedBeside asid l l.frame l.bytes && !s.inUse l.frame l.bytes)

/-- Whether memory in [lo, lo + n) is in use, or has an address in some context. -/
def State.rangeUsed (s : State) (lo n : Nat) : Bool :=
  s.inUse lo n || (s.ctxs.any fun c => (s.allLeaves c.asid).any fun e => e.2.1.maps lo n) || s.setLeaves.any fun k => k.maps lo n

/-- Whether a frame can go into a quickset page pool (R310): ready memory that nothing else uses and that holds no QCB (R329, R410). -/
def State.frameFree (s : State) (f : Nat) : Bool :=
  let n := 2 ^ 21
  f % n == 0 && s.inDram f && s.dramReady f && !(s.qbase != 0 && overlap f n s.qbase.toNat (2 ^ 18)) && !s.rangeUsed f n

/-- Frames that Tregrim puts into the pools (R310). The pool's unit is the model's choice: a frame of 2 MiB for each block, whatever
its size, and the watermark counts frames (DESIGN CHOICE, log entry 76). -/
def State.stock (s : State) (frames : List Nat) : State :=
  frames.foldl (fun s f => if s.frameFree f then s.setPool (homeDie f) (s.pool (homeDie f) ++ [f]) else s) s

/-- A plan carried out for a context (R288, R303, R307): every leaf that it makes valid satisfies `ok`, and every page that such a leaf
gives the context is fresh. -/
def State.planned (s : State) (asid : BitVec 16) (plan : List (Nat × DWord)) (ok : Nat → Leaf → Bool → Bool) : Option State :=
  if s.planOk asid plan then
    let t := s.writePlan plan
    let new := t.newLeaves s asid
    if new.all fun e => t.leafSound e.2.1 && t.leafFresh asid e.2.1 && ok e.1 e.2.1 e.2.2 then some (new.foldl (fun t e => t.freshPage e.2.1) t) else none
  else none

/-- The live allocation that holds an address (R395). -/
def State.allocOf (s : State) (asid : BitVec 16) (va : Nat) : Option Alloc :=
  s.treg.allocs.find? fun a => a.asid == asid && decide (a.base.toNat ≤ va) && decide (va < a.base.toNat + a.bytes)

/-- Whether a leaf is what an allocation asked for (R395): page size, home and rights; W may stand as COW (R305). -/
def Alloc.allows (a : Alloc) (l : Leaf) : Bool :=
  l.bytes == 2 ^ a.pageLog2 && eHome l.entry == a.home && eHomeId l.entry == a.homeId && eUser l.entry && !eQs l.entry && !ePeer l.entry &&
  eR l.entry == a.rights.getLsbD 0 && (eW l.entry || eCow l.entry) == a.rights.getLsbD 1 && eX l.entry == a.rights.getLsbD 2

/-- Whether a leaf's home is one without pinned memory: what is pinned belongs to an allocation (R298). -/
def unpinned (l : Leaf) : Bool := eHome l.entry != 1 && eHome l.entry != 2

/-- A leaf that Tregrim may give an address on demand: what its allocation asks for. -/
def State.leafAllowed (s : State) (asid : BitVec 16) (va : Nat) (l : Leaf) : Bool :=
  !eQs l.entry && unpinned l && (s.allocOf asid va).all fun a => a.allows l

/-- Whether a page of a range is lent (R398). -/
def State.lent (s : State) (asid : BitVec 16) (lo hi : Nat) : Bool :=
  s.treg.lends.any fun l => l.asid == asid && l.vpns.any fun v => decide (lo ≤ v * 4096) && decide (v * 4096 < hi)

/-- PAGE_WALK (R300): a walker reads the tables, and the caches of the requester (`via`) take a leaf that passes, those of a
parked access as it replays; a page that is no longer a miss lets its accesses go. -/
def execPageWalk (asid : BitVec 16) (va : DWord) (acc : Acc) (s : State) : Host.Outcome State Fault Refusal :=
  .next (match s.translateIn asid va acc true none with
    | (t, .miss) => t
    | (t, .cow) => t
    | (t, _) => t.releasePage asid (va.toNat / 4096))

/-- TRANSLATION_MISS_RESOLVE (R297): Tregrim maps the page, and others with it where it chooses, by the entries of `plan`, all invalid
before, or declines. -/
def execTranslationMissResolve (asid : BitVec 16) (va : DWord) (plan : Option (List (Nat × DWord))) (s : State) :
    Host.Outcome State Fault Refusal :=
  .next (match s.walk asid va.toNat, plan with
    | .miss, none => s.declinePage asid (va.toNat / 4096)
    | .miss, some es =>
      if es.all fun e => !eV (s.memQ e.1) then
        (match s.planned asid es fun lo l shared => !shared && s.leafAllowed asid lo l with
          | some t => if (t.walkLeaf asid va.toNat).isSome then t.releasePage asid (va.toNat / 4096) else s
          | none => s)
      else s
    | _, _ => s)

/-- Whether an access of the machine that was translated into [lo, lo + n) has still to take effect (R263, R303). -/
def State.rangeBusy (s : State) (lo n : Nat) : Bool :=
  s.ops.any fun o => o.lanes.any fun l =>
    l.due o.kind && !placePeer l.pa && overlap (placePa l.pa) (Max.max (l.bytes o.kind) 1) lo n

/-- The entries of a leaf rewritten for a new frame: all sixteen of a 64 KiB page (R295). -/
def State.rewriteLeaf (s : State) (l : Leaf) (pa : Nat) (f : DWord → DWord) : State :=
  if l.bytes = 2 ^ 16 then
    (List.range 16).foldl (fun s i =>
      let a := l.at_ / 128 * 128 + 8 * i
      s.homeWrite none a (leBytes 8 (f (setField (s.memQ a) 12 36 (pa / 4096 + i))).toNat)) s
  else s.homeWrite none l.at_ (leBytes 8 (f (setField l.entry 12 36 (pa / 4096))).toNat)

/-- Merges the lines of a range that stand in commutative-update state (R183). -/
def State.mergeRange (s : State) (lo n : Nat) : State :=
  (s.comm.filter fun c => decide (lo ≤ c.line * 128) && decide (c.line * 128 < lo + n)).foldl (fun s c => s.mergeLine c.line) s

/-- Copies `n` bytes of memory from one page to another. -/
def State.copyPage (s : State) (src dst n : Nat) : State :=
  let s := (s.mergeRange src n).zeroRange dst n
  let old := s.mem.filter fun e => decide (src ≤ e.1) && decide (e.1 < src + n)
  { s with mem := old.foldl (fun m e => wr m (e.1 - src + dst) e.2) s.mem }

/-- A copy-on-write leaf made writable (R305 step 2). -/
def ownLeaf (e : DWord) : DWord := setBit (setBit (setBit e 3 true) 60 false) 59 false

/-- Whether Tregrim may resolve a page so (R305): a new frame is ready and mapped nowhere; without one no other mapping of the old
frame is left, and it is not lent (R398). -/
def State.cowFrameOk (s : State) (asid : BitVec 16) (va : Nat) (l : Leaf) (page : Option Nat) : Bool :=
  match page with
  | some new => new % l.bytes == 0 && s.inDram new && s.dramReady new && !overlap new l.bytes l.frame l.bytes && !s.mappedBeside asid l new l.bytes && !s.inUse new l.bytes &&
      !(s.qbase != 0 && overlap new l.bytes s.qbase.toNat (2 ^ 18))
  | none => !s.mappedBeside asid l l.frame l.bytes && !s.lent asid (va / l.bytes * l.bytes) (va / l.bytes * l.bytes + l.bytes)

/-- What a context's leaves map: tables copied for it change none of it. -/
def State.mapping (s : State) (asid : BitVec 16) : List (Nat × DWord) := (s.allLeaves asid).map fun e => (e.1, e.2.1.entry)

/-- Whether a leaf stands in a table of a context's own (R307). -/
def State.privateLeaf (s : State) (asid : BitVec 16) (l : Leaf) : Bool := (s.allLeaves asid).any fun e => e.2.1.at_ == l.at_ && !e.2.2

/-- COPY_ON_WRITE (R305): `plan` gives private copies of shared tables on the path, `page` the new frame, or none to
change the leaf in place. It happens once no access translated through the old leaf is outstanding. -/
def execCopyOnWrite (asid : BitVec 16) (va : DWord) (page : Option Nat) (plan : List (Nat × DWord)) (s : State) :
    Host.Outcome State Fault Refusal :=
  .next (match s.walkLeaf asid va.toNat with
    | none => s
    | some l0 =>
      let t := s.writePlan plan
      match t.walkLeaf asid va.toNat with
      | none => s
      | some l =>
        let new := page.getD l.frame
        if !s.planOk asid plan || t.mapping asid != s.mapping asid || !t.privateLeaf asid l || !eCow l0.entry || eW l0.entry ||
            !t.cowFrameOk asid va.toNat l page || s.rangeBusy l.frame l.bytes then s
        else
          let t := if new = l.frame then t else t.copyPage l.frame new l.bytes
          let t := t.rewriteLeaf l new ownLeaf
          let lo := va.toNat / l.bytes * l.bytes
          let t := t.shootRange asid lo (lo + l.bytes)
          (List.range (l.bytes / 4096)).foldl (fun t i => t.releasePage asid (lo / 4096 + i)) t)

/-! Eviction. -/

/-- The region and block of a leader entry. -/
def State.blockAt (s : State) (leader : Nat) : Option (QRegion × Nat) :=
  s.regions.findSome? fun r => (List.range (r.size / 2 ^ r.blkLog2)).findSome? fun i =>
    let b := r.base.toNat + i * 2 ^ r.blkLog2
    match (s.rootOf r.asid).map fun root => s.descend b 4 root with
    | some (.leaf l) => if l.at_ = leader then some (r, b) else none
    | _ => none

/-- Copies, ownership and commutative copies of a range are gone. -/
def State.dropBytes (s : State) (lo n : Nat) : State :=
  { (s.dropRange (fun _ => true) lo (lo + n)) with
    owners := s.owners.filter fun e => !(decide (lo ≤ e.1 * 4) && decide (e.1 * 4 < lo + n))
    comm := s.comm.filter fun c => !(decide (lo ≤ c.line * 128) && decide (c.line * 128 < lo + n)) }

/-- Evicts a FILLED block of region `r` at `b` (R315), once no translated access, engine or lock uses it. -/
def State.evict (s : State) (r : QRegion) (b leader : Nat) : State :=
  let frame := ePa (s.memQ leader)
  let n := 2 ^ r.blkLog2
  let engines := (List.range (n / 128)).any fun i => s.lineOwned (lineOf frame + i)
  if eFill (s.memQ leader) ≠ 2 ∨ s.rangeBusy frame n ∨ engines then s
  else
    let s := (s.writeLeaves r leader none).setFill leader 0 none
    let s := (s.shootRange r.asid b (b + n)).dropBytes frame n
    { (s.setPool (homeDie leader) (s.pool (homeDie leader) ++ [frame])) with
      filledOrder := s.filledOrder.filter (· != leader) }

/-- PRESSURE_RECLAIM (R316): Tregrim may set the die's watermark; while the die reclaims, the least recently filled block of a region
with RECLAIM is evicted. -/
def execPressureReclaim (r : Reclaim) (s : State) : Host.Outcome State Fault Refusal :=
  let die := r.die
  let s : State := match r.mark with
    | some m => { s with watermark := SMap.put 0 s.watermark die m }
    | none => s
  let s := s.noteReclaim die
  .next (if !s.reclaiming.contains die then s
    else
      let found := s.filledOrder.findSome? fun leader =>
        if homeDie leader = die then
          (s.blockAt leader).bind fun rb => if rb.1.reclaim then some (rb.1, rb.2, leader) else none
        else none
      match found with
      | some (r, b, leader) => (s.evict r b leader).noteReclaim die
      | none => s)

end Sys2Proof.Machine
end

