-- ==== Sys2Proof/Machine/Path.lean ====
section
/-! DEFINITION. Reads through the path caches of the texture, neural-material and traversal units (R240, R285), and the
handles of their descriptors. -/

namespace Sys2Proof.Machine

/-- Why a path read gives no data: an engine owns the line, the block or page is not there yet, the edge of a fill was
refused, or a fault. -/
inductive PathStop where
  | busy
  | park (st : Stage) (va : DWord)
  | gone
  | fault (code cause : Nat) (va aux : DWord)
deriving DecidableEq, Repr

/-- Path reads give their bytes or stop. -/
inductive PathRead (α : Type) where
  | ok (x : α)
  | stop (p : PathStop)
deriving DecidableEq, Repr

/-- Bytes of one page at a place: from the core's path cache or, with its lines, from the home (R285). -/
def State.pathAt (s : State) (core place n : Nat) : State × List Byte :=
  let h := pathOf core
  let pa := placePa place
  if s.hasBytes h pa n then (s, (List.range n).map fun i => s.copyByte h (pa + i))
  else
    let s := s.mergeBytes pa n
    let s := if placeCached place && s.inDram pa then
        (List.range (lineOf (pa + n - 1) + 1 - lineOf pa)).foldl (fun s i => s.install h (lineOf pa + i)) s
      else s
    (s, (List.range n).map fun i => if s.hasWord h ((pa + i) / 4) then s.copyByte h (pa + i) else s.memByte (pa + i))

/-- What a peer answers to a path read (R429): its data, or a refusal; which is a free value (log entry 14). A context without a
credential asks no peer (R423). -/
def State.peerPath (s : State) (o : Op) (va : DWord) (place n : Nat) : State × PathRead (List Byte) :=
  let answer := if s.credOf o.asid = 0 then 1 else s.freeValue.toNat % 3
  let s : State := { s with freeCtr := s.freeCtr + 1 }
  match answer with
  | 0 => ({ s with freeCtr := s.freeCtr + n }, .ok (s.freeBytes n))
  | 1 => (s, .stop (.fault 0x2A 0 va (BitVec.ofNat 64 (placeId place))))
  | _ => (s, .stop (.fault 0x2B 0 va (BitVec.ofNat 64 (placeId place))))

/-- Bytes of one page at an address of an operation's warp; a miss that finds the cluster's miss table full comes again (R302). -/
def State.pathPiece (s : State) (o : Op) (va : DWord) (n : Nat) : State × PathRead (List Byte) :=
  let own := s.ownOf o.uid
  let vpn := va.toNat / 4096
  let miss (s : State) : State × PathRead (List Byte) :=
    (s, .stop (if s.tableFull (clusterOf o.core) o.asid [vpn] then .busy else .park (.parkPage vpn) va))
  match (s.viaCore o.core).translateIn o.asid va .r o.sys own.1 with
  | (s, .ok place _) =>
    if placePeer place then s.peerPath o va place n
    else if s.bytesOwned (placePa place) n then (s, .stop .busy)
    else match s.pathAt o.core place n with
      | (s, bs) => (s, .ok bs)
  | (s, .fault code cause aux) => (s, .stop (.fault code cause va aux))
  | (s, .miss) => miss s
  | (s, .cow) => miss s
  | (s, .fill leader) =>
    match s.touch o.asid va leader own.2 with
    | (s, .park) => (s, .stop (.park (.parkFill leader) va))
    | (s, .full) => (s, .stop (.park (.retry leader) va))
    | (s, .refused _) => (s, .stop .gone)

/-- `n` bytes at an address, which may lie in two pages. -/
def State.pathRead (s : State) (o : Op) (va : DWord) (n : Nat) : State × PathRead (List Byte) :=
  let k := 4096 - va.toNat % 4096
  if n ≤ k then s.pathPiece o va n
  else match s.pathPiece o va k with
    | (s, .stop p) => (s, .stop p)
    | (s, .ok a) => match s.pathPiece o (va + BitVec.ofNat 64 k) (n - k) with
      | (s, .stop p) => (s, .stop p)
      | (s, .ok b) => (s, .ok (a ++ b))

/-- Several path reads in order, each as a number; the first that stops stops them all. -/
def State.pathReads (s : State) (o : Op) : List (DWord × Nat) → State × PathRead (List Nat)
  | [] => (s, .ok [])
  | (va, n) :: rest =>
    match s.pathRead o va n with
    | (s, .stop p) => (s, .stop p)
    | (s, .ok bs) => match State.pathReads s o rest with
      | (s, .stop p) => (s, .stop p)
      | (s, .ok xs) => (s, .ok (leValue bs :: xs))

/-- A handle's field (R240). -/
def handleF (c : Code) : Fld := .opd c 3 2 2 true false

/-- The handle of a group and the trap it raises (R240): lanes whose value differs from the lowest active lane's, then
a misaligned descriptor. -/
def State.handle (s : State) (c : Code) (align : Nat) : DWord × Option TrapInfo :=
  let at_ (l : Nat) : DWord := BitVec.ofNat 64 (s.src c true l)
  let h := at_ ((lowest s.active).getD 0)
  let bad := maskIn s.active fun l => at_ l != h
  if s.active = 0 then (h, none)
  else if bad ≠ 0 then (h, some { code := 0x08, mask := bad, addr := 0, cause := 0 })
  else if h.toNat % align ≠ 0 then (h, some { code := 0x09, mask := s.active, addr := h, cause := 0 })
  else (h, none)

/-- Registers of every lane of a mask, `n` words a lane. -/
def Warp.capture (w : Warp) (m : Mask) (c : Code) (n : Nat) : SMap Word :=
  forLanes m (fun l t => (List.range n).foldl (fun t r => wr t (n * l + r) (rd w.v ((c.toNat + r) * 64 + l))) t) []

/-- A lane of an operation parks at an address (R169). -/
def State.parkLane (s : State) (o : Op) (lane : Nat) (st : Stage) (va : DWord) : State :=
  (s.onOp o.id fun o => o.onLane lane fun l => { l with stage := st, va := va }).waitLate o lane

/-- A path read of a lane of an operation that stops: the lane parks, or posts its fault and ends. -/
def State.laneStop (s : State) (o : Op) (l : LaneReq) (p : PathStop) : State :=
  match p with
  | .busy => s
  | .gone => s
  | .park st va => s.parkLane o l.lane st va
  | .fault code cause va aux => s.laneFault o l code cause va aux

end Sys2Proof.Machine
end

