-- ==== Sys2Proof/Machine/Regions.lean ====
section
/-! DEFINITION. Region control blocks (R321, R322, R324), what launches hold of a core and of their budgets (R16, R22,
R178, R323). -/

namespace Sys2Proof.Machine

/-- `n` bytes of an RCB's page, as a home load of the hardware reads them: a line in commutative-update state is read merged (R183). -/
def State.readSpace (s : State) (space : Option (BitVec 16)) (va n : Nat) : Option (List Byte) :=
  (s.reachAs space va .r true).map fun pa =>
    let t := s.mergeBytes pa n
    (List.range n).map fun i => t.memByte (pa + i)

/-- A little-endian field of a record. -/
def recField (bs : List Byte) (off n : Nat) : Nat := leValue ((bs.drop off).take n)

/-- Whether the bytes [lo, hi) of a record are zero. -/
def recZero (bs : List Byte) (lo hi : Nat) : Bool := ((bs.drop lo).take (hi - lo)).all (· == 0)

/-- OVR bit `n` of an RCB. -/
def rcbOvr (bs : List Byte) (n : Nat) : Bool := (recField bs 20 4).testBit n

/-- The fields of an RCB (R321, R322): reserved ones zero, and those of the items it gives in range. -/
def rcbOk (bs : List Byte) (root userPage : Bool) : Bool :=
  let f := recField bs
  let given (n : Nat) (ok : Bool) : Bool := !rcbOvr bs n || ok
  recZero bs 18 20 && f 20 4 / 2 ^ 15 == 0 && recZero bs 30 32 && f 37 1 / 8 == 0 && f 39 1 / 8 == 0 &&
  f 76 1 / 4 == 0 && recZero bs 77 80 && recZero bs 84 256 &&
  (if root then f 20 4 % 2 ^ 15 == 2 ^ 15 - 1 else recZero bs 8 18) &&
  given 0 (decide (f 24 2 ≤ 12288)) && given 1 (decide (f 26 2 ≤ 24576)) && given 2 (decide (f 28 2 ≤ 6144)) &&
  given 3 (decide (f 32 4 ≤ 73728)) && given 6 (decide (f 38 1 ≤ 2)) &&
  given 7 (f 39 1 % 8 != 0 && decide (f 40 2 ≤ 1000) && decide (f 42 2 ≤ 1000)) && given 8 (f 48 8 % 4 == 0) &&
  given 13 (!((f 76 1).testBit 1 && userPage))

/-- Whether a page of a context has USER set. -/
def State.userPage (s : State) (asid : BitVec 16) (va : Nat) : Bool :=
  match s.lookup asid va with
  | .leaf l => eUser l.entry
  | _ => false

/-- The RCBs from one to its root (R322): at most `fuel`; none where the path is malformed. -/
def State.rcbPath (s : State) (asid : BitVec 16) : Nat → Nat → Option (List (DWord × List Byte))
  | 0, _ => none
  | fuel + 1, va =>
    if va % 256 ≠ 0 then none
    else match s.readSpace (some asid) va 256 with
      | none => none
      | some bs =>
        let parent := recField bs 0 8
        if !rcbOk bs (parent == 0) (s.userPage asid va) then none
        else if parent = 0 then some [(BitVec.ofNat 64 va, bs)]
        else (State.rcbPath s asid fuel parent).map fun p => (BitVec.ofNat 64 va, bs) :: p

/-- The effective value of an item at the head of a path (R322). -/
def effective (path : List (DWord × List Byte)) (item off n : Nat) : Nat :=
  match path.find? (fun r => rcbOvr r.2 item) with
  | some r => recField r.2 off n
  | none => 0

/-- The effective items at the head of a path. -/
def itemsAt (path : List (DWord × List Byte)) : RegionItems where
  rcb := (path.head?.map (·.1)).getD 0
  warps := effective path 0 24 2
  rblk := effective path 1 26 2
  tileb := effective path 2 28 2
  sramKib := effective path 3 32 4
  mshare := effective path 4 36 1
  prio := effective path 5 37 1
  fdom := effective path 6 38 1
  pmeth := effective path 7 39 1
  drainpm := effective path 7 40 2
  flushpm := effective path 7 42 2
  pbound := effective path 7 44 4
  trapvec := BitVec.ofNat 64 (effective path 8 48 8)
  upcallmb := BitVec.ofNat 64 (effective path 9 56 8)
  faultq := BitVec.ofNat 64 (effective path 10 64 8)
  bartmo := effective path 11 72 4
  debug := (effective path 12 76 1).testBit 0
  system := (effective path 13 76 1).testBit 1
  deadline := effective path 14 80 4

/-- The effective items of each RCB of a path, the region first. -/
def itemsOf : List (DWord × List Byte) → List RegionItems
  | [] => []
  | r :: path => itemsAt (r :: path) :: itemsOf path

/-- The region path at an address (R322). -/
def State.regionPath (s : State) (asid : BitVec 16) (rcb : Nat) : Option (List RegionItems) :=
  (s.rcbPath asid 16 rcb).map itemsOf

/-! What launches hold. -/

/-- Warp slots, extension blocks, tiles with live shadows, and KiB of core SRAM (R323). -/
structure Held where
  warps : Nat
  blocks : Nat
  tiles : Nat
  kib : Nat
deriving DecidableEq, Repr

def Held.add (a b : Held) : Held := ⟨a.warps + b.warps, a.blocks + b.blocks, a.tiles + b.tiles, a.kib + b.kib⟩

/-- Set bits of a byte. -/
def popByte (b : Byte) : Nat := ((List.range 8).filter fun i => b.getLsbD i).length

def Warp.held (w : Warp) : Held := ⟨1, w.quota, w.tquota + popByte w.ts, 0⟩

/-- Warps that hold slots of a core; a prologue holds none. -/
def Warp.placedOn (w : Warp) : Bool := match w.kind with
  | .prologue _ => false
  | _ => true

/-- Workgroups that hold their core; a saved one holds nothing. -/
def Wg.onCore (g : Wg) : Bool := match g.pre with
  | .saved => false
  | _ => true

/-- Tiles granted to waiting MMAS that have not replayed yet (R229). -/
def State.granted (s : State) (p : Op → Bool) : Nat :=
  (s.ops.filter p).foldl (fun n o => match o.kind with
    | .shadowReq m => if o.data.isEmpty then n else n + popByte m
    | _ => n) 0

/-- What the launches that satisfy `p` hold. -/
def State.heldBy (s : State) (p : Nat → Bool) : Held :=
  let ws := (s.allWarps.filter fun w => w.placedOn && p w.launch).foldl (fun h w => h.add w.held) ⟨0, 0, s.granted fun o => p o.launch, 0⟩
  (s.wgs.filter fun g => g.onCore && p g.launch).foldl (fun h g => h.add ⟨0, 0, 0, (g.sramSize + 1023) / 1024⟩) ws

/-- Whether an engine owns a line of an RCB on a launch's path: a read of its items waits (R185 step 2). -/
def State.budgetOwned (s : State) (l : Launch) : Bool :=
  l.path.any fun r => (s.reachAs (some l.asid) r.rcb.toNat .r true).any fun pa => s.bytesOwned pa 256

/-- Whether every RCB on a launch's path keeps its charge within items 0–3, read afresh (R323, R324). Where the path can no longer be
read, or is malformed, those read at its resolution count: the manual does not say (DESIGN CHOICE, log entry 77). -/
def State.withinBudget (s : State) (l : Launch) (more : Held) : Bool :=
  let path := match s.regionPath l.asid (l.path.headD RegionItems.empty).rcb.toNat with
    | some p => p
    | none => l.path
  !s.budgetOwned l && path.all fun r =>
    let under (lid : Nat) : Bool := match s.launchOf lid with
      | some m => m.asid == l.asid && m.path.any fun q => q.rcb == r.rcb
      | none => false
    let h := (s.heldBy under).add more
    decide (h.warps ≤ r.warps) && decide (h.blocks ≤ r.rblk) && decide (h.tiles ≤ r.tileb) && decide (h.kib ≤ r.sramKib)

/-- What the warps of a core hold. -/
def State.coreHeld (s : State) (core : Nat) : Held :=
  (s.allWarps.filter fun w => w.placedOn && w.core == core).foldl (fun h w => h.add w.held) ⟨0, 0, s.granted fun o => o.core == core, 0⟩

/-- Free extension blocks (R16) and unreserved tiles (R22) of a core. -/
def State.freeBlocks (s : State) (core : Nat) : Nat := 128 - (s.coreHeld core).blocks
def State.freeTiles (s : State) (core : Nat) : Nat := 32 - (s.coreHeld core).tiles

end Sys2Proof.Machine
end

