-- ==== Sys2Proof/Machine/Texture.lean ====
section
/-! DEFINITION. Texture sampling and neural materials: TEX, TEXQ, TEXN (R241–R245) and the texel formats and layouts
they read (R387–R389). -/

namespace Sys2Proof.Machine

/-! Texel formats. -/

/-- A channel of a texel (R387): unsigned normalised, or floating point; `lo` is its lowest bit and `n` its width. -/
structure Channel where
  unorm : Bool
  lo : Nat
  n : Nat
deriving DecidableEq, Repr

/-- The channels of a texel format code, R first (R387). -/
def texelChannels (fmt : Nat) : List Channel :=
  let run (u : Bool) (n c : Nat) : List Channel := (List.range c).map fun i => ⟨u, n * i, n⟩
  match fmt with
  | 0 => run true 8 1
  | 1 => run true 8 2
  | 2 => run true 8 4
  | 3 => [⟨true, 0, 10⟩, ⟨true, 10, 10⟩, ⟨true, 20, 10⟩, ⟨true, 30, 2⟩]
  | 4 => run false 16 1
  | 5 => run false 16 2
  | 6 => run false 16 4
  | 7 => run false 32 1
  | 8 => run false 32 2
  | 9 => run false 32 4
  | _ => []

/-- Bytes of a texel (R387). -/
def texelBytes (fmt : Nat) : Nat :=
  match fmt with
  | 0 => 1
  | 1 => 2
  | 2 => 4
  | 3 => 4
  | 4 => 2
  | 5 => 4
  | 6 => 8
  | 7 => 4
  | 8 => 8
  | _ => 16

/-- An exact ratio with a sign, or a special value: UNORM channels are no dyadic numbers (R388). `den` is never 0. -/
structure Exact where
  v : Fv
  den : Nat
deriving DecidableEq, Repr

/-- The exact value of a channel (R388). -/
def Channel.value (c : Channel) (texel : Nat) : Exact :=
  let x := texel / 2 ^ c.lo % 2 ^ c.n
  if c.unorm then ⟨.fin false x 0, 2 ^ c.n - 1⟩ else ⟨(if c.n = 16 then fp16 else fp32).value x, 1⟩

/-- The exact weighted sum of values with one denominator, rounded once to FP32 (R242); weights are multiples of
2 ^ -e, and those of 0 take no part. -/
def weightedSum (ts : List (Nat × Exact)) (e : Nat) : Nat :=
  let ts := ts.filter fun t => t.1 != 0
  let den := ((ts.head?.map fun t => t.2.den).getD 1)
  match Fv.sum 0 (ts.map fun t => Fv.mul (.fin false t.1 (-(e : Int))) t.2.v) with
  | .nan => fp32.nan
  | .inf s => fp32.infinite Mode.home s
  | .fin s m g => if m = 0 then fp32.zero s else fp32.roundMag Mode.home s ⟨m, den, g⟩

/-! Images. -/

/-- An image descriptor (R241). -/
structure Image where
  fmt : Nat
  dim : Nat
  levels : Nat
  base : Nat
  w : Nat
  h : Nat
  d : Nat
  lodMode : Nat
  filt : BitVec 3
  wrap : List Nat
deriving DecidableEq, Repr

/-- A level's size of a dimension (R241). -/
def levelSize (s n : Nat) : Nat := Max.max 1 (s / 2 ^ n)

/-- Levels that sizes allow (R241). -/
def levelLimit (sizes : List Nat) : Nat := Nat.log2 (sizes.foldl Max.max 1) + 1

/-- Reads an image descriptor; none when it is malformed (R241, R387). A BASE that is not 256-byte aligned, and a nonzero HM1 (1D) or DM1
(1D, 2D), count as malformed, which R241's list of causes does not name (DESIGN CHOICE, log entry 75). -/
def imageOf (bs : List Byte) : Option Image :=
  let f := recField bs
  let i : Image := { fmt := f 1 1, dim := f 2 1, levels := f 3 1, base := f 8 8, w := f 16 2 + 1, h := f 18 2 + 1, d := f 20 2 + 1, lodMode := f 24 1 / 8, filt := BitVec.ofNat 3 (f 24 1), wrap := [f 25 1 % 4, f 25 1 / 4 % 4, f 25 1 / 16] }
  let sizes := match i.dim with
    | 0 => [i.w]
    | 2 => [i.w, i.h, i.d]
    | _ => [i.w, i.h]
  if f 0 1 = 1 ∧ i.fmt ≤ 9 ∧ i.dim ≤ 3 ∧ 1 ≤ i.levels ∧ i.levels ≤ Min.min 16 (levelLimit sizes) ∧ recZero bs 4 8 ∧
    i.base % 256 = 0 ∧ (i.dim = 0 → i.h = 1) ∧ (i.dim ≤ 1 → i.d = 1) ∧ recZero bs 22 24 ∧ i.lodMode ≤ 2 ∧
    f 25 1 / 64 = 0 ∧ recZero bs 26 64 then some i else none

/-- Width, height and depth or layers of a level (R241, R389). -/
def Image.size (i : Image) (n : Nat) : Nat × Nat × Nat :=
  (levelSize i.w n, levelSize i.h n, if i.dim = 2 then levelSize i.d n else i.d)

/-- The pitch of a level of width `w` with `b` bytes a texel (R389). -/
def pitch (w b : Nat) : Nat := (w * b + 255) / 256 * 256

/-- Where a level starts (R389). -/
def Image.levelStart (i : Image) (b : Nat) : Nat → Nat
  | 0 => i.base
  | n + 1 => Image.levelStart i b n + pitch (i.size n).1 b * (i.size n).2.1 * (i.size n).2.2

/-- The address of a texel (R389). -/
def Image.texelAt (i : Image) (b n x y z : Nat) : DWord :=
  BitVec.ofNat 64 (i.levelStart b n + (z * (i.size n).2.1 + y) * pitch (i.size n).1 b + x * b)

/-- A wrap mode on an integer index (R241): none at the border. -/
def wrapIndex (mode size : Nat) (x : Int) : Option Nat :=
  let s : Int := size
  match mode with
  | 0 => some (x % s).toNat
  | 1 => some (Max.max 0 (Min.min (s - 1) x)).toNat
  | 2 =>
    let j := x % (2 * s)
    some (if j < s then j else 2 * s - 1 - j).toNat
  | _ => if 0 ≤ x ∧ x < s then some x.toNat else none

/-- The texel indices of a coordinate with their weights in 256ths (R242): s × S exactly, one index or two. -/
def taps (linear : Bool) (size : Nat) (s : Dy) : List (Int × Nat) :=
  let u := Dy.mul s (Dy.ofInt size)
  if linear then
    let v := Dy.sub u ⟨1, -1⟩
    let k := (Dy.mul v (Dy.ofInt 256)).floor
    let i := v.floor
    let f := (k - 256 * i).toNat
    [(i, 256 - f), (i + 1, f)]
  else [(u.floor, 256)]

/-- A texel that a sample weights: its address, none at the border, and its weight. -/
abbrev Tap := Option DWord × Nat

/-- The texels of one level with their weights, in units of 2 ^ -24 (R242). -/
def Image.levelTaps (i : Image) (b n : Nat) (linear : Bool) (s t r : Dy) (layer : Nat) : List Tap :=
  let (w, h, d) := i.size n
  let m (k : Nat) : Nat := (i.wrap[k]?).getD 0
  let xs := taps linear w s
  let ys := if i.dim = 0 then [(0, 256)] else taps linear h t
  let zs : List (Int × Nat) := if i.dim = 2 then taps linear d r else [((if i.dim = 3 then (layer : Int) else 0), 256)]
  zs.flatMap fun z => ys.flatMap fun y => xs.map fun x =>
    let zi := if i.dim = 2 then wrapIndex (m 2) d z.1 else some z.1.toNat
    let yi := if i.dim = 0 then some 0 else wrapIndex (m 1) h y.1
    match wrapIndex (m 0) w x.1, yi, zi with
    | some xi, some yi, some zi => (some (i.texelAt b n xi yi zi), x.2 * y.2 * z.2)
    | _, _, _ => (none, x.2 * y.2 * z.2)

/-! The level of detail. -/

def f32 (v : Fv) : Nat := fp32.round Mode.home v
def f32Value (x : Nat) : Fv := fp32.value x
def f32Sub (a b : Nat) : Nat := f32 (Fv.add 0 (f32Value a) (f32Value b).neg)
def f32Add (a b : Nat) : Nat := f32 (Fv.add 0 (f32Value a) (f32Value b))
def f32Mul (a b : Nat) : Nat := f32 (Fv.mul (f32Value a) (f32Value b))

/-- Whether an FP32 code is finite. -/
def f32Finite (x : Nat) : Bool := match f32Value x with
  | .fin _ _ _ => true
  | _ => false

/-- The FP32 code of a nonnegative integer. -/
def f32Nat (n : Nat) : Nat := f32 (.fin false n 0)

/-- ρ² of a quad (R242 step 2): `c i l` is coordinate `i` of lane `l` and `on l` says that the lane is active. -/
def rhoSquared (on : Nat → Bool) (c : Nat → Nat → Nat) (sizes : List Nat) (lane : Nat) : Nat :=
  let q := lane / 4 * 4
  let axis (p : Nat) : Nat :=
    let terms := sizes.zipIdx.map fun e =>
      let diff := if on q && on (q + p) then f32Sub (c e.2 (q + p)) (c e.2 q) else 0
      let x := f32Mul diff (f32Nat e.1)
      f32Mul x x
    f32 (Fv.sum 0 (terms.map f32Value))
  let x := axis 1
  let y := axis 2
  f32 (Fv.max (f32Value x) (f32Value y))

/-- λ before its clamp (R242 steps 2 and 3). -/
def Image.lambda (i : Image) (rho bias : Nat) : Nat :=
  let imp := f32Mul 0x3F000000 (Fmt.special .log2 fp32 Mode.home rho)
  match i.lodMode with
  | 0 => imp
  | 1 => f32Add imp bias
  | _ => bias

/-- A value clamped to [0, n]; NaN gives 0 (R242 step 4, R245). -/
def clampLod (v : Fv) (n : Nat) : Dy :=
  match v with
  | .nan => Dy.zero
  | .inf s => if s then Dy.zero else Dy.ofInt n
  | .fin s m e =>
    let d := (Fv.fin s m e).dy
    if d.m ≤ 0 then Dy.zero else if Dy.lt (Dy.ofInt n) d then Dy.ofInt n else d

/-- The levels that a sample takes with their weights in 256ths (R242). -/
def Image.levelsAt (i : Image) (lam : Dy) : List (Nat × Nat) :=
  if i.filt.getLsbD 2 then
    let n := lam.floor.toNat
    let f := ((Dy.mul lam (Dy.ofInt 256)).floor - 256 * n).toNat
    if f = 0 then [(n, 256)] else [(n, 256 - f), (n + 1, f)]
  else [((Dy.add lam ⟨1, -1⟩).floor.toNat, 256)]

/-- The texels of a lane's sample, weights in units of 2 ^ -32; none where a coordinate it uses is no number, for
which the manual states no texel. -/
def Image.sampleTaps (i : Image) (c : Nat → Nat) (lam : Dy) : Option (List Tap) :=
  let linear := if lam.m = 0 then i.filt.getLsbD 0 else i.filt.getLsbD 1
  let used := match i.dim with
    | 0 => [0]
    | 2 => [0, 1, 2]
    | _ => [0, 1]
  let v (k : Nat) : Dy := (f32Value (c k)).dy
  let layer := Min.min (i.d - 1) (f32Value (c 2) |>.toInt 32 false 0)
  if used.all fun k => f32Finite (c k) then
    some ((i.levelsAt lam).flatMap fun l =>
      (i.levelTaps (texelBytes i.fmt) l.1 linear (v 0) (v 1) (v 2) layer).map fun t => (t.1, t.2 * l.2))
  else none

/-- R, G, B and A of a sample (R242): `xs` are the texels read for the taps that name one. A channel the format lacks
reads 0, and alpha 1.0. -/
def Image.sampled (i : Image) (ts : List Tap) (xs : List Nat) : List Nat :=
  let rec pair : List Tap → List Nat → List (Nat × Option Nat)
    | [], _ => []
    | (none, w) :: ts, xs => (w, none) :: pair ts xs
    | (some _, w) :: ts, x :: xs => (w, some x) :: pair ts xs
    | (some _, _) :: ts, [] => pair ts []
  let ps := pair ts xs
  (List.range 4).map fun k =>
    match (texelChannels i.fmt)[k]? with
    | none => if k = 3 then 0x3F800000 else 0
    | some ch => weightedSum (ps.map fun p => (p.1, match p.2 with
      | some x => ch.value x
      | none => ⟨.fin false 0 0, if ch.unorm then 2 ^ ch.n - 1 else 1⟩)) 32

/-! Neural materials. -/

/-- A material descriptor (R244). -/
structure Material where
  fp16 : Bool
  c : Nat
  levels : Nat
  h1 : Nat
  h2 : Nat
  o : Nat
  clamp : Bool
  wrap : Nat
  latent : Nat
  w : Nat
  h : Nat
  weights : Nat
deriving DecidableEq, Repr

/-- Reads a material descriptor; none when it is malformed (R244). -/
def materialOf (bs : List Byte) : Option Material :=
  let f := recField bs
  let m : Material := { fp16 := f 1 1 == 0, c := f 2 1, levels := f 3 1, h1 := f 4 1, h2 := f 5 1, o := f 6 1, clamp := f 7 1 / 4 == 1, wrap := f 7 1 % 4, latent := f 8 8, w := f 16 2 + 1, h := f 18 2 + 1, weights := f 24 8 }
  if f 0 1 = 2 ∧ f 1 1 ≤ 1 ∧ 1 ≤ m.c ∧ m.c ≤ 16 ∧ 1 ≤ m.levels ∧ m.levels ≤ Min.min 16 (levelLimit [m.w, m.h]) ∧
    1 ≤ m.h1 ∧ m.h1 ≤ 16 ∧ m.h2 ≤ 16 ∧ 1 ≤ m.o ∧ m.o ≤ 8 ∧ f 7 1 / 8 = 0 ∧ m.latent % 256 = 0 ∧ recZero bs 20 24 ∧
    m.weights % 16 = 0 ∧ recZero bs 32 64 then some m else none

/-- Bytes of a latent element and of a grid texel (R389). -/
def Material.elem (m : Material) : Nat := if m.fp16 then 2 else 1
def Material.texel (m : Material) : Nat := (m.c * m.elem + 3) / 4 * 4

/-- The grid as an image of two dimensions. -/
def Material.image (m : Material) : Image where
  fmt := 0
  dim := 1
  levels := m.levels
  base := m.latent
  w := m.w
  h := m.h
  d := 1
  lodMode := 2
  filt := 0
  wrap := [m.wrap, m.wrap, 0]

/-- The layers as (inputs, outputs), in order (R244, R245). -/
def Material.layers (m : Material) : List (Nat × Nat) :=
  if m.h2 = 0 then [(m.c, m.h1), (m.h1, m.o)] else [(m.c, m.h1), (m.h1, m.h2), (m.h2, m.o)]

/-- The weights' and biases' addresses, layer after layer; a block begins on a 16-byte boundary (R244). -/
def weightReads : List (Nat × Nat) → Nat → List (DWord × Nat)
  | [], _ => []
  | (n, o) :: ls, at_ =>
    (List.range (n * o + o)).map (fun k => (BitVec.ofNat 64 (at_ + 2 * k), 2)) ++
      weightReads ls (at_ + ((n * o + o) * 2 + 15) / 16 * 16)

/-- `Layer` (R245) on FP32 codes. -/
def layer (ws : List Nat) (n o : Nat) (relu : Bool) (xs : List Nat) : List Nat :=
  let h (k : Nat) : Fv := fp16.value ((ws[k]?).getD 0)
  (List.range o).map fun j =>
    let z := f32 (Fv.sum 0 (h (n * o + j) :: (List.range n).map fun i => Fv.mul (h (j * n + i)) (f32Value ((xs[i]?).getD 0))))
    match relu, f32Value z with
    | true, .fin s m _ => if s || m == 0 then 0 else z
    | true, .inf s => if s then 0 else z
    | _, _ => z

/-- The layers applied one after another; the last is the identity's. -/
def runLayers : List (Nat × Nat) → List Nat → List Nat → List Nat
  | [], _, xs => xs
  | (n, o) :: ls, ws, xs => runLayers ls (ws.drop (n * o + o)) (layer ws n o (!ls.isEmpty) xs)

/-- An output clamped to [0, 1], NaN giving 0 (R245). -/
def clampUnit (x : Nat) : Nat :=
  match f32Value x with
  | .nan => 0
  | .inf s => if s then 0 else 0x3F800000
  | .fin s m e => if s || m == 0 then 0 else if Dy.lt (Dy.ofInt 1) (Fv.fin s m e).dy then 0x3F800000 else x

/-- The level of a LOD value and the latent texels of a lane (R245); none where u or v is no number. -/
def Material.gridTaps (m : Material) (u v lod : Nat) : Option (List Tap) :=
  let n := (clampLod (f32Value lod) (m.levels - 1))
  let lvl := Min.min (m.levels - 1) (Dy.add n ⟨1, -1⟩).floor.toNat
  if f32Finite u && f32Finite v then
    some (m.image.levelTaps m.texel lvl true (f32Value u).dy (f32Value v).dy Dy.zero 0)
  else none

/-- The reads of the latents: every channel of every tap that names a texel. -/
def Material.latentReads (m : Material) (ts : List Tap) : List (DWord × Nat) :=
  (List.range m.c).flatMap fun c => ts.filterMap fun t => if t.2 = 0 then none else t.1.map fun a => (a + BitVec.ofNat 64 (c * m.elem), m.elem)

/-- The outputs of TEXN (R245), from the latents and the weights read. -/
def Material.outputs (m : Material) (ts : List Tap) (lat ws : List Nat) : List Nat :=
  let live := ts.filter fun t => t.2 != 0
  let per := (live.filter fun t => t.1.isSome).length
  let rec pair : List Tap → List Nat → List (Nat × Exact)
    | [], _ => []
    | (none, w) :: ts, xs => (w, ⟨.fin false 0 0, 1⟩) :: pair ts xs
    | (some _, w) :: ts, x :: xs => (w, ⟨(if m.fp16 then Machine.fp16 else e4m3).value x, 1⟩) :: pair ts xs
    | (some _, _) :: ts, [] => pair ts []
  let x := (List.range m.c).map fun c => weightedSum (pair live (lat.drop (c * per))) 24
  let o := runLayers m.layers ws x
  (List.range 8).map fun j => match o[j]? with
    | some z => if m.clamp then clampUnit z else z
    | none => 0

/-! The instructions. -/

/-- What TEX, TEXN and TEXQ share (R240): the operation captures `n` words a lane. -/
def State.texGroup (s : State) (mode : Nat) (d h : Code) (data : SMap Word) : Eff :=
  match s.handle h 64 with
  | (_, some t) => .trap t
  | (desc, none) =>
    if s.active = 0 then .done s
    else if s.slotsFull then .hold
    else
      let lanes : List LaneReq := (lanesOf s.active).map fun l => { lane := l, va := desc, pa := 0, stage := .request, val := 0, aux := 0 }
      .done (s.newOp (.tex mode d desc) lanes data)

/-- TEX (R242). -/
def execTex (d a b : Code) (s : State) : Host.Outcome State Fault Refusal :=
  s.issue { op := 0xC0, d := vecF d 4 4 false true, a := vecF a 4 4 true false, b := handleF b } fun s =>
    s.texGroup 0 d b (s.warp.capture s.active a 4)

/-- TEXN (R245). -/
def execTexn (d a b : Code) (s : State) : Host.Outcome State Fault Refusal :=
  s.issue { op := 0xC1, d := vecF d 8 8 false true, a := vecF a 4 4 true false, b := handleF b } fun s =>
    s.texGroup 1 d b (s.warp.capture s.active a 4)

/-- TEXQ (R243): the level is any source but a latch. -/
def execTexq (d a b : Code) (s : State) : Host.Outcome State Fault Refusal :=
  s.issue { op := 0xC2, d := vecF d 4 4 false true, a := .opd a 0x3B 1 1 true false, b := handleF b } fun s =>
    s.texGroup 2 d b (forLanes s.active (fun l t => wr t (4 * l) (BitVec.ofNat 32 (s.src a false l))) [])

/-! The event. -/

/-- Writes a lane's results. -/
def State.texLane (s : State) (o : Op) (d : Code) (lane : Nat) (xs : List Nat) : State :=
  (s.onWarp o.uid fun w => { w with v := xs.zipIdx.foldl (fun v e => wr v ((d.toNat + e.2) * 64 + lane) (BitVec.ofNat 32 e.1)) w.v }).finishLane o lane

/-- Free values for a lane, one for each register (log entry 15). -/
def State.texFree (s : State) (o : Op) (d : Code) (lane n : Nat) : State :=
  State.texLane { s with freeCtr := s.freeCtr + n } o d lane ((List.range n).map fun i => (Config.free (s.freeCtr + i)).toNat)

/-- One lane of TEX. -/
def State.sampleLane (s : State) (o : Op) (d : Code) (i : Image) (l : LaneReq) : State :=
  let c (k lane : Nat) : Nat := (rd o.data (4 * lane + k)).toNat
  let sizes := match i.dim with
    | 0 => [i.w]
    | 2 => [i.w, i.h, i.d]
    | _ => [i.w, i.h]
  let rho := rhoSquared (fun x => (o.lane x).isSome) c sizes l.lane
  let lam := clampLod (f32Value (i.lambda rho (c 3 l.lane))) (i.levels - 1)
  match i.sampleTaps (fun k => c k l.lane) lam with
  | none => s.texFree o d l.lane 4
  | some ts =>
    let live := ts.filter fun t => t.2 != 0
    match s.pathReads o (live.filterMap fun t => t.1.map fun a => (a, texelBytes i.fmt)) with
    | (s, .stop p) => s.laneStop o l p
    | (s, .ok xs) => s.texLane o d l.lane (i.sampled live xs)

/-- One lane of TEXN. -/
def State.decodeLane (s : State) (o : Op) (d : Code) (m : Material) (l : LaneReq) : State :=
  let c (k : Nat) : Nat := (rd o.data (4 * l.lane + k)).toNat
  match m.gridTaps (c 0) (c 1) (c 2) with
  | none => s.texFree o d l.lane 8
  | some ts =>
    let lat := m.latentReads ts
    match s.pathReads o (lat ++ weightReads m.layers m.weights) with
    | (s, .stop p) => s.laneStop o l p
    | (s, .ok xs) => s.texLane o d l.lane (m.outputs ts (xs.take lat.length) (xs.drop lat.length))

/-- One lane of TEXQ (R243). -/
def State.queryLane (s : State) (o : Op) (d : Code) (i : Image) (l : LaneReq) : State :=
  let n := (rd o.data (4 * l.lane)).toNat
  let (w, h, z) := i.size n
  s.texLane o d l.lane (if n < i.levels then [w, h, z, i.levels] else [0, 0, 0, i.levels])

/-- The descriptor's bytes that an operation has read (R241: once per group). -/
def Op.descBytes (o : Op) (n : Nat) : Option (List Byte) :=
  if (SMap.find (2 ^ 21) o.bytes).isSome then some ((List.range n).map fun i => rd o.bytes i) else none

/-- Keeps a descriptor's bytes with its operation. -/
def State.keepDesc (s : State) (o : Op) (bs : List Byte) : State :=
  s.onOp o.id fun o => { o with bytes := SMap.insert (2 ^ 21) 1 (bs.zipIdx.foldl (fun m e => wr m e.2 e.1) o.bytes) }

/-- Lanes of an operation, as a mask. -/
def Op.laneMask (o : Op) : Mask := o.lanes.foldl (fun m l => m ||| laneBit l.lane) 0

/-- Every lane of a texture operation ends with zeros and one record (R241, R242). -/
def State.texFails (s : State) (o : Op) (code cause : Nat) (addr aux : DWord) : State :=
  let s := (s.opFault o code cause o.laneMask addr aux).spoil o (o.lanes.map (·.lane))
  o.lanes.foldl (fun s l => s.finishLane o l.lane) s

/-- TEXTURE_RESULT (R241–R245): the descriptor is read, then each lane is sampled; lanes whose reads stop park or post
their faults. -/
def execTextureResult (op : Nat) (s : State) : Host.Outcome State Fault Refusal :=
  .next (match s.opOf op with
    | none => s
    | some o => match o.kind with
      | .tex mode d desc =>
        let due := o.lanes.filter fun l => l.stage == .request
        match o.descBytes 64 with
        | none => (match s.pathRead o desc 64 with
          | (s, .ok bs) => s.keepDesc o bs
          | (s, .stop (.park st va)) => due.foldl (fun s l => s.parkLane o l.lane st va) s
          | (s, .stop (.fault code cause va aux)) => s.texFails o code cause va aux
          | (s, .stop _) => s)
        | some bs =>
          (match mode, imageOf bs, materialOf bs with
            | 1, _, some m => due.foldl (fun s l => s.decodeLane o d m l) s
            | 0, some i, _ => due.foldl (fun s l => s.sampleLane o d i l) s
            | 2, some i, _ => due.foldl (fun s l => s.queryLane o d i l) s
            | _, _, _ => s.texFails o 0x2D 0 desc 0)
      | _ => s)

end Sys2Proof.Machine
end

