-- ==== Sys2Proof/Machine/Trace.lean ====
section
/-! DEFINITION. Ray traversal: TRACE and TRRES (R246–R249), the node formats (R390) and the walk with its short stack
and restart trail (R248, R434). -/

namespace Sys2Proof.Machine

/-! FP32 vectors, each named operation rounded once (R247). -/

abbrev Vec3 := Nat × Nat × Nat

def vecSub (a b : Vec3) : Vec3 := (f32Sub a.1 b.1, f32Sub a.2.1 b.2.1, f32Sub a.2.2 b.2.2)

/-- The exact sum of products, rounded once. -/
def sumProducts (ts : List (Nat × Nat)) : Nat := f32 (Fv.sum 0 (ts.map fun t => Fv.mul (f32Value t.1) (f32Value t.2)))

def vecDot (a b : Vec3) : Nat := sumProducts [(a.1, b.1), (a.2.1, b.2.1), (a.2.2, b.2.2)]

/-- `a × b − c × d`, rounded once. -/
def crossTerm (a b c d : Nat) : Nat := f32 (Fv.sum 0 [Fv.mul (f32Value a) (f32Value b), (Fv.mul (f32Value c) (f32Value d)).neg])

def vecCross (a b : Vec3) : Vec3 :=
  (crossTerm a.2.1 b.2.2 a.2.2 b.2.1, crossTerm a.2.2 b.1 a.1 b.2.2, crossTerm a.1 b.2.1 a.2.1 b.1)

def f32Div (a b : Nat) : Nat := fp32.div Mode.home (f32Value a) (f32Value b)

/-- `a ≤ b` of two FP32 codes, false with a NaN. -/
def f32Le (a b : Nat) : Bool :=
  let x := f32Value a
  let y := f32Value b
  !x.isNan && !y.isNan && !Fv.lt false y x

/-- A ray in one space: origin, direction, and the instance's index and user word. -/
structure Space where
  o : Vec3
  d : Vec3
  inst : Option (Nat × Nat)
deriving DecidableEq, Repr

/-- A hit: T, U, V, primitive, geometry, instance, user word and the sign of det (R249). -/
structure Hit where
  t : Nat
  u : Nat
  v : Nat
  prim : Nat
  geom : Nat
  inst : Nat
  user : Nat
  front : Bool
deriving DecidableEq, Repr

/-- `TriTest` (R247). -/
def triTest (sp : Space) (flags : BitVec 3) (tmin limit : Nat) (p0 p1 p2 : Vec3) : Option (Nat × Nat × Nat × Bool) :=
  let e1 := vecSub p1 p0
  let e2 := vecSub p2 p0
  let s := vecSub sp.o p0
  let q := vecCross sp.d e2
  let det := vecDot e1 q
  let pos := Fv.lt false (.fin false 0 0) (f32Value det)
  let neg := Fv.lt false (f32Value det) (.fin false 0 0)
  if !pos && !neg then none
  else if (flags.getLsbD 1 && neg) || (flags.getLsbD 2 && pos) then none
  else
    let w := vecCross s e1
    let u := f32Div (vecDot s q) det
    let v := f32Div (vecDot sp.d w) det
    let t := f32Div (vecDot e2 w) det
    if f32Le 0 u && f32Le 0 v && f32Le (f32Add u v) 0x3F800000 && f32Le tmin t && f32Le t limit then some (t, u, v, pos) else none

/-- One axis of a box test: the distances at which the ray enters and leaves the slab (R247), none when it never does.
Entry rounds toward −∞ and exit toward +∞. -/
def slab (o d lo hi : Nat) : Option (Nat × Nat) :=
  let dist (rnd x : Nat) : Nat := fp32.div ⟨rnd, false, false⟩ (Fv.add 0 (f32Value x) (f32Value o).neg) (f32Value d)
  if (f32Value d).isZero then (if f32Le lo o && f32Le o hi then some (0xFF800000, 0x7F800000) else none)
  else if (f32Value d).sign then some (dist 3 hi, dist 2 lo)
  else some (dist 3 lo, dist 2 hi)

/-- A box test: the entry distance when the box is met (R247). -/
def boxTest (sp : Space) (tmin limit : Nat) (lo hi : Vec3) : Option Nat :=
  match slab sp.o.1 sp.d.1 lo.1 hi.1, slab sp.o.2.1 sp.d.2.1 lo.2.1 hi.2.1, slab sp.o.2.2 sp.d.2.2 lo.2.2 hi.2.2 with
  | some x, some y, some z =>
    let more (a b : Nat) : Nat := if f32Le a b then b else a
    let less (a b : Nat) : Nat := if f32Le a b then a else b
    let entry := more x.1 (more y.1 z.1)
    let exit_ := less x.2 (less y.2 z.2)
    if f32Le entry exit_ && f32Le tmin exit_ && f32Le entry limit then some entry else none
  | _, _, _ => none

/-! Nodes. -/

/-- A node (R390). -/
inductive Node where
  | box (children : List (Int × Vec3 × Vec3))
  | inst (mask : Byte) (index user blas : Nat) (m : List Nat)
  | tris (geom : Nat) (ts : List (Nat × Vec3 × Vec3 × Vec3))
deriving DecidableEq, Repr

def vecAt (bs : List Byte) (o : Nat) : Vec3 := (recField bs o 4, recField bs (o + 4) 4, recField bs (o + 8) 4)

/-- Whether a box has no NaN and no minimum above its maximum (R390). -/
def boxOk (lo hi : Vec3) : Bool := f32Le lo.1 hi.1 && f32Le lo.2.1 hi.2.1 && f32Le lo.2.2 hi.2.2

/-- Reads a node of the top level or of a bottom level; none when it breaks its format (R390). -/
def nodeOf (bs : List Byte) (top : Bool) : Option Node :=
  let f := recField bs
  match f 0 1 with
  | 1 =>
    let n := f 1 1
    let kid (c : Nat) : Int × Vec3 × Vec3 := (intValue 32 true (f (16 + 4 * c) 4), vecAt bs (32 + 24 * c), vecAt bs (44 + 24 * c))
    let kids := (List.range n).map kid
    let unused := (List.range 4).all fun c => decide (c < n) || (recZero bs (16 + 4 * c) (20 + 4 * c) && recZero bs (32 + 24 * c) (56 + 24 * c))
    if 1 ≤ n ∧ n ≤ 4 ∧ recZero bs 2 16 ∧ unused ∧ kids.all fun k => k.1 % 64 == 0 && boxOk k.2.1 k.2.2 then some (.box kids) else none
  | 2 =>
    if top && recZero bs 2 4 && recZero bs 11 16 && recZero bs 24 32 && recZero bs 80 128 && f 16 8 % 64 == 0 then
      some (.inst (BitVec.ofNat 8 (f 1 1)) (f 4 4) (f 8 3) (f 16 8) ((List.range 12).map fun i => f (32 + 4 * i) 4))
    else none
  | 3 =>
    let n := f 1 1
    let tri (i : Nat) : Nat × Vec3 × Vec3 × Vec3 := (f (16 + 4 * i) 4, vecAt bs (32 + 36 * i), vecAt bs (44 + 36 * i), vecAt bs (56 + 36 * i))
    if !top && decide (1 ≤ n) && decide (n ≤ 2) && recZero bs 2 4 && recZero bs 8 16 && recZero bs 24 32 && recZero bs 104 128 then
      some (.tris (f 4 4) ((List.range n).map tri))
    else none
  | _ => none

/-- The ray in an instance's space (R247): one rounding of an exact sum for each component; none when a component is
infinite or NaN. -/
def Space.enter (sp : Space) (index user : Nat) (m : List Nat) : Option Space :=
  let e (i : Nat) : Nat := (m[i]?).getD 0
  let point (r : Nat) : Nat := sumProducts [(e (4 * r), sp.o.1), (e (4 * r + 1), sp.o.2.1), (e (4 * r + 2), sp.o.2.2), (e (4 * r + 3), 0x3F800000)]
  let dir (r : Nat) : Nat := sumProducts [(e (4 * r), sp.d.1), (e (4 * r + 1), sp.d.2.1), (e (4 * r + 2), sp.d.2.2)]
  let o : Vec3 := (point 0, point 1, point 2)
  let d : Vec3 := (dir 0, dir 1, dir 2)
  if [o.1, o.2.1, o.2.2, d.1, d.2.1, d.2.2].all f32Finite then some ⟨o, d, some (index, user)⟩ else none

/-! The walk. -/

/-- A deferred node of the short stack (R434): its entry distance, the level of its parent and its place among the met
children. -/
structure Deferred where
  va : DWord
  entry : Nat
  level : Nat
  ord : Nat
  sp : Space
deriving DecidableEq, Repr

/-- A traversal: the next node, the stack with its top first, the trail with its deepest level first as (finished,
met) children, the finished counts still to be passed over in the descent after a restart, whether an entry has been
dropped since the start or the last restart, and what the ray has found. -/
structure Walker where
  cur : Option (DWord × Space)
  stack : List Deferred
  trail : List (Nat × Nat)
  redo : List Nat
  dropped : Bool
  restarts : Nat
  limit : Nat
  best : Option Hit
  stopped : Bool
deriving DecidableEq, Repr

/-- What a ray's traversal works with. -/
structure TraceIn where
  root : DWord
  flags : BitVec 3
  imask : Byte
  tmin : Nat
  start : Space
deriving DecidableEq, Repr

/-- A level's count of finished children goes up; a level whose children are all finished is a finished child of the
level above. -/
def bumpTrail : List (Nat × Nat) → List (Nat × Nat)
  | [] => []
  | (f, n) :: r => if f + 1 < n then (f + 1, n) :: r else bumpTrail r

/-- The trail down to a level, with that level's finished children. -/
def cutTrail (t : List (Nat × Nat)) (level finished : Nat) : List (Nat × Nat) :=
  match t.drop (t.length - (level + 1)) with
  | (f, n) :: r => if level + 1 ≤ t.length then (finished, n) :: r else (f, n) :: r
  | [] => []

/-- Pops the first deferred node whose entry does not exceed the limit; one that exceeds it is a finished child of its node (R434). -/
def popStack (limit : Nat) : List Deferred → List (Nat × Nat) → Option (DWord × Space) × List Deferred × List (Nat × Nat)
  | [], t => (none, [], t)
  | e :: st, t =>
    if f32Le e.entry limit then (some (e.va, e.sp), st, cutTrail t e.level e.ord)
    else popStack limit st (bumpTrail (cutTrail t e.level e.ord))

/-- A subtree has ended (R434): the next deferred node, a restart, or the end of the traversal. -/
def Walker.next (w : Walker) (x : TraceIn) : Walker :=
  let t := bumpTrail (w.trail.drop 1)
  match popStack w.limit w.stack t with
  | (some c, st, t) => { w with cur := some c, stack := st, trail := t, redo := [] }
  | (none, _, t) =>
    if w.dropped && !t.isEmpty then
      { w with cur := some (x.root, x.start), stack := [], trail := [], redo := (t.map (·.1)).reverse, dropped := false, restarts := Min.min 255 (w.restarts + 1) }
    else { w with cur := none, stack := [], trail := [], redo := [], stopped := true }

/-- Defers a node; a full stack drops its bottom entry (R248). -/
def Walker.push (w : Walker) (e : Deferred) : Walker :=
  if w.stack.length = 8 then { w with stack := e :: w.stack.dropLast, dropped := true } else { w with stack := e :: w.stack }

/-- Enters a node with its met children in visiting order (R434). -/
def Walker.descend (w : Walker) (x : TraceIn) (kids : List (Nat × DWord × Space)) : Walker :=
  let level := w.trail.length
  let skip := w.redo.headD 0
  let w : Walker := { w with trail := (skip, kids.length) :: w.trail, redo := w.redo.drop 1 }
  match (kids.zipIdx).drop skip with
  | [] => w.next x
  | k :: rest =>
    let w := rest.foldr (fun k w => w.push { va := k.1.2.1, entry := k.1.1, level := level, ord := k.2, sp := k.1.2.2 }) w
    { w with cur := some (k.1.2.1, k.1.2.2) }

/-- Whether a hit comes before the best so far (R247): least t, then instance, geometry and primitive index. -/
def Hit.before (a b : Hit) : Bool :=
  let x := f32Value a.t
  let y := f32Value b.t
  if Fv.lt false x y then true
  else if Fv.lt false y x then false
  else if a.inst ≠ b.inst then decide (a.inst < b.inst)
  else if a.geom ≠ b.geom then decide (a.geom < b.geom)
  else decide (a.prim < b.prim)

/-- The triangles of a node tested in order; with FIRSTHIT the first hit ends the traversal (R247). -/
def Walker.tests (w : Walker) (x : TraceIn) (sp : Space) (geom : Nat) : List (Nat × Vec3 × Vec3 × Vec3) → Walker
  | [] => w
  | (prim, p0, p1, p2) :: ts =>
    if w.stopped then w
    else match triTest sp x.flags x.tmin w.limit p0 p1 p2 with
      | none => Walker.tests w x sp geom ts
      | some (t, u, v, front) =>
        let h : Hit := { t := t, u := u, v := v, prim := prim, geom := geom, inst := (sp.inst.map (·.1)).getD 0, user := (sp.inst.map (·.2)).getD 0, front := front }
        if x.flags.getLsbD 0 then { w with best := some h, stopped := true, cur := none }
        else
          let best := match w.best with
            | some b => if h.before b then h else b
            | none => h
          Walker.tests { w with best := some best, limit := t } x sp geom ts

/-- A node visited (R247, R434); none when it breaks its format. -/
def Walker.visit (w : Walker) (x : TraceIn) (va : DWord) (sp : Space) (bs : List Byte) : Option Walker :=
  match nodeOf bs sp.inst.isNone with
  | none => none
  | some (.box kids) =>
    let met := kids.filterMap fun k => (boxTest sp x.tmin w.limit k.2.1 k.2.2).map fun e => (e, va + BitVec.ofInt 64 k.1, sp)
    let sorted := met.foldl (fun r k => (r.takeWhile fun y => f32Le y.1 k.1) ++ k :: (r.dropWhile fun y => f32Le y.1 k.1)) []
    some (w.descend x sorted)
  | some (.inst mask index user blas m) =>
    if mask &&& x.imask = 0 then some (w.descend x [])
    else match sp.enter index user m with
      | none => some (w.descend x [])
      | some sp' => some (w.descend x [(0xFF800000, BitVec.ofNat 64 blas, sp')])
  | some (.tris geom ts) =>
    let w := w.tests x sp geom ts
    some (if w.stopped then w else w.descend x [])

/-- The hit record of a walk that is over (R249). -/
def Walker.record (w : Walker) : List Word :=
  match w.best with
  | none => missRecord (BitVec.ofNat 32 (256 * w.restarts))
  | some h => [h.t, h.u, h.v, h.prim, h.geom, h.inst, h.user, 256 * w.restarts + (if h.front then 2 else 0) + 1].map (BitVec.ofNat 32)

/-- How a walk comes to stop. -/
inductive WalkEnd where
  | done (hit : List Word)
  | malformed (va : DWord) (restarts : Nat)
  | stop (p : PathStop) (restarts : Nat)
deriving DecidableEq, Repr

/-- Runs a traversal from one node to the next. -/
def State.traverse (s : State) (o : Op) (x : TraceIn) : Nat → Walker → State × WalkEnd
  | 0, w => (s, .done w.record)
  | n + 1, w =>
    match w.stopped, w.cur with
    | false, some (va, sp) =>
      if 64 ≤ w.trail.length then (s, .malformed va w.restarts)
      else match s.pathRead o va 128 with
        | (s, .stop p) => (s, .stop p w.restarts)
        | (s, .ok bs) => match w.visit x va sp bs with
          | none => (s, .malformed va w.restarts)
          | some w => State.traverse s o x n w
    | _, _ => (s, .done w.record)

/-! The instructions. -/

/-- Whether a lane's traversal in a slot has not ended. -/
def Warp.tracing (w : Warp) (slot lane : Nat) : Bool := (SMap.find (64 * slot + lane) w.rays).any (·.running)

/-- A slot whose record stands (R249). -/
def Ray.ended (hit : List Word) : Ray :=
  { running := false, parked := none, addr := 0, words := [], hit := hit, op := 0, restarts := 0 }

/-- TRACE (R247): q is SLOT. -/
def execTrace (q : BitVec 2) (a b : Code) (s : State) : Host.Outcome State Fault Refusal :=
  s.issue { op := 0xC3, d := .imm, a := vecF a 8 8 true false, b := handleF b } fun s =>
    match s.handle b 32 with
    | (_, some t) => .trap t
    | (desc, none) =>
      if s.active = 0 then .done s
      else if allLanes.any (s.warp.tracing q.toNat) || (s.performers != 0 && s.slotsFull) then .hold
      else
        let helpers := s.active &&& s.warp.helper
        let id := s.nextOp
        let words (l : Nat) : List Word := (List.range 8).map fun r => rd s.warp.v ((a.toNat + r) * 64 + l)
        let rays := forLanes helpers (fun l m => SMap.insert (64 * q.toNat + l) (Ray.ended (missRecord 0)) m) s.warp.rays
        let rays := forLanes s.performers (fun l m => SMap.insert (64 * q.toNat + l)
          ({ running := true, parked := none, addr := desc, words := words l, hit := missRecord 0, op := id, restarts := 0 } : Ray) m) rays
        let s : State := { s with warp := { s.warp with rays := rays } }
        if s.performers = 0 then .done s
        else .done (s.newOpWith (.trace q.toNat) [] [(0, desc.setWidth 32), (1, (desc >>> 32).setWidth 32)] [(0, s.active.setWidth 32), (1, (s.active >>> 32).setWidth 32)] [])

/-- TRRES (R249): q is SLOT. -/
def execTrres (d : Code) (q : BitVec 2) (s : State) : Host.Outcome State Fault Refusal :=
  s.issue { op := 0xC4, d := vecF d 8 8 false true, a := .imm, b := .resv } fun s =>
    if (lanesOf s.active).any (s.warp.tracing q.toNat) then .hold
    else .done { s with warp := forLanes s.active (fun l w =>
      let hit := match SMap.find (64 * q.toNat + l) s.warp.rays with
        | some r => r.hit
        | none => missRecord 0
      (List.range 8).foldl (fun w r => w.setV (d.toNat + r) l false ((hit[r]?).getD 0).toNat) w) s.warp }

/-! The event. -/

/-- Replaces a ray. -/
def State.setRay (s : State) (uid key : Nat) (r : Ray) : State :=
  s.onWarp uid fun w => { w with rays := SMap.insert key r w.rays }

/-- Every ray of a TRACE ends with STATUS.FAULT, and one record names the group's active lanes (R246). -/
def State.traceFails (s : State) (o : Op) (code cause : Nat) (addr aux : DWord) : State :=
  let lanes : Mask := (rd o.data2 1).setWidth 64 <<< 32 ||| (rd o.data2 0).setWidth 64
  let s := s.opFault o code cause lanes addr aux
  let ray (r : Nat × Ray) : Nat × Ray := if r.2.op = o.id ∧ r.2.running then (r.1, r.2.endFault) else r
  (s.onWarp o.uid fun w => { w with rays := w.rays.map ray }).settleTraces

/-- A ray parks on a block or a page (R247). -/
def Stage.parkKey : Stage → Option Nat
  | .parkFill leader => some leader
  | .parkPage vpn => some (pageKey vpn)
  | _ => none

/-- A ray that misses at once (R247): a NaN component, tmin above tmax, or an infinite origin or direction. -/
def rayMisses (ws : List Word) : Bool :=
  let c (i : Nat) : Nat := ((ws[i]?).getD 0).toNat
  ((List.range 8).any fun i => (f32Value (c i)).isNan) || Fv.lt false (f32Value (c 7)) (f32Value (c 3)) ||
  [0, 1, 2, 4, 5, 6].any fun i => !f32Finite (c i)

/-- Nodes that one traversal can read: more than any path of 64 levels visits. -/
def walkFuel : Nat := 2 ^ 200

/-- One ray's traversal, with its descriptor's bytes. -/
def State.traceRay (s : State) (o : Op) (key : Nat) (r : Ray) (desc : List Byte) : State :=
  let c (i : Nat) : Nat := ((r.words[i]?).getD 0).toNat
  let f := recField desc
  let ended (s : State) (hit : List Word) : State := (s.setRay o.uid key { r with running := false, parked := none, hit := hit }).settleTraces
  let bad (n : Nat) : List Word := missRecord (BitVec.ofNat 32 (256 * n + 4))
  let lane := key % 64
  if rayMisses r.words then ended s (missRecord 0)
  else
    let start : Space := { o := (c 0, c 1, c 2), d := (c 4, c 5, c 6), inst := none }
    let x : TraceIn := { root := BitVec.ofNat 64 (f 0 8), flags := BitVec.ofNat 3 (f 8 1), imask := BitVec.ofNat 8 (f 9 1), tmin := c 3, start := start }
    let w : Walker := { cur := some (x.root, start), stack := [], trail := [], redo := [], dropped := false, restarts := 0, limit := c 7, best := none, stopped := false }
    match s.traverse o x walkFuel w with
    | (s, .done hit) => ended s hit
    | (s, .malformed va n) => ended (s.rayFault r lane 0x2E 0 va 0) (bad n)
    | (s, .stop (.park st va) n) => s.setRay o.uid key { r with parked := st.parkKey, addr := va, restarts := n }
    | (s, .stop (.fault code cause va aux) n) => ended (s.rayFault r lane code cause va aux) (bad n)
    | (s, .stop _ _) => s

/-- Whether a trace descriptor is well formed (R246). -/
def traceOk (bs : List Byte) : Bool := recField bs 0 8 % 64 == 0 && recField bs 8 1 / 8 == 0 && recZero bs 10 32

/-- RAY_TRAVERSAL_END (R247): the descriptor of the ray's TRACE is read once, then the ray is traversed. -/
def execRayTraversalEnd (w slot lane : Nat) (s : State) : Host.Outcome State Fault Refusal :=
  let key := 64 * slot + lane
  .next (match (s.findWarp w).bind fun w => SMap.find key w.rays with
    | none => s
    | some r =>
      if !r.running || r.parked.isSome then s
      else match s.opOf r.op with
        | none => s
        | some o => match o.descBytes 32 with
          | some bs => s.traceRay o key r bs
          | none =>
            let desc : DWord := (rd o.data 1).setWidth 64 <<< 32 ||| (rd o.data 0).setWidth 64
            (match s.pathRead o desc 32 with
              | (s, .ok bs) => if traceOk bs then s.keepDesc o bs else s.traceFails o 0x2E 0 desc 0
              | (s, .stop (.park st va)) => s.setRay w key { r with parked := st.parkKey, addr := va }
              | (s, .stop (.fault code cause va aux)) => s.traceFails o code cause va aux
              | (s, .stop _) => s))

end Sys2Proof.Machine
end

