-- ==== Sys2Proof/Machine/Raster.lean ====
section
/-! DEFINITION. The geometry of a render pass: its descriptor (R374), setup and culling (R377), coverage and sample
depth (R378), the positions and planes of fragments (R380), bins and bin-tiled targets (R386). -/

namespace Sys2Proof.Machine

/-! The pass descriptor. -/

/-- A field of a pass's descriptor (R374). -/
def Pass.field (p : Pass) (off n : Nat) : Nat := leValue ((List.range n).map fun i => rd p.desc (off + i))

def Pass.nrt (p : Pass) : Nat := p.field 1 1
def Pass.samples (p : Pass) : Nat := 2 ^ (p.field 2 1 % 4)
def Pass.dfunc (p : Pass) : Nat := p.field 3 1 % 8
def Pass.dtest (p : Pass) : Bool := (p.field 3 1).testBit 3
def Pass.dwrite (p : Pass) : Bool := (p.field 3 1).testBit 4
def Pass.earlyZ (p : Pass) : Bool := (p.field 3 1).testBit 5
def Pass.cullMode (p : Pass) : Nat := p.field 4 1 % 4
def Pass.frontCw (p : Pass) : Bool := (p.field 4 1).testBit 2
def Pass.wm1 (p : Pass) : Nat := p.field 8 2
def Pass.hm1 (p : Pass) : Nat := p.field 10 2
def Pass.vp (p : Pass) (i : Nat) : Nat := p.field (16 + 4 * i) 4
def Pass.znear (p : Pass) : Nat := p.field 32 4
def Pass.zfar (p : Pass) : Nat := p.field 36 4
def Pass.fragKd (p : Pass) : Nat := p.field 40 8
def Pass.depthBase (p : Pass) : Nat := p.field 48 8
def Pass.stats (p : Pass) : Nat := p.field 56 8
def Pass.dmiss (p : Pass) : Nat := p.field 64 8
def Pass.binMem (p : Pass) : Nat := p.field 72 8
def Pass.binSize (p : Pass) : Nat := p.field 80 8

/-- A well-formed pass descriptor (R374); the fragment kernel is checked with the launch. -/
def passOk (bs : List Byte) : Bool :=
  let f := recField bs
  let finite (o : Nat) : Bool := f32Finite (f o 4)
  let positive (o : Nat) : Bool := Fv.lt false (.fin false 0 0) (f32Value (f o 4))
  let target (r : Nat) : Bool :=
    let o := 128 + 16 * r
    f o 8 % 256 == 0 && decide (f (o + 8) 1 ≤ 9) && decide (f (o + 9) 1 ≤ 4) && f (o + 10) 1 / 16 == 0 && recZero bs (o + 11) (o + 16)
  f 0 1 == 1 && decide (f 1 1 ≤ 8) && f 2 1 / 4 == 0 && f 3 1 / 64 == 0 && f 4 1 / 8 == 0 && f 4 1 % 4 != 3 && recZero bs 5 8 &&
  recZero bs 12 16 && positive 24 && positive 28 && finite 32 && finite 36 && f 48 8 % 256 == 0 &&
  (f 48 8 != 0 || f 3 1 / 8 == 0) && f 56 8 % 64 == 0 && f 72 8 % 4096 == 0 && f 80 8 % 4096 == 0 &&
  decide (2 ^ 20 ≤ f 80 8) && recZero bs 88 128 && (List.range (f 1 1)).all target

/-! Exact numbers. -/

/-- The rational that a finite FP32 code holds. -/
def f32Rat (x : Nat) : ℚ :=
  match f32Value x with
  | .fin s m e => (if s then -1 else 1) * (m : ℚ) * (if 0 ≤ e then (2 ^ e.toNat : ℚ) else 1 / 2 ^ (-e).toNat)
  | _ => 0

/-- `Round` of a rational to a format under RNE; zero is +0. -/
def Fmt.ofRat (f : Fmt) (q : ℚ) : Nat :=
  if q = 0 then f.zero false else f.roundMag Mode.home (decide (q < 0)) ⟨q.num.natAbs, q.den, 0⟩

/-- A fixed function's result within 2 ulp of a rational (R250; log entry 5): `bits` are its inputs. -/
def f32Near (bits : List Nat) (q : ℚ) : Nat :=
  if q = 0 then 0 else fp32.within2 [] (Config.ulpError 4 false bits) (decide (q < 0)) ⟨q.num.natAbs, q.den, 0⟩

/-! Setup. -/

/-- A vertex on the screen: position in 1/256 pixel and depth (R377). -/
structure Screen where
  x : Int
  y : Int
  z : Nat
deriving DecidableEq, Repr

/-- A word of a vertex's attribute slot. -/
def vertWord (v : SMap Word) (slot i : Nat) : Nat := (rd v (4 * slot + i)).toNat

/-- 1/256 pixels of an FP32 coordinate, rounded under RNE; none outside −32,768 ≤ x < 32,768. -/
def fixedPixel (x : Nat) : Option Int :=
  match f32Value x with
  | .fin s m e =>
    let d := (Fv.fin s m e).dy
    let v := Dy.toIntRnd ⟨d.m, d.e + 8⟩ 0
    if -32768 * 256 ≤ v ∧ v < 32768 * 256 then some v else none
  | _ => none

/-- Screen mapping of a vertex (R377): none where the vertex culls its primitive. -/
def Pass.screen (p : Pass) (v : SMap Word) : Option Screen :=
  let c (i : Nat) : Nat := vertWord v 0 i
  let w := c 3
  let half : Nat := 0x3F000000
  let one : Nat := 0x3F800000
  let xs := f32Add (p.vp 0) (f32Mul (f32Mul (p.vp 2) (f32Add (f32Div (c 0) w) one)) half)
  let ys := f32Add (p.vp 1) (f32Mul (f32Mul (p.vp 3) (f32Sub one (f32Div (c 1) w))) half)
  let zs := f32Add p.znear (f32Mul (f32Sub p.zfar p.znear) (f32Div (c 2) w))
  if (List.range 4).any (fun i => (f32Value (c i)).isNan) || !Fv.lt false (.fin false 0 0) (f32Value w) then none
  else match fixedPixel xs, fixedPixel ys with
    | some x, some y => some ⟨x, y, zs⟩
    | _, _ => none

/-- Twice the signed area, or an edge function of a position (R377, R378). -/
def edge (a b : Screen) (x y : Int) : Int := (b.x - a.x) * (y - a.y) - (b.y - a.y) * (x - a.x)

/-- Pixels of the target and the viewport rectangle in one axis (R378): a pixel lies where its number does. -/
def Pass.pixelIn (p : Pass) (px py : Int) : Bool :=
  let inside (v lo size max1 : Nat) (k : Int) : Bool :=
    v == v && decide (0 ≤ k) && decide (k ≤ max1) && f32Finite lo && f32Finite size &&
    decide (f32Rat lo ≤ (k : ℚ)) && decide ((k : ℚ) < f32Rat lo + f32Rat size)
  inside 0 (p.vp 0) (p.vp 2) p.wm1 px && inside 1 (p.vp 1) (p.vp 3) p.hm1 py

/-- The least and greatest of some numbers. -/
def minInt : List Int → Int
  | [] => 0
  | x :: xs => xs.foldl Min.min x
def maxInt : List Int → Int
  | [] => 0
  | x :: xs => xs.foldl Max.max x

/-- The bounding box in pixels: first and last column, first and last row. -/
def boxPixels (vs : List Screen) : (Int × Int) × (Int × Int) :=
  ((minInt (vs.map (·.x)) / 256, maxInt (vs.map (·.x)) / 256), (minInt (vs.map (·.y)) / 256, maxInt (vs.map (·.y)) / 256))

/-- The pixels of a bounding box in one axis that the target and the viewport hold. -/
def Pass.span (p : Pass) (cols : Bool) (lo hi : Int) : Option (Nat × Nat) :=
  let max1 := if cols then p.wm1 else p.hm1
  let v := if cols then p.vp 0 else p.vp 1
  let size := if cols then p.vp 2 else p.vp 3
  if f32Finite v && f32Finite size then
    let first := Max.max (Max.max lo 0) (⌈f32Rat v⌉)
    let last := Min.min (Min.min hi max1) (⌈f32Rat v + f32Rat size⌉ - 1)
    if first ≤ last then some (first.toNat, last.toNat) else none
  else none

/-- What setup makes of a primitive: whether it is culled, its screen vertices and its facing (R377). -/
def Pass.setup (p : Pass) (kind : Nat) (verts : List (SMap Word)) : Option (List Screen × Bool) :=
  match verts.mapM p.screen with
  | none => none
  | some vs =>
    let b := boxPixels vs
    match p.span true b.1.1 b.1.2, p.span false b.2.1 b.2.2 with
    | some _, some _ =>
      (match kind, vs with
        | 0, [v0, v1, v2] =>
          let a := edge v0 v1 v2.x v2.y
          let front := xor (decide (0 < a)) p.frontCw
          if a = 0 || (p.cullMode = 1 && !front) || (p.cullMode = 2 && front) then none else some (vs, front)
        | 0, _ => none
        | _, _ => some (vs, true))
    | _, _ => none

/-! Coverage. -/

/-- Sample positions in 1/16 pixel (R378). -/
def samplePos (n s : Nat) : Nat × Nat :=
  let ps : List (Nat × Nat) := match n with
    | 1 => [(8, 8)]
    | 2 => [(4, 9), (12, 7)]
    | 4 => [(5, 2), (12, 5), (2, 11), (9, 14)]
    | _ => [(7, 9), (11, 13), (3, 5), (13, 7), (5, 15), (9, 1), (1, 11), (15, 3)]
  (ps[s]?).getD (8, 8)

/-- A triangle's vertices with positive area first to last (R378). -/
def oriented (vs : List Screen) : List Screen :=
  match vs with
  | [a, b, c] => if edge a b c.x c.y < 0 then [a, c, b] else vs
  | _ => vs

/-- Whether a position lies on the covered side of an edge, under the top-left rule (R378). -/
def edgeCovers (a b : Screen) (x y : Int) : Bool :=
  let e := edge a b x y
  let top := a.y == b.y && decide (a.x < b.x)
  let left := decide (b.y < a.y)
  decide (0 < e) || (e == 0 && (top || left))

/-- The pixels of a line (R378): one per column or row of its major axis, from its start, half-open at its end. -/
def linePixel (a b : Screen) (px py : Int) : Bool :=
  let dx := b.x - a.x
  let dy := b.y - a.y
  let along (p0 p1 c : Int) : Bool := if p0 < p1 then decide (p0 ≤ c) && decide (c < p1) else decide (c ≤ p0) && decide (p1 < c)
  if dx = 0 ∧ dy = 0 then false
  else if dy.natAbs ≤ dx.natAbs then
    let c := px * 256 + 128
    along a.x b.x c && Int.fdiv ((a.y : Int) * dx + dy * (c - a.x)) (256 * dx) == py
  else
    let c := py * 256 + 128
    along a.y b.y c && Int.fdiv ((a.x : Int) * dy + dx * (c - a.y)) (256 * dy) == px

/-- Whether a primitive covers a sample position, given in 1/256 pixel (R378). -/
def covers (kind : Nat) (vs : List Screen) (px py x y : Int) : Bool :=
  match kind, oriented vs with
  | 0, [a, b, c] => edgeCovers a b x y && edgeCovers b c x y && edgeCovers c a x y
  | 1, [a, b] => linePixel a b px py
  | 2, [a] => a.x / 256 == px && a.y / 256 == py
  | _, _ => false

/-- The plane through three values at a position, exact (R378, R380): `f` gives a vertex's value. -/
def plane (vs : List Screen) (f : Nat → ℚ) (x y : ℚ) : ℚ :=
  match vs with
  | [a, b, c] =>
    let e (p q : Screen) : ℚ := (q.x - p.x : Int) * (y - (p.y : Int)) - (q.y - p.y : Int) * (x - (p.x : Int))
    let area : ℚ := (edge a b c.x c.y : Int)
    (e b c * f 0 + e c a * f 1 + e a b * f 2) / area
  | _ => f 0

/-- The depth of a primitive at a position in 1/256 pixel, rounded once (R378): a line or a point has V0's; none when a triangle has
no plane. -/
def depthAt (kind : Nat) (vs : List Screen) (x y : ℚ) : Option Nat :=
  if kind ≠ 0 then (vs.head?).map (·.z)
  else if vs.all fun v => f32Finite v.z then
    let z (i : Nat) : ℚ := ((vs[i]?).map fun v => f32Rat v.z).getD 0
    some (fp32.ofRat (plane vs z x y))
  else none

/-- Whether a depth lies in the range of the pass (R378). -/
def Pass.depthIn (p : Pass) (z : Nat) : Bool :=
  (f32Le p.znear z && f32Le z p.zfar) || (f32Le p.zfar z && f32Le z p.znear)

/-- A sample's position in 1/256 pixel. -/
def sampleAt (n s : Nat) (px py : Int) : Int × Int :=
  (px * 256 + 16 * (samplePos n s).1, py * 256 + 16 * (samplePos n s).2)

/-- The samples of a pixel that a primitive covers, as a mask (R378). -/
def Pass.coverage (p : Pass) (kind : Nat) (vs : List Screen) (px py : Int) : Byte :=
  if !p.pixelIn px py then 0
  else (List.range p.samples).foldl (fun m s =>
    let at_ := sampleAt p.samples s px py
    let z := (depthAt kind vs at_.1 at_.2).any p.depthIn
    if covers kind vs px py at_.1 at_.2 && z then setBit m s true else m) 0

/-! Bins (R386). -/

/-- Bins in a row of the target. -/
def Pass.binsWide (p : Pass) : Nat := (p.wm1 + 64) / 64

/-- The cluster that owns a bin. -/
def State.binOwner (s : State) (bx by_ : Nat) : Nat := (bx + 5 * by_) % field s.devcap 16 8

end Sys2Proof.Machine
end

