-- ==== Sys2Proof/Machine/Graphics.lean ====
section
/-! DEFINITION. The instructions of geometry and fragment warps: PRIM, ATTR, EXPF and KILL (R250–R253, R380). -/

namespace Sys2Proof.Machine

/-- WARP_KIND (R240): the kinds of warp in which an instruction issues. -/
def State.kindTrap (s : State) (k : WarpKind) : Option TrapInfo :=
  if s.warp.kind = k then none else some { code := 0x10, mask := s.active, addr := 0, cause := 0 }

/-- A well-formed primitive word (R251). -/
def primOk (x : Word) : Bool :=
  field x 30 2 == 0 && field x 28 2 != 3 && field x 22 6 == 0 && field x 14 2 == 0 && field x 6 2 == 0

/-- The attribute slots of one lane's vertex (R250). -/
def Warp.vertex (w : Warp) (lane : Nat) : SMap Word :=
  (w.vattr.filter fun e => e.1 / 128 == lane).map fun e => (e.1 % 128, e.2)

/-- The primitive that a word names, with its vertices as they stand (R251). -/
def Warp.primitive (w : Warp) (x : Word) : PrimOut :=
  let v (lo : Nat) : SMap Word := w.vertex (field x lo 6)
  { kind := field x 28 2
    verts := match field x 28 2 with
      | 0 => [v 0, v 8, v 16]
      | 1 => [v 0, v 8]
      | _ => [v 0] }

/-- PRIM (R251). -/
def execPrim (a : Code) (s : State) : Host.Outcome State Fault Refusal :=
  s.issue { op := 0xC5, d := .resv, a := srcF a false, b := .resv } fun s =>
    let word (l : Nat) : Word := BitVec.ofNat 32 (s.src a false l)
    let bad := maskIn s.performers fun l => !primOk (word l)
    match s.kindTrap .geometry with
    | some t => .trap t
    | none =>
      if bad ≠ 0 then .trap { code := 0x02, mask := bad, addr := 0, cause := 0 }
      else .done { s with warp := { s.warp with prims := s.warp.prims ++ (lanesOf s.performers).map fun l => s.warp.primitive (word l) } }

/-! Attributes of fragments. -/

/-- The pixel of a lane of a fragment warp (R379). -/
def Warp.pixel (w : Warp) (lane : Nat) : Int × Int :=
  match w.quads[lane / 4]? with
  | some q => (q.px + lane % 2, q.py + lane % 4 / 2)
  | none => (0, 0)

/-- The pass of a launch. -/
def State.passOf (s : State) (lid : Nat) : Option Pass := s.passes.find? fun p => p.launch == lid

def State.onPass (s : State) (lid : Nat) (f : Pass → Pass) : State :=
  { s with passes := modifyFirst (fun p => p.launch == lid) f s.passes }

/-- The centroid of a lane in 1/256 pixel (R380): the pixel's centre, or the position of its lowest covered sample.
Where no sample is covered, in a helper lane, the manual states no position: it is a free one within the pixel (log entry 15). -/
def centroid (samples : Nat) (cover : Byte) (px py : Int) : Int × Int :=
  let all := (List.range samples).all fun s => cover.getLsbD s
  match all, (List.range samples).find? (fun s => cover.getLsbD s) with
  | false, some s => sampleAt samples s px py
  | true, _ => (px * 256 + 128, py * 256 + 128)
  | false, none => (px * 256 + Config.ulpError 7 false [px.toNat, py.toNat] % 256, py * 256 + Config.ulpError 8 false [px.toNat, py.toNat] % 256)

/-- Inputs of an interpolation, as the free choice of its error sees them. -/
def attrBits (interp : Nat) (vs : List Screen) (ws as_ : List Nat) (x y : Int) : List Nat :=
  interp :: (ws ++ as_ ++ (vs.flatMap fun v => [(BitVec.ofInt 32 v.x).toNat, (BitVec.ofInt 32 v.y).toNat, v.z]) ++ [(BitVec.ofInt 32 x).toNat, (BitVec.ofInt 32 y).toNat])

/-- An attribute's value at a position in 1/256 pixel (R250): perspective-correct or linear, with an error of at most
2 ulp; a vertex value that is no number spreads as in a sum. What the manual does not state (a line's interior, a
weight of 0) is a free function of the inputs (log entry 15). -/
def attrValue (persp : Bool) (kind : Nat) (vs : List Screen) (ws as_ : List Nat) (x y : Int) : Nat :=
  let bits := attrBits (if persp then 0 else 1) vs ws as_ x y
  let a (i : Nat) : Nat := (as_[i]?).getD 0
  let iw (i : Nat) : ℚ := if persp then 1 / f32Rat ((ws[i]?).getD 0) else 1
  let den := plane vs iw x y
  let weight (i : Nat) : ℚ := plane vs (fun j => if j = i then iw i else 0) x y
  if kind = 1 ∨ den = 0 then Config.ulpError 6 false bits
  else if as_.all f32Finite then f32Near bits (plane vs (fun i => f32Rat (a i) * iw i) x y / den)
  else f32 (Fv.sum 0 ((List.range vs.length).map fun i =>
    Fv.mul (.fin (decide (weight i / den < 0)) (if weight i = 0 then 0 else 1) 0) (f32Value (a i))))

/-- Slot 0 of a fragment (R380). -/
def Pass.systemValues (p : Pass) (b : BinPrim) (vs : List Screen) (interp : Nat) (px py : Int) (cover : Byte) (helper : Bool) : List Nat :=
  let at_ := if interp = 3 then centroid p.samples cover px py else (px * 256 + 128, py * 256 + 128)
  let pos (x : Int) : Nat := f32 (Fv.ofDy ⟨x, -8⟩)
  let w (i : Nat) : Nat := vertWord ((b.verts[i]?).getD []) 0 3
  if interp = 2 then [if helper then 0 else cover.toNat, if b.front then 1 else 0, b.seq % 2 ^ 32, 0]
  else [pos at_.1, pos at_.2, (depthAt b.kind vs at_.1 at_.2).getD (Config.ulpError 6 false [b.seq]), fp32.ofRat (plane vs (fun i => 1 / f32Rat (w i)) at_.1 at_.2)]

/-- The four words that ATTR reads for a lane (R250, R380). -/
def Pass.attribute (p : Pass) (b : BinPrim) (slot interp : Nat) (px py : Int) (cover : Byte) (helper : Bool) : List Nat :=
  match b.verts.mapM p.screen with
  | none => []
  | some vs =>
    if slot = 0 then p.systemValues b vs interp px py cover helper
    else if interp = 2 then (List.range 4).map fun i => vertWord ((b.verts.head?).getD []) slot i
    else
      let at_ := if interp = 3 then centroid p.samples cover px py else (px * 256 + 128, py * 256 + 128)
      let ws := b.verts.map fun v => vertWord v 0 3
      (List.range 4).map fun i => attrValue (interp != 1) b.kind vs ws (b.verts.map fun v => vertWord v slot i) at_.1 at_.2

/-- ATTR's read for one lane. -/
def State.readAttr (s : State) (slot interp lane : Nat) : List Nat :=
  match s.passOf s.warp.launch, s.warp.quads[lane / 4]? with
  | some p, some q => match p.prims.find? (fun b => b.seq == q.prim) with
    | some b =>
      let px := s.warp.pixel lane
      p.attribute b slot interp px.1 px.2 (rd s.warp.cover lane) (s.warp.helper.getLsbD lane)
    | none => []
  | _, _ => []

/-- ATTR (R250): w is WR; INTERP must be 0 with it. -/
def execAttr (d : Code) (w : BitVec 1) (interp : BitVec 2) (n : BitVec 5) (s : State) : Host.Outcome State Fault Refusal :=
  s.issue { op := 0xC6, d := vecF d 4 4 (w == 1) (w == 0), a := .imm, b := .resv, bad := w == 1 && interp != 0 } fun s =>
    match s.kindTrap (if w = 1 then .geometry else .fragment) with
    | some t => .trap t
    | none =>
      if w = 1 then
        .done { s with warp := { s.warp with vattr := forLanes s.active (fun l m => (List.range 4).foldl (fun m i =>
          wr m (128 * l + 4 * n.toNat + i) (rd s.warp.v ((d.toNat + i) * 64 + l))) m) s.warp.vattr } }
      else .done { s with warp := forLanes s.active (fun l x => (s.readAttr n.toNat interp.toNat l).zipIdx.foldl (fun x e =>
          x.setV (d.toNat + e.2) l false e.1) x) s.warp }

/-! Exports. -/

/-- EXPF (R252): t is TGT, n DONE. -/
def execExpf (t : BitVec 4) (a : Code) (n : BitVec 1) (s : State) : Host.Outcome State Fault Refusal :=
  s.issue { op := 0xC7, d := .imm, a := vecF a 4 4 true false, b := .imm, bad := decide (9 ≤ t.toNat) } fun s =>
    match s.kindTrap .fragment with
    | some i => .trap i
    | none =>
      let m := s.performers &&& ~~~s.warp.doneMask
      let old := s.warp.exports.filter fun e => !(m.getLsbD e.lane && e.tgt == t.toNat)
      let new : List ExportOut := (lanesOf m).map fun l => { lane := l, tgt := t.toNat, vals := (List.range 4).map fun i => rd s.warp.v ((a.toNat + i) * 64 + l) }
      .done { s with warp := { s.warp with exports := old ++ new, doneMask := if n = 1 then s.warp.doneMask ||| m else s.warp.doneMask } }

/-- KILL (R253). -/
def execKill (s : State) : Host.Outcome State Fault Refusal :=
  s.issue { op := 0xC8, d := .resv, a := .resv, b := .resv } fun s =>
    match s.kindTrap .fragment with
    | some i => .trap i
    | none =>
      let m := s.performers &&& ~~~s.warp.doneMask
      .done { s with warp := { s.warp with helper := s.warp.helper ||| m, killed := s.warp.killed ||| m, exports := s.warp.exports.filter fun e => !m.getLsbD e.lane } }

/-! Ends of geometry and fragment warps. -/

/-- The place of a geometry warp in the submission order (R375). -/
def Launch.warpOrder (l : Launch) (wg inWg : Nat) : Nat := wg * l.kd.warps + inWg

/-- A fragment's record when its warp exits (R252): lanes that are neither helpers nor done complete, and killed lanes
leave no export. -/
def FragRec.exit (f : FragRec) (w : Warp) : FragRec :=
  if f.uid = w.uid then { f with complete := true, killed := w.killed.getLsbD f.lane, exports := w.exports.filter fun e => e.lane == f.lane } else f

/-- What a warp leaves to the binning unit or the blend unit when it exits (R240, R252, R375); FRAGINV counts the lanes
that started and were no helpers (R384). A killed launch's warps leave nothing. -/
def State.passExit (s : State) (w : Warp) : State :=
  match s.launchOf w.launch, w.kind with
  | some l, .geometry =>
    if l.killed then s
    else s.onPass l.lid fun p =>
      if l.warpOrder w.wg w.inWg < p.committed then p
      else { p with waiting := (p.waiting.filter fun e => !(e.1 == w.wg && e.2.1 == w.inWg)) ++ [(w.wg, w.inWg, (lanesOf w.startLive).length, w.prims)] }
  | some l, .fragment =>
    if l.killed then s
    else s.onPass l.lid fun p => { p with frags := p.frags.map fun f => f.exit w, fragInv := p.fragInv + (lanesOf (w.startLive &&& ~~~(w.helper &&& ~~~w.killed))).length }
  | _, _ => s

end Sys2Proof.Machine
end

