-- ==== Sys2Proof/Machine/Lane.lean ====
section
/-! DEFINITION. Lane exchange: SHFL, VOTE, MATCH, REDUX, SCAN, ELECT and KGET (R150–R158). -/

namespace Sys2Proof.Machine

/-- `Dst` of a lane-exchange instruction: lanes outside the active set keep their latch elements too (R152). -/
def State.dstX (s : State) (c : Code) (wide : Bool) (x : Nat → Nat) : State :=
  let n := c.toNat
  if 0xF0 ≤ n ∧ n ≤ 0xF3 then
    { s with warp := { s.warp with lat := forLanes s.active (fun l t => wr t ((n - 0xF0) * 64 + l) (BitVec.ofNat 64 (x l))) s.warp.lat } }
  else s.dst c wide s.active x

/-- A k destination once per group, or the active lanes of another; an empty active set writes nothing (R151, R152). -/
def State.dstKX (s : State) (c : Code) (wide : Bool) (x : Nat) : State :=
  if s.active = 0 then s
  else if 0xC0 ≤ c.toNat ∧ c.toNat ≤ 0xEF then s.setK c (BitVec.ofNat 64 x)
  else s.dstX c wide fun _ => x

/-- A destination that may also be a k register (R151). -/
def dstKF (c : Code) (n : Nat) : Fld := .opd c 0x17 n n false true

/-- The source lane of SHFL (R153): mode 0 PICK, 1 LOW, 2 HIGH, 3 FLIP; none outside the segment. -/
def shflLane (mode l sel : Nat) : Option Nat :=
  let g := 64 / 2 ^ Min.min (sel / 256 % 8) 5
  let n := sel % 64
  let o := l % g
  let base := l - o
  match mode with
  | 0 => some (base + n % g)
  | 1 => if n ≤ o then some (base + (o - n)) else none
  | 2 => if o + n < g then some (base + (o + n)) else none
  | _ => some (base + (o ^^^ (n % g)))

/-- SHFL (R153). -/
def State.shfl (s : State) (mode : Nat) (d a b : Code) : State :=
  let w := s.wide
  s.dstX d w fun l =>
    match shflLane mode l (s.src b w l % 2 ^ 32) with
    | some j => if s.active.getLsbD j then s.src a w j else s.src a w l
    | none => s.src a w l

/-- The fields of SHFL: B is read at the element width, and its low 32 bits are the selector (R152, R153). -/
def State.shflIns (s : State) (op : Nat) (d a b : Code) : Ins :=
  { op := op, d := dstF d s.wide, a := srcF a s.wide, b := srcF b s.wide }

def execShflPick (d a b : Code) (s : State) : Host.Outcome State Fault Refusal :=
  s.issue (s.shflIns 0x50 d a b) fun s => .done (s.shfl 0 d a b)

def execShflLow (d a b : Code) (s : State) : Host.Outcome State Fault Refusal :=
  s.issue (s.shflIns 0x51 d a b) fun s => .done (s.shfl 1 d a b)

def execShflHigh (d a b : Code) (s : State) : Host.Outcome State Fault Refusal :=
  s.issue (s.shflIns 0x52 d a b) fun s => .done (s.shfl 2 d a b)

def execShflFlip (d a b : Code) (s : State) : Host.Outcome State Fault Refusal :=
  s.issue (s.shflIns 0x53 d a b) fun s => .done (s.shfl 3 d a b)

/-- The active lanes whose source bit of VOTE is 1 (R154). -/
def State.voteBits (s : State) (n : BitVec 1) (q : BitVec 3) : Mask :=
  let m := s.warp.pred q.toNat
  s.active &&& (if n = 1 then ~~~m else m)

/-- A predicate written with one bit in every active lane. -/
def State.setPAll (s : State) (p : Nat) (b : Bool) : State :=
  s.setP p s.active (if b then BitVec.allOnes 64 else 0)

/-- VOTE.ANY (R154): p is written, n is NEG, q is read. -/
def execVoteAny (p : BitVec 3) (n : BitVec 1) (q : BitVec 3) (s : State) : Host.Outcome State Fault Refusal :=
  s.issue { op := 0x54, d := .imm, a := .imm, b := .resv, preds := [p.toNat, q.toNat] } fun s =>
    .done (s.setPAll p.toNat (s.voteBits n q != 0))

def execVoteAll (p : BitVec 3) (n : BitVec 1) (q : BitVec 3) (s : State) : Host.Outcome State Fault Refusal :=
  s.issue { op := 0x55, d := .imm, a := .imm, b := .resv, preds := [p.toNat, q.toNat] } fun s =>
    .done (s.setPAll p.toNat (s.voteBits n q == s.active))

def execVoteBallot (d : Code) (n : BitVec 1) (q : BitVec 3) (s : State) : Host.Outcome State Fault Refusal :=
  s.issue { op := 0x56, d := dstKF d 2, a := .imm, b := .resv, preds := [q.toNat] } fun s =>
    .done (s.dstKX d true (s.voteBits n q).toNat)

/-- The active lanes that hold lane `l`'s value (R155). -/
def State.sameAs (s : State) (a : Code) (l : Nat) : Mask :=
  maskIn s.active fun j => s.src a s.wide j == s.src a s.wide l

/-- MATCH (R155): l is LE, p the predicate, reserved when LE is 0. -/
def execMatchLanes (d a : Code) (l : BitVec 1) (p : BitVec 3) (s : State) : Host.Outcome State Fault Refusal :=
  s.issue { op := 0x57, d := .opd d 0x15 2 2 false true, a := srcF a s.wide, b := .imm, preds := [p.toNat], ill := l == 0 && p != 0 }
    fun s =>
      let t := s.dstX d true fun i => (s.sameAs a i).toNat
      .done (if l = 1 then t.setP p.toNat s.active (maskIn s.active fun i => lowest (s.sameAs a i) == some i) else t)

/-- One sub-element of a reduction over values in lane order (R156). -/
def State.combine (s : State) (o : Nat) (xs : List Nat) : Nat :=
  let t := s.et
  match o, t.kind with
  | 0, .int sg => s.satElem sg (xs.foldl (fun a x => a + intValue t.w sg x) 0)
  | 0, .fp f => f.round s.md (Fv.sum s.md.rnd (xs.map (f.input s.md)))
  | 1, .int sg => match xs.map (intValue t.w sg) with
    | [] => if sg then 2 ^ (t.w - 1) - 1 else 2 ^ t.w - 1
    | x :: ys => satInt t.w sg false (ys.foldl Min.min x)
  | 2, .int sg => match xs.map (intValue t.w sg) with
    | [] => if sg then 2 ^ (t.w - 1) else 0
    | x :: ys => satInt t.w sg false (ys.foldl Max.max x)
  | 1, .fp f => f.round s.md ((xs.map (f.input s.md)).foldl Fv.min .nan)
  | 2, .fp f => f.round s.md ((xs.map (f.input s.md)).foldl Fv.max .nan)
  | 3, _ => xs.foldl (· &&& ·) (2 ^ t.w - 1)
  | 4, _ => xs.foldl (· ||| ·) 0
  | _, _ => xs.foldl (· ^^^ ·) 0

/-- The combination of the lanes of a list, per sub-element. -/
def State.reduce (s : State) (o : Nat) (a : Code) (ls : List Nat) : Nat :=
  let t := s.et
  t.pack fun i => s.combine o (ls.map fun l => t.elem (s.src a t.wide l) i)

/-- REDUX (R156). -/
def execRedux (d a : Code) (o : BitVec 3) (s : State) : Host.Outcome State Fault Refusal :=
  s.issue { op := 0x58, d := dstKF d (if s.wide then 2 else 1), a := srcF a s.wide, b := .imm, bad := decide (6 ≤ o.toNat) } fun s =>
    .done (s.dstKX d s.wide (s.reduce o.toNat a (lanesOf s.active)))

/-- SCAN (R156): e is EXCL. -/
def execScan (d a : Code) (e : BitVec 1) (o : BitVec 3) (s : State) : Host.Outcome State Fault Refusal :=
  s.issue { op := 0x59, d := dstF d s.wide, a := srcF a s.wide, b := .imm, bad := decide (6 ≤ o.toNat) } fun s =>
    .done (s.dstX d s.wide fun l =>
      s.reduce o.toNat a ((lanesOf s.active).filter fun j => if e = 1 then decide (j < l) else decide (j ≤ l)))

/-- ELECT (R157). -/
def execElect (p : BitVec 3) (s : State) : Host.Outcome State Fault Refusal :=
  s.issue { op := 0x5A, d := .imm, a := .resv, b := .resv, preds := [p.toNat] } fun s =>
    .done (s.setP p.toNat s.active (maskIn s.active fun l => lowest s.active == some l))

/-- The active lanes whose value differs from that of the lowest active lane. -/
def State.differing (s : State) (a : Code) (wide : Bool) : Mask :=
  match lowest s.active with
  | none => 0
  | some f => maskIn s.active fun l => s.src a wide l != s.src a wide f

/-- KGET (R158): f is FIRST. -/
def execKget (d a : Code) (f : BitVec 1) (s : State) : Host.Outcome State Fault Refusal :=
  s.issue { op := 0x5B, d := .opd d 0x02 1 1 false true, a := srcF a s.wide, b := .imm } fun s =>
    match lowest s.active with
    | none => .done s
    | some l =>
      if f = 0 ∧ s.differing a s.wide ≠ 0 then .trap { code := 0x08, mask := s.differing a s.wide, addr := 0, cause := 0 }
      else .done (s.setK d (BitVec.ofNat 64 (s.src a s.wide l)))

end Sys2Proof.Machine
end

