-- ==== Sys2Proof/Machine/Uniform.lean ====
section
/-! DEFINITION. Uniform operations (R159, R160); KLD stands with the memory instructions. -/

namespace Sys2Proof.Machine

/-- A source of a uniform operation: k (h in solo mode), literal or zero (R159). -/
def kSrcF (c : Code) : Fld := .opd c 0x1A 1 1 true false

/-- A two-source uniform operation (R159). -/
def State.issueK (s : State) (op : Nat) (d a b : Code) (f : DWord → DWord → DWord) : Host.Outcome State Fault Refusal :=
  s.issue { op := op, d := kDstF d, a := kSrcF a, b := kSrcF b } fun s => .done (s.setK d (f (s.srcU a) (s.srcU b)))

def execKadd (d a b : Code) (s : State) : Host.Outcome State Fault Refusal := s.issueK 0x60 d a b fun x y => x + y

def execKsub (d a b : Code) (s : State) : Host.Outcome State Fault Refusal := s.issueK 0x61 d a b fun x y => x - y

def execKmul (d a b : Code) (s : State) : Host.Outcome State Fault Refusal := s.issueK 0x62 d a b fun x y => x * y

def execKand (d a b : Code) (s : State) : Host.Outcome State Fault Refusal := s.issueK 0x63 d a b fun x y => x &&& y

def execKor (d a b : Code) (s : State) : Host.Outcome State Fault Refusal := s.issueK 0x64 d a b fun x y => x ||| y

def execKxor (d a b : Code) (s : State) : Host.Outcome State Fault Refusal := s.issueK 0x65 d a b fun x y => x ^^^ y

def execKshl (d a b : Code) (s : State) : Host.Outcome State Fault Refusal :=
  s.issueK 0x66 d a b fun x y => if 64 ≤ y.toNat then 0 else x <<< y.toNat

def execKshr (d a b : Code) (s : State) : Host.Outcome State Fault Refusal :=
  s.issueK 0x67 d a b fun x y => if 64 ≤ y.toNat then 0 else x >>> y.toNat

def execKmov (d a : Code) (s : State) : Host.Outcome State Fault Refusal :=
  s.issue { op := 0x68, d := kDstF d, a := kSrcF a, b := .resv } fun s => .done (s.setK d (s.srcU a))

/-- The comparisons of KCMP (R160). -/
def kcompare (c : Nat) (x y : DWord) : Bool :=
  match c with
  | 0 => x == y
  | 1 => x != y
  | 2 => x.slt y
  | 3 => x.sle y
  | 4 => y.slt x
  | 5 => y.sle x
  | 6 => x.ult y
  | 7 => x.ule y
  | 8 => y.ult x
  | _ => y.ule x

/-- Writes a predicate in every lane of the fragment (R160), or a handler bit (R258). -/
def State.setPFrag (s : State) (p : Nat) (b : Bool) : State :=
  match s.grp.solo, s.warp.solo with
  | true, some h => if p = 7 then s else { s with warp := { s.warp with solo := some { h with hp := setBit h.hp p b } } }
  | true, none => s
  | _, _ => s.setP p s.warp.frag.mask (if b then BitVec.allOnes 64 else 0)

/-- KCMP (R160): c is COND, p the predicate written. -/
def execKcmp (c : BitVec 4) (p : BitVec 3) (a b : Code) (s : State) : Host.Outcome State Fault Refusal :=
  s.issue { op := 0x69, d := .imm, a := kSrcF a, b := kSrcF b, preds := [p.toNat], bad := decide (10 ≤ c.toNat) } fun s =>
    .done (s.setPFrag p.toNat (kcompare c.toNat (s.srcU a) (s.srcU b)))

/-- KSEL (R159). -/
def execKsel (d a b : Code) (s : State) : Host.Outcome State Fault Refusal :=
  s.issue { op := 0x6A, d := kDstF d, a := kSrcF a, b := kSrcF b } fun s =>
    let m := s.fragMask
    let g := s.active &&& m
    if g = m then .done (s.setK d (s.srcU a))
    else if g = 0 then .done (s.setK d (s.srcU b))
    else
      let low := (lowest m).any fun l => g.getLsbD l
      .trap { code := 0x08, mask := if low then m &&& ~~~g else g, addr := 0, cause := 0 }

end Sys2Proof.Machine
end

