-- ==== Sys2Proof/Machine/Sync.lean ====
section
/-! DEFINITION. Counters, barriers, copies, transfers, remote register writes, work fetch and quotas as they issue
(R197–R217). -/

namespace Sys2Proof.Machine

/-! Counters. -/

/-- A source that gives 64 bits: a v register is one register zero-extended (R201). -/
def State.src64 (s : State) (c : Code) (l : Nat) : Nat := if c.toNat ≤ 0xBF then s.src c false l else s.src c true l

/-- CADD (R201). -/
def execCadd (d a b : Code) (s : State) : Host.Outcome State Fault Refusal :=
  s.issue { op := 0x90, d := .opd d 0x11 2 2 false true, a := addr64F a false, b := .opd b 0x3F 1 1 true false } fun s =>
    let va := s.addr64Plain a
    let m := s.performers
    let bad := misaligned m 8 va
    if bad ≠ 0 then .trap (misalignedTrap bad va)
    else if m = 0 then .done s.clearElig
    else if s.slotsFull || s.acquiring || s.releaseBusy then .hold
    else
      let data := forLanes m (fun l t =>
        let x := s.src64 b l
        wr (wr t (4 * l) (BitVec.ofNat 32 x)) (4 * l + 1) (BitVec.ofNat 32 (x / 2 ^ 32))) []
      let (s', lanes, faults) := s.clearElig.openLanes m (.cadd d) va
      s'.launchOp (.cadd d) lanes faults data

/-- The precise form of the counter's home rules (R200). -/
def counterTrap (place : Nat) (m : Mask) (va : DWord) : Option TrapInfo :=
  if placePeer place then some { code := 0x27, mask := m, addr := va, cause := 0 }
  else if placeHome place = 1 then some { code := 0x20, mask := m, addr := va, cause := 5 }
  else none

/-- CWAIT (R202): met at once, or the fragment waits with a watch; the wait names the group after. -/
def execCwait (d a b : Code) (s : State) : Host.Outcome State Fault Refusal :=
  s.issue { op := 0x91, d := .opd d 0x12 1 1 false true, a := .opd a 0x02 1 1 true false, b := .opd b 0x1A 1 1 true false, bad := decide (d.toNat ≤ 0x0F) || decide (a.toNat ≤ 0x0F) || decide (b.toNat ≤ 0x0F) } fun s =>
    let ea := s.srcU a
    let tgt := s.srcU b
    let m := s.fragMask
    if ea.toNat % 8 ≠ 0 then .trap { code := 0x09, mask := m, addr := ea, cause := 0 }
    else s.withPre ea 8 .r m fun s place =>
      let pa := placePa place
      match counterTrap place m ea with
      | some t => .trap t
      | none =>
        if s.acquiring || s.bytesOwned pa 8 || !s.inOrder s.selfOp ea.toNat pa 8 false || s.sliceBusy s.selfOp (s.selfReq ea place) then .hold
        else
          let s := s.mergeBytes pa 8
          let v := s.memQ pa
          if tgt ≤ v then .done ((s.acquireAt s.warp.core).setK d v)
          else .again s (.cwait pa tgt d s.nextPc) m

/-! Barriers. -/

/-- The warps of the workgroup of the warp that issues. -/
def State.wgWarps (s : State) : Nat := match s.launchOf s.warp.launch, s.warp.kind with
  | _, .fragment => 1
  | some l, _ => l.kd.warps
  | none, _ => 1

/-- The warps of a workgroup that have live lanes. -/
def State.liveWarps (s : State) (lid idx : Nat) : Nat :=
  (s.allWarps.filter fun w => w.launch == lid && w.wg == idx && w.liveLanes != 0).length

/-- The count that an arrival names: COUNT, or the workgroup's live warps (R204). -/
def State.barCount (s : State) (lid idx c : Nat) : Nat := if c = 0 then s.liveWarps lid idx else c

/-- The generation of barrier `n` of a workgroup. -/
def Wg.bar (g : Wg) (n : Nat) : BarState :=
  (SMap.find n g.bars).getD { gen := 0, count := 0, byZero := false, arrived := [], since := 0, timedOut := false }

/-- Whether the fragment's BAR completes its warp's arrival with a count that differs (R204). -/
def State.barMismatch (s : State) (n c : Nat) : Bool :=
  let others := s.warp.frags
  let here (f : Frag) : Option Nat := match f.state, f.wait with
    | .waiting, .bar m k => if m = n then some k else none
    | _, _ => none
  let complete := others.all fun e => (here e.2).isSome
  let differs := others.any fun e => (here e.2) != some c
  let fixed := match s.wg with
    | some g => let b := g.bar n
      b.count != 0 && b.count != s.barCount s.warp.launch s.warp.wg c
    | none => false
  complete && (differs || fixed)

/-- Whether every other live fragment of the warp waits at barrier `n`, so that a BAR completes its warp's arrival (R122). -/
def State.barCompletes (s : State) (n : Nat) : Bool :=
  s.warp.frags.all fun e => e.2.state == .waiting && (match e.2.wait with
    | .bar m _ => m == n
    | _ => false)

/-- BAR (R204): the fragment waits; its warp arrives once every live fragment does (State.barriers). The group that completes
the arrival is held until the warp's earlier reads have returned. -/
def execBar (c : Code) (n : BitVec 3) (s : State) : Host.Outcome State Fault Refusal :=
  s.issue { op := 0x92, d := .resv, a := .imm, b := .imm, bad := decide (16 < c.toNat) || decide (s.wgWarps < c.toNat) } fun s =>
    if s.performers = 0 then .done s
    else if s.barCompletes n.toNat ∧ !s.readsBack s.warp.uid then .hold
    else if s.barMismatch n.toNat c.toNat then .trap { code := 0x0E, mask := s.active, addr := 0, cause := 0 }
    else .waits s (.bar n.toNat c.toNat)

/-- GBAR (R205). -/
def execGbar (n : BitVec 2) (s : State) : Host.Outcome State Fault Refusal :=
  s.issue { op := 0x93, d := .resv, a := .resv, b := .imm } fun s =>
    if s.performers = 0 then .done s
    else
      match s.launchOf s.warp.launch with
      | some l => if l.gang then .waits s (.gbar n.toNat) else .trap { code := 0x0F, mask := s.active, addr := 0, cause := 0 }
      | none => .trap { code := 0x0F, mask := s.active, addr := 0, cause := 0 }

/-- Whether every live fragment of a warp waits at barrier `n` with one count (R122, R204). A warp whose fragments wait with
different counts once the last other fragment has left by EXIT, or with a count that is not the generation's, does not
arrive (log entry 65). -/
def Warp.atBar (w : Warp) (n : Nat) : Option Nat :=
  match w.live with
  | [] => .none
  | e :: rest => match e.2.state, e.2.wait with
    | .waiting, .bar m c =>
      if m = n ∧ rest.all fun f => f.2.state == .waiting && f.2.wait == .bar n c then some c else .none
    | _, _ => .none

/-- Whether every live fragment of a warp waits at grid barrier `n`. -/
def Warp.atGbar (w : Warp) (n : Nat) : Bool :=
  !w.live.isEmpty && w.live.all fun e => e.2.state == .waiting && e.2.wait == .gbar n

/-- Wakes a warp's fragments that satisfy `p`. -/
def Warp.wakeWhere (w : Warp) (p : Wait → Bool) : Warp :=
  w.live.foldl (fun w e => if e.2.state = .waiting ∧ p e.2.wait then w.wakeFrag e.1 else w) w

def Wait.isBar (n : Nat) : Wait → Bool
  | .bar m _ => m == n
  | _ => false

/-- A generation opens when the first fragment waits at its barrier: its timeout runs from then (R122, R361). -/
def State.openBar (s : State) (w : Warp) (n : Nat) : State :=
  match s.wgOf w.launch w.wg with
  | some g =>
    if (g.bar n).since = 0 && w.live.any fun e => e.2.state == .waiting && Wait.isBar n e.2.wait then
      s.onWg w.launch w.wg fun g => { g with bars := SMap.insert n { g.bar n with since := s.clock } g.bars }
    else s
  | none => s

/-- One warp's arrival at barrier `n` (R204): the first of a generation fixes its count. -/
def State.arrive (s : State) (w : Warp) (n : Nat) : State :=
  match w.atBar n, s.wgOf w.launch w.wg with
  | some c, some g =>
    let b := g.bar n
    if b.arrived.contains w.uid || !s.readsBack w.uid then s
    else
      let k := s.barCount w.launch w.wg c
      let first := b.arrived.isEmpty && b.count == 0
      if !first && b.count ≠ k then s
      else
        let b' : BarState := { b with arrived := b.arrived ++ [w.uid], count := k, byZero := if first then c == 0 else b.byZero }
        s.onWg w.launch w.wg fun g => { g with bars := SMap.insert n b' g.bars }
  | _, _ => s

/-- The accesses of the warps `uids` before their barrier come before the later ones of every warp among them (R204,
R273). -/
def State.orderAfter (s : State) (uids : List Nat) : State :=
  let ids := ((s.ops.filter fun o => uids.contains o.uid && (o.kind.reads || o.kind.writes || o.kind.paths)).map (·.id)) ++
    (s.allWarps.filter fun w => uids.contains w.uid).flatMap (·.after)
  s.onWarps (fun w => uids.contains w.uid) fun w => { w with after := (s.ops.filter fun o => o.uid != w.uid && ids.contains o.id).map (·.id) }

/-- A generation whose count has arrived releases its warps, and the next begins (R204); exits lower a count that
COUNT 0 fixed. -/
def State.releaseBar (s : State) (g : Wg) (n : Nat) : State :=
  match SMap.find n g.bars with
  | none => s
  | some b =>
    if b.count = 0 then s
    else
      let k := if b.byZero then Min.min b.count (s.liveWarps g.launch g.idx) else b.count
      let set (s : State) (b : BarState) : State := s.onWg g.launch g.idx fun g => { g with bars := SMap.insert n b g.bars }
      if k ≤ b.arrived.length ∧ b.arrived ≠ [] then
        let s := set s { gen := b.gen + 1, count := 0, byZero := false, arrived := [], since := 0, timedOut := false }
        (s.orderAfter b.arrived).onWarps (fun w => b.arrived.contains w.uid) fun w => w.wakeWhere (Wait.isBar n)
      else if k = b.count then s
      else set s { b with count := k }

/-- A workgroup's arrival at grid barrier `n` (R205): every live warp waits at it, and its earlier accesses, those of warps that have
exited among them, have completed (R273). -/
def State.arriveGrid (s : State) (g : Wg) (n : Nat) : State :=
  let all := s.allWarps.filter fun w => w.launch == g.launch && w.wg == g.idx
  let ws := all.filter fun w => w.liveLanes != 0
  let b := (SMap.find n g.gbars).getD { gen := 0, arrived := false, since := 0, timedOut := false }
  let waits := ws.any fun w => w.live.any fun e => e.2.wait == .gbar n
  let b := if waits && b.since = 0 then { b with since := s.clock } else b
  let b := if g.onCore && !ws.isEmpty && ws.all (fun w => w.atGbar n) && all.all s.released then { b with arrived := true } else b
  if waits ∨ b.arrived then s.onWg g.launch g.idx fun g => { g with gbars := SMap.insert n b g.gbars } else s

/-- A grid generation completes when every workgroup of the launch has arrived or exited (R205): every waiting warp
is released after an acquire, one of a saved workgroup too, which acquires when it is restored (R366). -/
def State.releaseGrid (s : State) (l : Launch) (n : Nat) : State :=
  let gs := s.wgs.filter fun g => g.launch == l.lid && !fragWg g.idx
  let here (g : Wg) : Bool := (SMap.find n g.gbars).any fun b => b.arrived
  if gs.isEmpty || !l.unplaced.isEmpty || !gs.all here then s
  else
    let s := gs.foldl (fun s g => if g.onCore then s.acquireAt g.core else s) s
    let next (g : Wg) : Wg :=
      let b := (SMap.find n g.gbars).getD { gen := 0, arrived := false, since := 0, timedOut := false }
      { g with gbars := SMap.insert n { gen := b.gen + 1, arrived := false, since := 0, timedOut := false } g.gbars }
    let s : State := { s with
      wgs := s.wgs.map fun g => if g.launch = l.lid then next g else g
      saved := s.saved.map fun w => if w.launch = l.lid then w.wakeWhere (· == .gbar n) else w }
    s.onWarps (fun w => w.launch == l.lid) fun w => w.wakeWhere fun x => x == .gbar n

/-- The barriers between two steps: arrivals, and generations that are complete. -/
def State.barriers (s : State) : State :=
  let s := s.allWarps.foldl (fun s w => (List.range 8).foldl (fun s n => (s.openBar w n).arrive w n) s) s
  let s := s.wgs.foldl (fun s g => (List.range 8).foldl (fun s n => s.releaseBar g n) s) s
  let gang := s.launches.filter fun l => l.gang
  let s := (s.wgs.filter fun g => gang.any fun l => l.lid == g.launch).foldl (fun s g =>
    (List.range 4).foldl (fun s n => s.arriveGrid g n) s) s
  gang.foldl (fun s l => (List.range 4).foldl (fun s n => s.releaseGrid l n) s) s

/-! Copies. -/

/-- The dimensions of a descriptor (R206). -/
def copyDims (bs : List Byte) (n : Nat) : List (Nat × DWord × DWord) :=
  (List.range n).map fun d =>
    (recField bs (40 + 24 * d) 4, BitVec.ofNat 64 (recField bs (48 + 24 * d) 8), BitVec.ofNat 64 (recField bs (56 + 24 * d) 8))

/-- A well-formed copy descriptor (R206). -/
def copyOk (bs : List Byte) : Bool :=
  let f := recField bs
  let n := f 1 1
  let e := f 2 1
  let dims := copyDims bs n
  f 0 1 == 1 && decide (1 ≤ n) && decide (n ≤ 9) && decide (e ≤ 4) && f 3 1 / 2 == 0 && recZero bs 4 8 &&
  f 8 8 % 2 ^ e == 0 && f 16 8 % 2 ^ e == 0 && f 24 8 % 8 == 0 &&
  (List.range n).all (fun d => recZero bs (44 + 24 * d) (48 + 24 * d)) &&
  dims.all (fun d => d.1 != 0 && d.2.1.toNat % 2 ^ e == 0 && d.2.2.toNat % 2 ^ e == 0) &&
  decide (dims.foldl (fun p d => p * d.1) 1 ≤ 2 ^ 36)

/-- Jobs in an engine of a cluster. -/
def State.engineLoad (s : State) (cluster engine : Nat) : Nat :=
  (s.copyJobs.filter fun j => j.cluster == cluster && j.engine == engine).length

/-- Free queue entries of a cluster's two engines (R207). -/
def State.engineRoom (s : State) (cluster : Nat) : Nat := (64 - s.engineLoad cluster 0) + (64 - s.engineLoad cluster 1)

/-- Hands a copy to an engine with a free entry; which of two is a free choice (log entry 9). -/
def State.submitCopy (s : State) (lane : Nat) (desc : DWord) (bs : List Byte) : State :=
  let f := recField bs
  let cl := clusterOf s.warp.core
  let pick := s.freeValue.toNat % 2
  let e := if s.engineLoad cl pick < 64 then pick else 1 - pick
  let job : CopyJob := { id := s.nextOp, cluster := cl, engine := e, uid := s.warp.uid, launch := s.warp.launch, asid := s.asid, core := s.warp.core, slot := s.warp.slot, pc := s.grp.pc, lane := lane, desc := desc, esize := f 2 1, zero := (f 3 1).testBit 0, src := BitVec.ofNat 64 (f 8 8), dst := BitVec.ofNat 64 (f 16 8), cnt := BitVec.ofNat 64 (f 24 8), cinc := BitVec.ofNat 64 (f 32 8), dims := copyDims bs (f 1 1), index := 0, written := false, parked := none }
  { s with nextOp := s.nextOp + 1, freeCtr := s.freeCtr + 1, copyJobs := s.copyJobs ++ [job] }

/-- The bytes of a descriptor read as a number. -/
def descBytes (n x : Nat) : List Byte := leBytes n x

/-- The lanes' copies are submitted, or their descriptors refused with COPY_FORMAT (R207). -/
def State.submitCopies (s : State) (a : Code) : List (Nat × Nat) → State
  | [] => s
  | (l, x) :: rest =>
    let bs := descBytes 256 x
    let da := s.addr64Plain a l
    State.submitCopies (if copyOk bs then s.submitCopy l da bs else s.fault 0x28 0 (laneBit l) da 0) a rest

/-- What CPY and CPY.Y share; `after` ends the group with the number of the first copy and whether a descriptor was
refused. -/
def State.copyGroup (s : State) (a : Code) (after : State → Nat → Bool → Eff) : Eff :=
  let va := s.addr64Plain a
  let m := s.performers
  let bad := misaligned m 64 va
  if bad ≠ 0 then .trap (misalignedTrap bad va)
  else if m = 0 then .done s.clearElig
  else if s.slotsFull || s.releaseBusy || decide (s.engineRoom (clusterOf s.warp.core) < (lanesOf m).length) then .hold
  else s.clearElig.withReads m 256 va fun s xs =>
    after (s.submitCopies a xs) s.nextOp (xs.any fun e => !copyOk (descBytes 256 e.2))

/-- CPY (R207). -/
def execCpy (a : Code) (s : State) : Host.Outcome State Fault Refusal :=
  s.issue { op := 0x94, d := .resv, a := addr64F a false, b := .resv } fun s => s.copyGroup a fun s _ _ => .done s

/-- CPY.Y (R209): b is the continuation PC's register. -/
def execCpyY (a b : Code) (s : State) : Host.Outcome State Fault Refusal :=
  s.issue { op := 0x95, d := .resv, a := addr64F a false, b := .opd b 0x02 1 1 true false } fun s =>
    let cont := s.srcU b
    let va := s.addr64Plain a
    if misaligned s.performers 64 va = 0 ∧ s.performers ≠ 0 ∧ cont.toNat % 4 ≠ 0 then
      .trap { code := 0x09, mask := s.active, addr := cont, cause := 0 }
    else s.copyGroup a fun s first faulted =>
      let jobs := (s.copyJobs.filter fun j => decide (first ≤ j.id)).map (·.id)
      if s.warp.uid = 0 ∧ !s.warp.resident then .moved s
      else if jobs.isEmpty then .done s
      else .waits s (.cpyY cont jobs faulted)

/-! Transfers. -/

/-- A valid PEER entry (R422). -/
def State.peerValid (s : State) (d : Nat) : Bool := bit (s.portQ (0x1000 + 8 * d)) 0

/-- The members of a valid group entry (R422). -/
def State.groupMembers (s : State) (g : Nat) : List Nat :=
  if bit (s.portQ (0x2000 + 64 * g + 32)) 0 then
    (List.range 256).filter fun d => bit (s.portQ (0x2000 + 64 * g + 8 * (d / 64))) (d % 64)
  else []

/-- A well-formed transfer descriptor (R210). -/
def xferOk (get : Bool) (bs : List Byte) : Bool :=
  let f := recField bs
  f 0 1 == 1 && f 1 1 / 2 == 0 && (get || (f 2 1 == 0 && f 4 2 == 0)) && decide (1 ≤ f 24 4) && decide (f 24 4 ≤ 2 ^ 24) &&
  recZero bs 28 32 && f 32 8 % 8 == 0 && recZero bs 40 64 && (f 1 1 % 2 == 0 || decide (f 3 1 ≤ 63))

/-- Step 3 of R211 and stage 1 of R427: the transfer submitted, or the code and AUX of its failure (R422, R423,
R428). -/
def State.openXfer (s : State) (get : Bool) (lane : Nat) (desc : DWord) (bs : List Byte) : Except (Nat × Nat) Xfer :=
  let f := recField bs
  let group := f 1 1 % 2 == 1
  let rcpt := f 3 1
  let me := s.selfId
  let owner := if get then f 2 1 else me
  let cred := s.credOf s.asid
  let recips := if group then s.groupMembers rcpt else [rcpt]
  let lost := (((if get then [owner] else []) ++ recips).filter fun d => !s.peerValid d)
  if !s.grouped then .error (0x2B, if get then owner else rcpt + (if group then 0x100 else 0))
  else if cred = 0 then .error (0x2A, me)
  else if recips.isEmpty then .error (0x2B, 0x100 + rcpt)
  else match lost with
    | d :: ds => .error (0x2B, ds.foldl Min.min d)
    | [] => .ok { id := s.nextOp, uid := s.warp.uid, launch := s.warp.launch, asid := s.asid, core := s.warp.core, slot := s.warp.slot, pc := s.grp.pc, lane := lane, get := get, desc := desc, owner := owner, recips := recips, expWin := f 4 2, landWin := f 6 2, src := BitVec.ofNat 64 (f 8 8), dstOff := BitVec.ofNat 64 (f 16 8), len := f 24 4, ack := BitVec.ofNat 64 (f 32 8), cred := cred, group := (if group then some rcpt else none), since := s.clock, parked := none, data := none, answered := [], confirmed := [], posted := false, foreign := false, admitted := none, landed := false }

/-- What leaves the device for a peer (R427): kind 0x100 the data of stage 4, 0x101 a confirmation, 0x102 a failure, 0x103 the request of
stage 2. -/
def State.sendPeer (s : State) (kind : Nat) (error : Bool) (bs : List Byte) : State :=
  { s with outbox := s.outbox ++ [{ kind := kind, error := error, bytes := bs }] }

/-- The pair that every request carries (R423): the requester's device id and its context's credential. -/
def peerPair (dev : Nat) (cred : BitVec 32) : List Byte := leBytes 2 dev ++ leBytes 4 cred.toNat

/-- Stage 2 of a GETX (R427): the request, with its recipient list, to an owner that is another device. -/
def State.sendRequest (s : State) (x : Xfer) : State :=
  if !x.get || x.owner == s.selfId then s
  else s.sendPeer 0x103 false (leBytes 2 x.owner ++ peerPair s.selfId x.cred ++ leBytes 2 x.expWin ++ leBytes 8 x.src.toNat ++ leBytes 4 x.len ++
    leBytes 2 x.landWin ++ leBytes 8 x.dstOff.toNat ++ leBytes 2 x.recips.length ++ x.recips.flatMap fun d => leBytes 2 d)

/-- The lanes' transfers are submitted, or refused (R211, R212). -/
def State.submitXfers (s : State) (get : Bool) (a : Code) : List (Nat × Nat) → State
  | [] => s
  | (l, x) :: rest =>
    let bs := descBytes 64 x
    let da := s.addr64Plain a l
    let s := if !xferOk get bs then s.fault 0x29 0 (laneBit l) da 0
      else match s.openXfer get l da bs with
        | .error (code, aux) => s.fault code 0 (laneBit l) da (BitVec.ofNat 64 aux)
        | .ok x => ({ s with nextOp := s.nextOp + 1, xfers := s.xfers ++ [x] } : State).sendRequest x
    State.submitXfers s get a rest

/-- What GETX and PUTX share (R211). -/
def State.xferGroup (s : State) (get : Bool) (a : Code) : Eff :=
  let va := s.addr64Plain a
  let m := s.performers
  let bad := misaligned m 64 va
  if bad ≠ 0 then .trap (misalignedTrap bad va)
  else if m = 0 then .done s.clearElig
  else if s.slotsFull || s.releaseBusy then .hold
  else s.clearElig.withReads m 64 va fun s xs => .done (s.submitXfers get a xs)

/-- GETX (R211). -/
def execGetx (a : Code) (s : State) : Host.Outcome State Fault Refusal :=
  s.issue { op := 0x96, d := .resv, a := addr64F a false, b := .resv } fun s => s.xferGroup true a

/-- PUTX (R211). -/
def execPutx (a : Code) (s : State) : Host.Outcome State Fault Refusal :=
  s.issue { op := 0x97, d := .resv, a := addr64F a false, b := .resv } fun s => s.xferGroup false a

/-! Remote register writes. -/

/-- The warp that a target word names, if an RWR may write register `d` of it (R213). -/
def State.rwrTarget (s : State) (uid core slot lid48 : Nat) (d : Code) (wide : Bool) : Option Warp :=
  match s.allWarps.find? (fun w => w.placedOn && w.core == core && w.slot == slot) with
  | none => none
  | some w =>
    if w.uid = uid ∨ w.launch % 2 ^ 48 ≠ lid48 then none
    else if d.toNat ≤ 0xBF ∧ 16 * (w.quota + 1) < d.toNat + (if wide then 2 else 1) then none
    else some w

/-- RWR (R213): d is the target's register code. -/
def execRwr (d a b : Code) (s : State) : Host.Outcome State Fault Refusal :=
  let k := decide (0xC0 ≤ d.toNat)
  s.issue { op := 0x98, d := .remote d (if s.wide then 2 else 1), a := if k then .opd a 0x0A 1 1 true false else srcF a s.wide, b := .opd b 0x02 1 1 true false } fun s =>
    let m := s.performers
    if m = 0 then .done s.clearElig
    else if s.slotsFull || s.releaseBusy then .hold
    else
      let s := s.clearElig
      let t := s.srcU b
      let core := clusterOf s.warp.core * 4 + field t 0 2
      let slot := field t 2 6
      let lid48 := field t 16 48
      let wide := s.wide && !k
      if field t 8 8 ≠ 0 ∨ (s.rwrTarget s.warp.uid core slot lid48 d wide).isNone then .done (s.fault 0x2C 0 m 0 0)
      else
        let id := s.nextOp
        let vals : SMap DWord := if k then [(0, s.srcU a)] else forLanes m (fun l t => SMap.insert l (BitVec.ofNat 64 (s.src a wide l)) t) []
        let r : Rwr := { id := id, uid := s.warp.uid, code := d, core := core, slot := slot, lid48 := lid48, wide := wide, mask := m, vals := vals, op := id }
        let s := s.newOp .rwr [] []
        .done { s with rwrs := s.rwrs ++ [r] }

/-! Work fetch. -/

/-- FETCHW (R214). -/
def execFetchw (a : Code) (s : State) : Host.Outcome State Fault Refusal :=
  s.issue { op := 0x99, d := .resv, a := .opd a 0x0A 1 1 true false, b := .resv } fun s =>
    let off := s.src a false 0
    let m := s.performers
    if m = 0 then .done s.clearElig
    else if off % 32 ≠ 0 then .trap { code := 0x09, mask := m, addr := BitVec.ofNat 64 off, cause := 0 }
    else if s.sramSize < off + 32 then .trap { code := 0x0A, mask := m, addr := BitVec.ofNat 64 off, cause := 0 }
    else match s.wg with
      | none => .done s
      | some g =>
        if s.slotsFull || decide (4 ≤ g.fetch.length) || g.fetch.any fun r => r.mailbox == off then .hold
        else
          let s := s.clearElig.sramWrite off (leBytes 4 0 ++ leBytes 4 g.seq)
          .done (s.onWg s.warp.launch s.warp.wg fun g =>
            { g with seq := (g.seq + 1) % 2 ^ 32, fetch := g.fetch ++ [{ mailbox := off, seq := g.seq }] })

/-! Quotas. -/

/-- Acquisitions of a core that wait, for blocks or for tiles (R216). -/
def State.acqWaiting (s : State) (core : Nat) (tiles : Bool) : List Op :=
  s.ops.filter fun o => o.core == core && (match o.kind with
    | .acquireRegs _ _ _ => !tiles
    | .acquireTiles _ _ _ => tiles
    | .shadowReq _ => tiles && o.data.isEmpty
    | _ => false)

/-- Whether a core and the budgets can give a warp `n` more blocks or tiles (R215). -/
def State.canAcquire (s : State) (w : Warp) (n : Nat) (tiles : Bool) : Bool :=
  decide (n ≤ if tiles then s.freeTiles w.core else s.freeBlocks w.core) &&
  (match s.launchOf w.launch with
    | some l => s.withinBudget l (if tiles then ⟨0, 0, n, 0⟩ else ⟨0, n, 0, 0⟩)
    | none => true)

/-- A granted acquisition: new blocks read zero, new tiles are not valid (R215). -/
def Warp.grant (w : Warp) (n : Nat) (tiles : Bool) : Warp :=
  if tiles then { w with tquota := w.tquota + n } else { w with quota := w.quota + n }

/-- What RACQ and TACQ share (R215, R216). -/
def State.acquireGroup (s : State) (n : Nat) (try_ : Bool) (p : Nat) (tiles : Bool) : Eff :=
  let have_ := if tiles then s.warp.tquota else s.warp.quota
  let limit := if tiles then 8 else 11
  if limit < have_ + n then .trap { code := if tiles then 0x05 else 0x04, mask := s.active, addr := 0, cause := 0 }
  else
    if (s.launchOf s.warp.launch).any s.budgetOwned then .hold else
    let ok := (s.acqWaiting s.warp.core tiles).isEmpty && s.canAcquire s.warp n tiles
    let granted : State := { s with warp := if ok then s.warp.grant n tiles else s.warp }
    if try_ then .done (granted.setPFrag p ok)
    else if ok then .done granted
    else
      let id := s.nextOp
      .waits (s.newOp (if tiles then .acquireTiles n p false else .acquireRegs n p false) [] []) (.acquire id)

/-- The fields of RACQ and TACQ: D is reserved when TRY is clear (R197). -/
def acquireIns (op : Nat) (t : BitVec 1) (p : BitVec 3) (n : BitVec 16) (limit : Nat) : Ins :=
  { op := op, d := .imm, a := .imm, b := .imm, preds := if t = 1 then [p.toNat] else [], ill := t == 0 && p != 0, bad := decide (limit < n.toNat) }

def execRacq (t : BitVec 1) (p : BitVec 3) (n : BitVec 16) (s : State) : Host.Outcome State Fault Refusal :=
  s.issue (acquireIns 0x9A t p n 11) fun s => s.acquireGroup n.toNat (t == 1) p.toNat false

def execTacq (t : BitVec 1) (p : BitVec 3) (n : BitVec 16) (s : State) : Host.Outcome State Fault Refusal :=
  s.issue (acquireIns 0x9C t p n 8) fun s => s.acquireGroup n.toNat (t == 1) p.toNat true

/-- RREL (R215): the highest blocks return, their contents lost. -/
def execRrel (n : BitVec 16) (s : State) : Host.Outcome State Fault Refusal :=
  s.issue { op := 0x9B, d := .resv, a := .imm, b := .imm, bad := decide (11 < n.toNat) } fun s =>
    let q := s.warp.quota
    if q < n.toNat then .trap { code := 0x04, mask := s.active, addr := 0, cause := 0 }
    else
      let first := 16 * (q - n.toNat + 1)
      if s.ops.any fun o => o.uid == s.warp.uid && overlap first (16 * n.toNat) o.pendingV.1 o.pendingV.2 then .hold
      else .done { s with warp := { s.warp with quota := q - n.toNat, v := s.warp.v.filter fun e => decide (e.1 < 64 * first) } }

/-- The tiles from `t` on, their status and shadows gone (R23, R215). -/
def Warp.dropTiles (w : Warp) (t : Nat) : Warp :=
  let keep : Byte := BitVec.ofNat 8 (2 ^ t - 1)
  { w with
    tiles := w.tiles.filter fun e => decide (e.1 < 4096 * t)
    shadow := w.shadow.filter fun e => decide (e.1 < 4096 * t)
    tv := w.tv &&& keep, td := w.td &&& keep, tf := w.tf &&& keep, ts := w.ts &&& keep, tpair := w.tpair &&& keep }

/-- Whether an operation of the warp still reads or writes a tile from `t` on. -/
def State.tilesBusy (s : State) (t : Nat) : Bool :=
  decide (2 ^ t ≤ s.warp.tf.toNat) || s.warpHas s.warp.uid fun o => match o.kind with
    | .tileLoad i _ _ => decide (t ≤ i)
    | .tileStore i _ _ => decide (t ≤ i)
    | _ => false

/-- TREL (R215). -/
def execTrel (n : BitVec 16) (s : State) : Host.Outcome State Fault Refusal :=
  s.issue { op := 0x9D, d := .resv, a := .imm, b := .imm, bad := decide (8 < n.toNat) } fun s =>
    let t := s.warp.tquota
    if t < n.toNat then .trap { code := 0x05, mask := s.active, addr := 0, cause := 0 }
    else if n ≠ 0 ∧ s.tilesBusy (t - n.toNat) then .hold
    else .done { s with warp := { s.warp.dropTiles (t - n.toNat) with tquota := t - n.toNat } }

end Sys2Proof.Machine
end

