-- ==== Sys2Proof/Machine/Select.lean ====
section
/-! DEFINITION. Which fragment a partition issues (R112, R115, R345), and the ends of warps (R121, R360). -/

namespace Sys2Proof.Machine

/-- A handler that can issue: it waits for nothing, or for a trap that ends its wait. -/
def Solo.ready (h : Solo) : Bool :=
  !h.debugStopped && (match h.wait with
    | .none => true
    | .refused _ _ _ _ => true
    | _ => false)

/-- Whether the fragment in entry `e`, or the handler that serves it, can issue. -/
def Warp.canIssue (w : Warp) (e : Nat) : Bool :=
  let f := w.fragAt e
  (f.mask != 0 && f.state == .ready) || (w.solo.any fun h => h.entry == e && h.ready)

/-- Fragments that a fault domain parks stop at their next group boundary, which is not between two repetitions (R360). -/
def Warp.parkMarked (w : Warp) : Warp :=
  let due (f : Frag) : Bool := f.parkPend && f.state == .ready && f.group.isNone
  if w.live.any fun e => due e.2 then
    let w := if w.live.any fun e => due e.2 && e.2.lrpc.isSome then w.forceOff else w
    w.setLive (w.live.map fun e =>
      if due e.2 then (e.1, { e.2 with parkPend := false, state := .waiting, wait := .parked }) else e)
  else w

/-- The entries of a warp in the order in which its next group is looked for (R112): an open chain's fragment alone, and after a
split alone the part in F's entry while it can issue. -/
def Warp.order (w : Warp) : List Nat :=
  let cyclic := (allLanes.map fun i => (w.svcPtr + 1 + i) % 64)
  match w.live.find? (fun e => e.2.lrpc.isSome), w.splitNext with
  | some e, _ => [e.1]
  | none, some e => if w.canIssue e then [e] else cyclic
  | none, none => cyclic

/-- The entry that issues next, and the warp once fragments that stand at their join address have gone to join
(R115). A fragment whose group is held (`held`) is not ready while another one is. -/
def Warp.pick (held : Warp → Nat → Bool) : Nat → Warp → Warp × Option Nat
  | 0, w => (w, .none)
  | n + 1, w =>
    let ready := match w.order.filter w.canIssue with
      | [e] => some e
      | es => match es.find? (fun e => w.meets e || !held w e) with
        | some e => some e
        | none => es.head?
    match ready with
    | none => (w, .none)
    | some e =>
      if w.meets e then Warp.pick held n { w.meetJoin e with splitNext := .none } else (w, some e)

/-- Whether a warp of a workgroup that runs or drains has a fragment that can issue. -/
def State.runnable (s : State) (w : Warp) : Bool :=
  (match s.wgOf w.launch w.wg with
    | some g => g.pre == .running || g.pre == .draining
    | none => false) && w.order.any w.canIssue

/-- The warps of a partition that have a ready fragment; prologues run on their front ends. -/
def State.candidates (s : State) (p : Nat) : List Warp :=
  s.allWarps.filter fun w => w.partition == p && (match w.kind with
    | .prologue _ => false
    | _ => true) && s.runnable w

/-- Effective PRIO of a warp's launch. -/
def State.prioOf (s : State) (w : Warp) : Nat := (s.region w.launch).prio

/-- The element of a list with the least key. -/
def leastBy {α : Type} (key : α → Nat) : List α → Option α
  | [] => none
  | a :: as => match leastBy key as with
    | none => some a
    | some b => if key b < key a then some b else some a

/-- The warp that a partition issues (R108, R345). -/
def State.choose (s : State) (p : Nat) : List Warp → Option Warp
  | [] => none
  | [w] => some w
  | ws =>
    let ws := if ws.any fun w => SMap.find p s.passed != some w.uid then
      ws.filter fun w => SMap.find p s.passed != some w.uid else ws
    match ws.find? Warp.chainOpen with
    | some w => some w
    | none =>
      let top := ws.foldl (fun m w => Max.max m (s.prioOf w)) 0
      let ws := ws.filter fun w => s.prioOf w == top
      let aged := ws.filter fun w => decide (w.readySince + 256 ≤ s.clock)
      match leastBy Warp.readySince aged with
      | some w => some w
      | none => match ws.find? (fun w => SMap.find p s.lastIssue == some w.uid) with
        | some w => some w
        | none => leastBy Warp.placed ws

/-- The group of the fragment in entry `e`, at the repetition at which it stands (R85), or of its handler, before its
fetch. -/
def Warp.groupAt (w : Warp) (e : Nat) : Group :=
  let f := w.fragAt e
  let own : Group := { Group.empty with pc := f.pc &&& ~~~3, repIx := f.repcnt }
  match w.solo with
  | some h => if h.entry = e then { Group.empty with pc := h.pc &&& ~~~3, solo := true } else own
  | none => own

/-- When another warp issues, the one that issued last leaves its issue slot: its latches become invalid (R21). -/
def State.leaveSlot (s : State) (uid : Nat) : State :=
  match s.findWarp uid with
  | none => s
  | some w => match SMap.find w.partition s.lastIssue with
    | none => s
    | some u => if u = uid then s else s.onWarp u fun x => if x.chainOpen then x else { x with latValid := 0 }

/-- A fragment, or handler, that takes its place again (R286): one that had parked as a whole issues for all its lanes (R117). -/
def Frag.placed (f : Frag) : Frag :=
  let trap := match f.wait with
    | .refused _ _ _ _ => true
    | _ => false
  { f with holds := [], whole := false, pmask := if f.whole && !trap then 0 else f.pmask }
def Solo.placed (h : Solo) : Solo := { h with holds := [] }

/-- The warp `uid` made the one that issues, its entry `e` in front (R112). -/
def State.select (s : State) (uid e : Nat) (now : Bool) : State :=
  let s := (if now then s.leaveSlot uid else s).focusWarp uid
  let w := s.warp.focus e
  { s with
    via := match w.kind with
      | .prologue _ => []
      | _ => viaPartition w.core (w.slot / 16)
    warp := if now then { w with svcPtr := e, splitNext := none, readySince := s.clock, heldGrp := none, frag := w.frag.placed, solo := w.solo.map fun h => if h.entry = e then h.placed else h } else w
    grp := w.groupAt e
    lastIssue := if now then SMap.insert w.partition uid s.lastIssue else s.lastIssue
    passed := if now then SMap.erase w.partition s.passed else s.passed }

/-- The trap that ends the wait of the fragment or handler in front (R300, R313, R357), if there is one. -/
def State.pendingTrap (s : State) : Option TrapInfo :=
  let t (w : Wait) (m : Mask) : Option TrapInfo := match w with
    | .refused code cause va aux => some { code := code, mask := m, addr := va, cause := cause, aux := aux }
    | _ => none
  match s.grp.solo, s.warp.solo with
  | true, some h => t h.wait 1
  | _, _ => t s.warp.frag.wait s.warp.frag.pmask

/-- The group to which that trap belongs (R92, R357): the one that parked, its chain open as it was. -/
def State.parkedGroup (s : State) : State :=
  match s.grp.solo, s.warp.frag.parkPc with
  | false, some pc => { s with
      grp := { s.grp with pc := pc }
      warp := { s.warp with frag := { s.warp.frag with lrpc := some s.warp.frag.pc } } }
  | _, _ => s

/-- The wait ended. -/
def State.clearWait (s : State) : State := s.waitFor .none 0 |> fun t =>
  if s.grp.solo then t else { t with warp := { t.warp with frag := { t.warp.frag with state := .ready } } }

/-- The group with the repetition at which it stands (R85). -/
def State.openGroup (s : State) (g : Group) : State :=
  { s with grp := { g with repIx := if g.rep.isSome && !g.solo then s.warp.frag.repcnt else 0 } }

/-- A repeated group between two repetitions (R88): checks 1 to 3 have been made. -/
def State.begun (s : State) : Option Group :=
  if s.grp.solo then none else s.warp.frag.group.filter fun g => g.pc == s.grp.pc

/-- The group in front: the one begun, or fetched. -/
def State.nextGroup (s : State) : State × GroupFetch :=
  match s.begun with
  | some g => (s, .ok g)
  | none => s.fetchGroup s.grp

/-- A held group leaves the machine as it stood (R91, R193); its warp is not ready meanwhile, and a warp whose chain is
open remembers the group. -/
def State.heldBack (s : State) (uid e : Nat) (g : Group) : State :=
  (s.onWarp uid fun w => { w with
    readySince := s.clock
    heldGrp := if w.chainOpen then some { entry := e, grp := g, since := (w.heldGrp.map (·.since)).getD s.clock, off := false } else w.heldGrp }).hold

/-- The warps of a partition that have a fragment, but none that is ready, do not wait for the partition (R345). -/
def State.ages (s : State) (p : Nat) (ready : List Warp) : State :=
  s.onWarps (fun w => w.partition == p && !ready.any fun r => r.uid == w.uid) fun w => { w with readySince := s.clock }

/-! Ends of warps. -/

/-- Whether a warp's own operations are over, so that it can leave its slot (R121). -/
def State.quiet (s : State) (uid : Nat) : Bool := !s.ops.any fun o => o.uid == uid

/-- A warp taken out of the machine. -/
def State.removeWarp (s : State) (uid : Nat) : State :=
  { s with
    warp := if s.warp.uid = uid ∧ s.warp.resident then Warp.empty else s.warp
    warps := s.warps.filter fun w => w.uid != uid
    ops := s.ops.filter fun o => o.uid != uid }

/-- A fragment between two repetitions of its group (R85). -/
def Frag.inGroup (f : Frag) : Bool := f.state == .ready && f.group.isSome

/-- The lanes of a killed launch's warp leave at their group boundary (R360); a handler ends with its fragment, and an open
fill fails with 0xFFFE (R192). -/
def State.killWarp (s : State) (uid : Nat) : State :=
  match s.findWarp uid with
  | none => s
  | some w =>
    let s := s.failOpen w 0xFFFE
    let gone (o : Op) : Bool := o.uid == uid && (match o.kind with
      | .acquireRegs _ _ _ => true
      | .acquireTiles _ _ _ => true
      | .shadowReq _ => true
      | .sysc _ => true
      | _ => false)
    let s : State := { s with ops := s.ops.filter fun o => !gone o }
    s.onWarp uid fun w =>
      let out : Mask := w.live.foldl (fun m e => if e.2.inGroup then m else m ||| e.2.mask) 0
      { (w.exitLanes out) with solo := if (w.solo.any fun h => (w.fragAt h.entry).inGroup) then w.solo else .none }

/-- A workgroup whose last warp has ended leaves its core (R121); its launch counts it. -/
def State.endWg (s : State) (lid idx : Nat) : State :=
  let s : State := { s with wgs := s.wgs.filter fun g => !(g.launch == lid && g.idx == idx) }
  if fragWg idx then s else s.onLaunch lid fun l => { l with exited := l.exited ++ [idx] }

/-- A warp with no live lane and no operation of its own leaves the machine (R121); a spawned warp then steps its
launch's JOIN (R350). -/
def State.endWarp (s : State) (w : Warp) : State :=
  let s := ((s.passExit w).removeWarp w.uid).onWg w.launch w.wg fun g => { g with uids := g.uids.filter (· != w.uid) }
  let s := match s.launchOf w.launch with
    | some l => if l.join = 0 then s else s.counterStep (some l.asid) l.join.toNat 1
    | none => s
  match s.wgOf w.launch w.wg with
  | some g => if g.uids.isEmpty then s.endWg w.launch w.wg else s
  | none => s

/-- The saved warps of a workgroup leave with it, and the calls they wait for; an open fill fails with 0xFFFE (R192, R360). -/
def State.dropSaved (s : State) (g : Wg) : State :=
  let s := (s.saved.filter fun w => g.uids.contains w.uid).foldl (fun s w => s.failOpen w 0xFFFE) s
  { s with
    saved := s.saved.filter fun w => !g.uids.contains w.uid
    ops := s.ops.filter fun o => !g.uids.contains o.uid }

/-- Whether a launch has been killed (R360). -/
def State.killed (s : State) (lid : Nat) : Bool := match s.launchOf lid with
  | some l => l.killed
  | none => false

/-- What happens at the group boundary between two steps: killed launches lose their warps and their workgroups that
are not placed, and warps that are over end. -/
def State.reap (s : State) : State :=
  let real (w : Warp) : Bool := match w.kind with
    | .prologue _ => false
    | _ => true
  let s := (s.allWarps.filter fun w => real w && s.killed w.launch).foldl (fun s w => s.killWarp w.uid) s
  let s := (s.wgs.filter fun g => s.killed g.launch && g.pre == .saved).foldl (fun s g => (s.dropSaved g).endWg g.launch g.idx) s
  let s : State := { s with launches := s.launches.map fun l => if l.killed then { l with unplaced := [] } else l }
  (s.allWarps.filter fun w => real w && w.liveLanes == 0 && s.quiet w.uid).foldl (fun s w => s.endWarp w) s

/-- Drops the reservation of a service core whose bytes have changed (R392; log entry 69). -/
def State.checkResv (s : State) (v : Svc) : Svc :=
  if v.resv.any fun r => s.memRead r.1 r.2.1 != r.2.2 then { v with resv := none } else v

/-- Time passes (R32): the counter steps that are owed are tried again, requesters that found a waiter list full present their
accesses again every 256 ck (R312), and a warp that cannot issue is not waiting for the partition (R345). -/
def State.tick (s : State) : State :=
  let now := s.clock + Config.elapsed s.ticks
  let polls := decide (s.clock / 256 < now / 256)
  let s : State := { s with ticks := s.ticks + 1, clock := now, stalled := false, via := [] }
  let s := s.settleTraces.reap.barriers.runSteps
  let s := s.wakePolls polls
  let s : State := { s with svcs := s.svcs.map fun e => (e.1, s.checkResv e.2) }
  s.l2Evict.onWarps (fun w => !s.runnable w) fun w => { w with readySince := s.clock }

end Sys2Proof.Machine
end

