-- ==== Sys2Proof/Machine/Engines.lean ====
section
/-! DEFINITION. What the agents behind the synchronisation instructions do: watches (R203), barrier timeouts (R361),
copy engines (R208), the peer group's transfers (R427, R428), remote register writes (R213), the distributor (R214) and
the quota pools (R216). An event whose condition does not hold changes nothing. -/

namespace Sys2Proof.Machine

/-! Watches. -/

/-- ck in `n` microseconds, at 800 MHz (R32). -/
def microseconds (n : Nat) : Nat := 800 * n

/-- A waiting CWAIT whose target is met acquires, writes D and goes on (R202). -/
def State.watchMet (s : State) (w : Warp) (target d : DWord) (pa : Nat) (go : DWord → Warp → Warp) : State :=
  let owned := s.bytesOwned pa 8
  let s := s.mergeBytes pa 8
  let v := s.memQ pa
  if !owned && decide (target ≤ v) then
    let s := s.acquireAt w.core
    let s := s.onWarp w.uid fun w =>
      let w : Warp := if 0xC0 ≤ d.toNat ∧ d.toNat ≤ 0xEF then { w with k := wr w.k (d.toNat - 0xC0) v } else w
      go v w
    s.onWg w.launch w.wg fun g => { g with retired := g.retired + 1 }
  else s

/-- Whether an upcall mailbox has a free slot (R402): what a handler that waits on HEAD is woken for. -/
def State.mailboxRoom (s : State) (asid : BitVec 16) (sys : Bool) (mb : DWord) : Bool :=
  match s.reachAs (some asid) mb.toNat .r sys with
  | some pa =>
    let t := s.mergeBytes pa 64
    (2 ^ 64 + t.memRead (pa + 8) 8 - t.memRead pa 8) % 2 ^ 64 != 2 ^ t.memRead (pa + 16) 1
  | none => true

/-- A watch looked at again; entry 64 names the handler. -/
def State.watchTry (s : State) (uid e : Nat) : State :=
  match s.findWarp uid with
  | none => s
  | some w =>
    if e = 64 then
      match w.solo with
      | some h => (match h.wait with
        | .cwait pa target d next =>
          s.watchMet w target (d.setWidth 64) pa fun _ w => { w with solo := some { h with wait := .none, pc := next } }
        | .upcall a => if bit a 0 && s.mailboxRoom (s.asidOf w.launch) (s.region w.launch).system (a - 1) then s.onWarp uid fun w => { w with solo := some { h with wait := .none } } else s
        | _ => s)
      | none => s
    else
      let f := w.fragAt e
      match f.state, f.wait with
      | .waiting, .cwait pa target d next =>
        s.watchMet w target (d.setWidth 64) pa fun _ w => (w.wakeFrag e).onFrag e fun f => { f with pc := next }
      | _, _ => s

/-- WATCH_WAKE (R203): the monitor finds a watch's target met. -/
def execWatchWake (w e : Nat) (s : State) : Host.Outcome State Fault Refusal := .next (s.watchTry w e)

/-- WATCH_POLL (R203): a waiter without a watch entry re-reads its counter. -/
def execWatchPoll (w e : Nat) (s : State) : Host.Outcome State Fault Refusal := .next (s.watchTry w e)

/-! Barrier timeouts. -/

/-- The lanes of a warp that wait at a barrier, and the address of the group of the lowest waiting fragment: a BAR or
GBAR group is one word. -/
def Warp.barLanes (w : Warp) (p : Wait → Bool) : Mask × DWord :=
  let fs := w.live.filter fun e => e.2.state == .waiting && p e.2.wait
  (fs.foldl (fun m e => m ||| e.2.mask) 0, (fs.head?.map fun e => e.2.pc - 4).getD 0)

/-- The records of a barrier timeout (R361): one for each waiting warp of a workgroup, or of the launch. -/
def State.postTimeout (s : State) (lid : Nat) (idx : Option Nat) (n : Nat) (p : Wait → Bool) : State :=
  (s.allWarps.filter fun w => w.launch == lid && (idx.isNone || idx == some w.wg)).foldl (fun s w =>
    let lanes := w.barLanes p
    if lanes.1 = 0 then s
    else s.postFault w.uid (w.faultRec s 0x30 0 lanes.2 lanes.1 (BitVec.ofNat 64 n) 0)) s

/-- The present generation of a launch's grid barrier (R205): since when it has been open, and whether its timeout has
been posted. -/
def State.gridOpen (s : State) (lid n : Nat) : Nat × Bool :=
  let bs := ((s.wgs.filter fun g => g.launch == lid).filterMap fun g => SMap.find n g.gbars).filter fun b => b.since != 0
  (bs.foldl (fun m b => if m = 0 then b.since else Min.min m b.since) 0, bs.any (·.timedOut))

/-- BAR_TIMEOUT (R361): of a workgroup's barrier, or of its launch's grid barrier; that of a saved workgroup waits for its restore. -/
def execBarTimeout (lid wg : Nat) (grid : Bool) (n : Nat) (s : State) : Host.Outcome State Fault Refusal :=
  let tmo := (s.region lid).bartmo
  .next (match s.wgOf lid wg with
    | none => s
    | some g =>
      if tmo = 0 ∨ g.pre = .saved then s
      else if grid then
        let b := s.gridOpen lid n
        if b.2 ∨ b.1 = 0 ∨ s.clock < b.1 + microseconds tmo then s
        else
          let mark (g : Wg) : Wg := match SMap.find n g.gbars with
            | some b => { g with gbars := SMap.insert n { b with timedOut := true } g.gbars }
            | none => g
          let s : State := { s with wgs := s.wgs.map fun g => if g.launch = lid then mark g else g }
          s.postTimeout lid none n fun x => x == .gbar n
      else
        let b := g.bar n
        if b.timedOut ∨ b.since = 0 ∨ s.clock < b.since + microseconds tmo then s
        else (s.onWg lid wg fun g => { g with bars := SMap.insert n { b with timedOut := true } g.bars }).postTimeout lid (some wg) n
          (Wait.isBar n))

/-! Copy engines. -/

/-- Whether a job is at the head of its engine's queue. -/
def State.copyHead (s : State) (j : CopyJob) : Bool :=
  ((s.copyJobs.find? fun k => k.cluster == j.cluster && k.engine == j.engine).map (·.id)) == some j.id

/-- Whether a copy accepted earlier owns a line of `n` bytes at a physical address. R208 states ownership toward thread accesses alone:
that of two copies to one line the one accepted earlier goes first is the model's choice (DESIGN CHOICE, log entry 66). -/
def State.ownedBefore (s : State) (j : CopyJob) (pa n : Nat) : Bool :=
  (List.range (lineOf (pa + n - 1) + 1 - lineOf pa)).any fun i => s.copyJobs.any fun k => decide (k.id < j.id) && k.owns s (lineOf pa + i)

/-- Source and destination of the element with a linear index (R206). -/
def copyElement (j : CopyJob) : List (Nat × DWord × DWord) → Nat → DWord × DWord → DWord × DWord
  | [], _, p => p
  | (n, ss, ds) :: dims, i, p =>
    copyElement j dims (i / n) (p.1 + BitVec.ofNat 64 (i % n) * ss, p.2 + BitVec.ofNat 64 (i % n) * ds)

/-- A job changed. -/
def State.onJob (s : State) (id : Nat) (f : CopyJob → CopyJob) : State :=
  { s with copyJobs := modifyFirst (fun j => j.id == id) f s.copyJobs }

/-- `Translate` for an engine (R208): a place, or the state after its park or fault. An engine that finds a waiter list or its cluster's
miss table full comes again (R302, R312). -/
def State.engineReach (s : State) (j : CopyJob) (va : DWord) (acc : Acc) : State × Option Nat :=
  let miss (s : State) : State × Option Nat :=
    if s.tableFull j.cluster j.asid [va.toNat / 4096] then (s, none)
    else (s.onJob j.id fun j => { j with parked := some (pageKey (va.toNat / 4096)) }, none)
  match (s.viaCluster j.cluster).translateIn j.asid va acc false none with
  | (s, .ok place _) => (s, some place)
  | (s, .fault code cause _) => (s.copyFault j code cause, none)
  | (s, .miss) => miss s
  | (s, .cow) => miss s
  | (s, .fill leader) => match s.touch j.asid va leader none with
    | (s, .park) => (s.onJob j.id fun j => { j with parked := some leader }, none)
    | (s, _) => (s, none)

/-- One element copied (R208). Its bytes are those of the home; a peer's page gives free values and takes nothing
(log entry 14). The model takes the elements in ascending linear index, each read and then written (log entry 66). -/
def State.copyOne (s : State) (j : CopyJob) : State :=
  let n := 2 ^ j.esize
  let (src, dst) := copyElement j j.dims j.index (j.src, j.dst)
  let total := j.dims.foldl (fun p d => p * d.1) 1
  let next (s : State) : State := s.onJob j.id fun j => { j with index := j.index + 1, written := decide (total ≤ j.index + 1) }
  let read : State × Option (List Byte) :=
    if j.zero then (s, some (List.replicate n 0))
    else match s.engineReach j src .r with
      | (s, some place) =>
        if placePeer place then ({ s with freeCtr := s.freeCtr + n }, some (s.freeBytes n))
        else if s.ownedBefore j (placePa place) n then (s, none)
        else
          let s := s.mergeBytes (placePa place) n
          (s, some (leBytes n (s.memRead (placePa place) n)))
      | (s, none) => (s, none)
  match read with
  | (s, none) => s
  | (s, some bs) => match s.engineReach j dst .w with
    | (s, none) => s
    | (s, some place) =>
      if placePeer place then next s
      else if s.ownedBefore j (placePa place) n then s
      else next (s.homeWrite none (placePa place) bs)

/-- COPY_ENGINE_COPY (R208): the engine moves the next element of the copy at the head of its queue. -/
def execCopyEngineCopy (job : Nat) (s : State) : Host.Outcome State Fault Refusal :=
  .next (match s.copyJobs.find? (fun j => j.id == job) with
    | some j => if s.copyHead j && !j.written && j.parked.isNone then s.copyOne j else s
    | none => s)

/-- COPY_COMPLETION (R208): the completion counter is stepped as by a CADD (R201), once no other copy owns its line. -/
def execCopyCompletion (job : Nat) (s : State) : Host.Outcome State Fault Refusal :=
  .next (match s.copyJobs.find? (fun j => j.id == job) with
    | none => s
    | some j =>
      if !s.copyHead j || !j.written || j.parked.isSome then s
      else if j.cnt = 0 then s.copyEnds j.id false
      else
        let bad (s : State) (code cause : Nat) : State :=
          (s.copyEnds j.id true).postFault j.uid { code := code, kind := 1, core := j.core, slot := j.slot, cause := cause, pc := j.pc, lanes := laneBit j.lane, addr := j.cnt, aux := 0, lid := j.launch, rcb := (s.region j.launch).rcb }
        match s.engineReach j j.cnt .rmw with
        | (s, none) => s
        | (s, some place) => match counterTrap place 0 j.cnt with
          | some t => bad s t.code t.cause
          | none => if s.bytesOwned (placePa place) 8 then s else match s.counterAdd (placePa place) j.cinc.toNat with
            | (s, _, true) => bad s 0x26 0
            | (s, _, false) => s.copyEnds j.id false)

/-! Windows and transfers. -/

/-- A window entry's bytes (R424). -/
def State.windowBytes (s : State) (w : Nat) : List Byte := (List.range 8).flatMap fun i => leBytes 8 (s.portQ (0x4000 + 64 * w + 8 * i)).toNat

/-- A well-formed, valid window entry (R424). -/
def windowOk (bs : List Byte) : Bool :=
  let f := recField bs
  f 0 1 == 1 && decide (f 1 1 ≤ 4) && recZero bs 4 8 && f 8 8 % 4096 == 0 && f 16 8 % 4096 == 0 && decide (4096 ≤ f 16 8) &&
  decide (f 16 8 ≤ 2 ^ 32) && f 24 8 % 8 == 0 &&
  (List.range 4).all fun i => f (32 + 8 * i) 8 / 2 ^ 11 % 2 ^ 5 == 0 && f (32 + 8 * i) 8 / 2 ^ 48 == 0

/-- The check of a right (R425): bit 9 READ, bit 10 DEPOSIT of a grant. It gives the window's bytes. -/
def State.windowCheck (s : State) (w right dev : Nat) (cred : BitVec 32) (off : DWord) (len : Nat) : Option (List Byte) :=
  let bs := s.windowBytes w
  let f := recField bs
  let grant (i : Nat) : Bool :=
    let g := f (32 + 8 * i) 8
    g.testBit right && g / 2 ^ 16 % 2 ^ 32 == cred.toNat && (g.testBit 8 || g % 256 == dev)
  if w ≤ 4095 && windowOk bs && decide (off.toNat + len ≤ f 16 8) && (List.range (f 1 1)).any grant then some bs else none

/-- What reaching a range of a context gives. -/
inductive RangeReach where
  | ok (pieces : List (Nat × Nat))
  | wait
  | fault (code cause : Nat) (aux : DWord)
deriving DecidableEq, Repr

/-- The pages of [va, va + n) in a context, as places with their byte counts, for the requester `who`; `fuel` bounds the pages.
A page that is missing or filling makes the range wait. -/
def State.reachRange (s : State) (who : Nat) (asid : BitVec 16) (acc : Acc) : Nat → DWord → Nat → State × RangeReach
  | 0, _, _ => (s, .ok [])
  | fuel + 1, va, n =>
    if n = 0 then (s, .ok [])
    else
      let m := Min.min n (4096 - va.toNat % 4096)
      match s.agentTranslate who asid va acc false with
      | (s, .ok place _) => (match State.reachRange s who asid acc fuel (va + BitVec.ofNat 64 m) (n - m) with
        | (s, .ok ps) => (s, .ok ((place, m) :: ps))
        | r => r)
      | (s, .fault code cause aux) => (s, .fault code cause aux)
      | (s, _) => (s, .wait)

/-- Reads the pieces of a range at their homes (R284). -/
def State.readPieces (s : State) : List (Nat × Nat) → State × List Byte
  | [] => (s, [])
  | (place, n) :: ps =>
    let s := s.mergeBytes (placePa place) n
    let bs := if placePeer place then s.freeBytes n else leBytes n (s.memRead (placePa place) n)
    match State.readPieces s ps with
    | (s, rest) => (s, bs ++ rest)

/-- Writes the pieces of a range as landing writes (R276, R427). -/
def State.writePieces (s : State) : List (Nat × Nat) → List Byte → State
  | [], _ => s
  | (place, n) :: ps, bs =>
    State.writePieces (if placePeer place then s else s.homeWrite none (placePa place) (bs.take n)) ps (bs.drop n)

/-- Whether a copy engine owns a line of the pieces of a range. -/
def State.piecesOwned (s : State) (ps : List (Nat × Nat)) : Bool := ps.any fun p => !placePeer p.1 && s.bytesOwned (placePa p.1) p.2

/-- The requester that a transfer, or a peer's request, is as an agent without lanes (`State.agentTranslate`). -/
def Xfer.who (x : Xfer) : Nat := x.id + 2

/-- The result of a stage at the owner or at a recipient. -/
inductive StageResult where
  | wait
  | denied
  | failed (code cause : Nat) (aux : DWord)
  | ok (bs : List Byte)
deriving DecidableEq, Repr

/-- A transfer's record changed. -/
def State.onXfer (s : State) (id : Nat) (f : Xfer → Xfer) : State :=
  { s with xfers := modifyFirst (fun x => x.id == id) f s.xfers }

/-- The device whose request a record is, as this device's windows see it. -/
def State.xferDev (s : State) (x : Xfer) : Nat := if x.foreign then x.owner else s.selfId

/-- The check of a right for a record, made once (R426): what it admits stays admitted until the record is done with it. -/
def State.letIn (s : State) (x : Xfer) (w right : Nat) (off : DWord) (len : Nat) : Option Admit :=
  match x.admitted with
  | some a => some a
  | none => (s.windowCheck w right (s.xferDev x) x.cred off len).map fun bs =>
    let f := recField bs
    { window := w, asid := BitVec.ofNat 16 (f 2 2), va := BitVec.ofNat 64 (f 8 8) + off, cnt := BitVec.ofNat 64 (f 24 8) }

/-- A translation fault of a stage (R212, R428, R441), logged as event 3. -/
def State.stageFault (s : State) (dev : Nat) (off : DWord) (code cause : Nat) (aux : DWord) : State × StageResult :=
  (s.logEvent 3 dev off (BitVec.ofNat 64 code ||| (aux <<< 16)), .failed code cause aux)

/-- Stage 3 at this device (R427): the source of a GETX under READ, its refusals logged (R212, R441). -/
def State.sourceStage (s : State) (x : Xfer) : State × StageResult :=
  match s.letIn x x.expWin 9 x.src x.len with
  | none => (s.logEvent 1 (s.xferDev x) x.src 0, .denied)
  | some a =>
    match (s.onXfer x.id fun x => { x with admitted := some a }).reachRange x.who a.asid .r 4100 a.va x.len with
    | (s, .wait) => (s, .wait)
    | (s, .fault code cause aux) => s.stageFault (s.xferDev x) x.src code cause aux
    | (s, .ok ps) =>
      if s.piecesOwned ps then (s, .wait)
      else match s.readPieces ps with
        | (s, data) => (s, .ok data)

/-- The step of a landing counter (R211 step 5, R428): its page, block or line is waited for. A saturation names the counter (R201). -/
def State.landCount (s : State) (x : Xfer) (a : Admit) : State × StageResult :=
  if a.cnt = 0 then (s, .ok [])
  else match s.agentTranslate x.who a.asid a.cnt .rmw false with
  | (s, .ok place _) => (match counterTrap place 0 a.cnt with
    | some t => s.stageFault (s.xferDev x) x.dstOff t.code t.cause 0
    | none =>
      if s.bytesOwned (placePa place) 8 then (s, .wait)
      else match s.counterAdd (placePa place) 1 with
        | (s, _, true) => (s, .failed 0x26 0 a.cnt)
        | (s, _, false) => (s, .ok []))
  | (s, .fault code cause aux) => s.stageFault (s.xferDev x) x.dstOff code cause aux
  | (s, _) => (s, .wait)

/-- Stage 5 at this device (R427): DEPOSIT, the writes, and the landing counter's step. -/
def State.landStage (s : State) (x : Xfer) (data : List Byte) : State × StageResult :=
  match s.letIn x x.landWin 10 x.dstOff data.length with
  | none => (s.logEvent 2 (s.xferDev x) x.dstOff 0, .denied)
  | some a =>
    let s := s.onXfer x.id fun x => { x with admitted := some a }
    if x.landed then s.landCount x a
    else match s.reachRange x.who a.asid .w 4100 a.va data.length with
      | (s, .wait) => (s, .wait)
      | (s, .fault code cause aux) => s.stageFault (s.xferDev x) x.dstOff code cause aux
      | (s, .ok ps) =>
        if s.piecesOwned ps then (s, .wait)
        else ((s.writePieces ps data).onXfer x.id fun x => { x with landed := true }).landCount x a

/-- What a check of a peer's access to a page asks for, and the access of its translation (R425, R429). -/
def pageRights : PeerOp → List Nat × Acc
  | .load => ([9], .r)
  | .store _ => ([10], .w)
  | .atomic _ _ _ => ([9, 10], .rmw)

/-- What a peer's access to a page does to the pieces of its range at their homes, and the bytes it answers with. -/
def State.applyPeer (s : State) (ps : List (Nat × Nat)) : PeerOp → State × List Byte
  | .load => s.readPieces ps
  | .store bs => (s.writePieces ps bs, [])
  | .atomic o et bs => match s.readPieces ps with
    | (s, old) =>
      let n := atomBytes et
      (s.writePieces ps (leBytes n (atomOp o et (leValue old) (leValue (bs.take n)) (leValue ((bs.drop n).take n)))), old)

/-- An access through a peer-mapped page, at this device as the page's home (R425, R429): its refusals are logged as those of a source
read or of a landing are. -/
def State.pageStage (s : State) (x : Xfer) (p : PeerOp) : State × StageResult :=
  let dev := s.xferDev x
  let failed := (pageRights p).1.find? fun r => (s.letIn x x.expWin r x.src x.len).isNone
  match failed, s.letIn x x.expWin ((pageRights p).1.headD 9) x.src x.len with
  | some r, _ => (s.logEvent (r - 8) dev x.src 0, .denied)
  | none, none => (s, .denied)
  | none, some a =>
    match (s.onXfer x.id fun x => { x with admitted := some a }).reachRange x.who a.asid (pageRights p).2 2 a.va x.len with
    | (s, .wait) => (s, .wait)
    | (s, .fault code cause aux) => s.stageFault dev x.src code cause aux
    | (s, .ok ps) =>
      if s.piecesOwned ps then (s, .wait)
      else match s.applyPeer ps p with
        | (s, data) => (s, .ok data)

/-- A transfer of this device's, and a peer's source read or landing here. -/
def State.xferOf (s : State) (id : Nat) : Option Xfer := s.xfers.find? fun x => x.id == id && !x.foreign
def State.foreignOf (s : State) (id : Nat) : Option Xfer := s.xfers.find? fun x => x.id == id && x.foreign

def State.dropXfer (s : State) (id : Nat) : State := { s with xfers := s.xfers.filter fun x => x.id != id }

/-- A failure of a transfer, charged to its requester (R212, R428); a COUNTER_SATURATE names its counter, which AUX brings (R201, R358);
`ends` ends the transfer. -/
def State.xferFault (s : State) (x : Xfer) (code cause : Nat) (aux : DWord) (ends : Bool) : State :=
  let sat := code == 0x26
  let s := s.postFault x.uid { code := code, kind := 1, core := x.core, slot := x.slot, cause := cause, pc := x.pc, lanes := laneBit x.lane, addr := (if sat then aux else x.desc), aux := (if sat then 0 else aux), lid := x.launch, rcb := (s.region x.launch).rcb }
  if ends then s.dropXfer x.id else s.onXfer x.id fun x => { x with posted := true }

/-- AUX of a failure at a recipient (R358): the generator's code, the counter of a saturation, nothing for a refused edge, else the
device. -/
def landAux (code dev : Nat) (aux : DWord) : DWord :=
  if code = 0x21 ∨ code = 0x26 then aux else if code = 0x22 ∨ code = 0x23 then 0 else BitVec.ofNat 64 dev

/-- A recipient has answered; a transfer whose recipients have all answered, not all well, is over. -/
def State.xferAnswer (s : State) (x : Xfer) (dev : Nat) (ok : Bool) : State :=
  let s := s.onXfer x.id fun x =>
    { x with answered := x.answered ++ [dev], confirmed := if ok then x.confirmed ++ [dev] else x.confirmed }
  match s.xferOf x.id with
  | some y =>
    if y.recips.all (fun d => y.answered.contains d) && !(y.recips.all fun d => y.confirmed.contains d) then s.dropXfer x.id else s
  | none => s

/-- A recipient's failure. -/
def State.landFails (s : State) (x : Xfer) (dev code cause : Nat) (aux : DWord) : State :=
  (s.xferFault x code cause (landAux code dev aux) false).xferAnswer x dev false

/-- Stage 4 (R427): the data, one copy to each recipient that is another device. -/
def State.sendData (s : State) (x : Xfer) (data : List Byte) : State :=
  (x.recips.filter fun d => d != s.selfId).foldl (fun s d =>
    s.sendPeer 0x100 false (leBytes 2 d ++ peerPair (s.xferDev x) x.cred ++ leBytes 2 x.landWin ++ leBytes 8 x.dstOff.toNat ++ data)) s

/-- The failure of a foreign request, to its requester. -/
def State.sendFailure (s : State) (x : Xfer) (code cause : Nat) (aux : DWord) : State :=
  s.sendPeer 0x102 true (leBytes 2 x.owner ++ leBytes 2 code ++ leBytes 1 cause ++ leBytes 8 aux.toNat)

/-- A foreign landing, as far as it gets (R427 stage 5). -/
def State.landForeign (s : State) (x : Xfer) : State :=
  match s.landStage x (x.data.getD []) with
  | (s, .wait) => s
  | (s, .ok _) => (s.dropXfer x.id).sendPeer 0x101 false (leBytes 2 x.owner)
  | (s, .denied) => (s.dropXfer x.id).sendFailure x 0x2A 0 0
  | (s, .failed code cause aux) => (s.dropXfer x.id).sendFailure x code cause aux

/-- A foreign source read, as far as it gets (R427 stage 3): its data go to the recipients, of which this device may be one. -/
def State.readForeign (s : State) (x : Xfer) : State :=
  match s.sourceStage x with
  | (s, .wait) => s
  | (s, .ok data) =>
    let s := s.sendData x data
    if x.recips.contains s.selfId then
      let land (x : Xfer) : Xfer := { x with get := false, data := some data, admitted := none }
      let s := s.onXfer x.id land
      s.landForeign (land x)
    else s.dropXfer x.id
  | (s, .denied) => (s.dropXfer x.id).sendFailure x 0x2A 0 0
  | (s, .failed code cause aux) => (s.dropXfer x.id).sendFailure x code cause aux

/-- A peer's access to a page, as far as it gets (R429). -/
def State.pageForeign (s : State) (x : Xfer) (p : PeerOp) : State :=
  match s.pageStage x p with
  | (s, .wait) => s
  | (s, .ok data) => (s.dropXfer x.id).sendPeer (if data.isEmpty then 0x101 else 0x100) false (leBytes 2 x.owner ++ data)
  | (s, .denied) => (s.dropXfer x.id).sendFailure x 0x2A 0 0
  | (s, .failed code cause aux) => (s.dropXfer x.id).sendFailure x code cause aux

/-- A foreign record goes on. -/
def State.foreignTry (s : State) (x : Xfer) : State := match x.page with
  | some p => s.pageForeign x p
  | none => if x.get then s.readForeign x else s.landForeign x

/-- The record of a peer's request. -/
def State.foreignXfer (s : State) (get : Bool) (dev : Nat) (cred : BitVec 32) : Xfer :=
  { id := s.nextOp, uid := 0, launch := 0, asid := 0, core := 0, slot := 0, pc := 0, lane := 0, get := get, desc := 0, owner := dev, recips := [], expWin := 0, landWin := 0, src := 0, dstOff := 0, len := 0, ack := 0, cred := cred, group := none, since := s.clock, parked := none, data := none, answered := [], confirmed := [], posted := false, foreign := true, admitted := none, landed := false }

/-- A peer's request arrives, and goes as far as it gets. -/
def State.takeForeign (s : State) (x : Xfer) : State :=
  State.foreignTry { s with nextOp := s.nextOp + 1, xfers := s.xfers ++ [x] } x

/-- The source of a transfer of this device's that this device owns (R427 stages 3 and 4). -/
def State.ownSource (s : State) (x : Xfer) : State :=
  let local_ : State × StageResult := if x.get then s.sourceStage x
    else match s.reachRange x.who x.asid .r 4100 x.src x.len with
      | (s, .wait) => (s, .wait)
      | (s, .fault code cause aux) => (s, .failed code cause aux)
      | (s, .ok ps) =>
        if s.piecesOwned ps then (s, .wait)
        else match s.readPieces ps with
          | (s, data) => (s, .ok data)
  match local_ with
  | (s, .wait) => s
  | (s, .ok data) => (s.onXfer x.id fun x => { x with data := some data, admitted := none }).sendData x data
  | (s, .denied) => s.xferFault x 0x2A 0 (BitVec.ofNat 64 x.owner) true
  | (s, .failed code cause aux) => s.xferFault x code cause (if code = 0x21 then aux else 0) true

/-- A landing here of one of this device's transfers, as far as it gets (R427 stage 5). -/
def State.ownLanding (s : State) (x : Xfer) : State :=
  let me := s.selfId
  let done (s : State) : State := s.onXfer x.id fun x => { x with admitted := none, landed := false }
  match s.landStage x (x.data.getD []) with
  | (s, .wait) => s
  | (s, .ok _) => (done s).xferAnswer x me true
  | (s, .denied) => (done s).landFails x me 0x2A 0 0
  | (s, .failed code cause aux) => (done s).landFails x me code cause aux

/-- TRANSFER_SOURCE_READ (R427): a foreign request arrives at this device as its owner, a source read here goes on, or a transfer hears
from its owner. -/
def execTransferSourceRead (x : Nat) (foreign : Option XferReq) (reply : RemoteReply) (s : State) :
    Host.Outcome State Fault Refusal :=
  .next (match foreign with
    | some r => s.takeForeign { s.foreignXfer true r.requester r.cred with expWin := r.window, src := r.offset, len := r.len, recips := r.recips, landWin := r.landWin, dstOff := r.dstOff }
    | none => match s.foreignOf x, s.xferOf x with
      | some t, _ => if t.get || t.page.isSome then s.foreignTry t else s
      | none, none => s
      | none, some t =>
        if t.data.isSome then s
        else if t.owner = s.selfId then s.ownSource t
        else match reply with
          | .denied => s.xferFault t 0x2A 0 (BitVec.ofNat 64 t.owner) true
          | .failed code cause aux => s.xferFault t code.toNat cause.toNat (if code = 0x21 then aux else 0) true
          | .confirmed => s.onXfer x fun t => { t with data := some [] }
          | _ => s)

/-- TRANSFER_LANDING (R427): a foreign landing arrives, a landing here goes on, the data of a transfer arrive from another owner, or a
transfer hears from another recipient. -/
def execTransferLanding (x dev : Nat) (foreign : Option Deposit) (reply : RemoteReply) (s : State) :
    Host.Outcome State Fault Refusal :=
  let me := s.selfId
  .next (match foreign with
    | some d => s.takeForeign { s.foreignXfer false d.requester d.cred with landWin := d.window, dstOff := d.offset, data := some d.bytes, len := d.bytes.length }
    | none => match s.foreignOf x, s.xferOf x with
      | some t, _ => if t.get || t.page.isSome then s else s.foreignTry t
      | none, none => s
      | none, some t =>
          if t.data.isNone || !t.recips.contains dev || t.answered.contains dev then s
          else if dev = me then
            (match t.owner == me || t.admitted.isSome, reply with
              | true, _ => s.ownLanding t
              | false, .data bs =>
                let t := { t with data := some (bs.take t.len) }
                (s.onXfer x fun _ => t).ownLanding t
              | false, _ => s)
          else match reply with
            | .confirmed => s.xferAnswer t dev true
            | .denied => s.landFails t dev 0x2A 0 0
            | .failed code cause aux => s.landFails t dev code.toNat cause.toNat aux
            | _ => s)

/-- ACK of a transfer all of whose recipients have confirmed, stepped as by a CADD (R211 step 6). -/
def State.confirm (s : State) (t : Xfer) : State :=
  if t.data.isNone || t.posted || !(t.recips.all fun d => t.confirmed.contains d) then s
  else
    let bad (s : State) (code cause : Nat) : State :=
      (s.dropXfer t.id).postFault t.uid { code := code, kind := 1, core := t.core, slot := t.slot, cause := cause, pc := t.pc, lanes := laneBit t.lane, addr := t.ack, aux := 0, lid := t.launch, rcb := (s.region t.launch).rcb }
    if t.ack = 0 then s.dropXfer t.id
    else match s.agentTranslate t.who t.asid t.ack .rmw false with
      | (s, .ok place _) => (match counterTrap place 0 t.ack with
        | some i => bad s i.code i.cause
        | none => if s.bytesOwned (placePa place) 8 then s else match s.counterAdd (placePa place) 1 with
          | (s, _, true) => bad s 0x26 0
          | (s, _, false) => s.dropXfer t.id)
      | (s, .fault code cause _) => bad s code cause
      | (s, _) => s

/-- TRANSFER_CONFIRM (R211): every recipient has confirmed, and ACK is stepped. -/
def execTransferConfirm (x : Nat) (s : State) : Host.Outcome State Fault Refusal :=
  .next (match s.xferOf x with
    | none => s
    | some t => s.confirm t)

/-- A transfer whose access was refused takes its fault (R440, R441): the stage that waits is tried again. -/
def State.xferTry (s : State) (id : Nat) : State :=
  match s.foreignOf id, s.xferOf id with
  | some x, _ => s.foreignTry x
  | none, some x =>
    if x.data.isNone then s.ownSource x
    else if x.admitted.isSome then s.ownLanding x
    else s.confirm x
  | none, none => s

/-- Transfers and landings that waited for a block or page that is refused take their faults before anything else happens (R440). -/
def State.refuseXfers (s : State) : State :=
  (((s.agentWaits.filter fun w => w.refused.isSome && decide (2 ≤ w.who)).map fun w => w.who - 2).eraseDups).foldl (fun s id => s.xferTry id) s

/-- A write of a window's word (R426): it takes effect for checks at once, and completes when the requests that had passed their check
on the window are over. -/
def State.windowWrite (s : State) (svc : Option Nat) (off : Nat) (v : DWord) : State :=
  let w := (off - 0x4000) / 64
  let on := (s.xfers.filter fun x => x.admitted.any fun a => a.window == w).map (·.id)
  let s : State := { s with ports := wr s.ports off v }
  if on.isEmpty then s else { s with windowWrites := s.windowWrites ++ [{ window := w, svc := svc, on := on }] }

/-- Window writes whose admitted requests are over complete (R426). -/
def State.settleWindows (s : State) : State :=
  { s with windowWrites := s.windowWrites.filter fun w => w.on.any fun id => s.xfers.any fun x => x.id == id && x.admitted.any fun a => a.window == w.window }

/-- The access of a lane as the peer's home performs it. -/
def Op.peerOp (o : Op) (l : LaneReq) : PeerOp :=
  let two (n : Nat) : List Byte := leBytes n (laneV o.data l.lane) ++ leBytes n (laneC o.data l.lane)
  match o.kind with
  | .atom p et _ => .atomic p et (two (atomBytes et))
  | .red p et _ => .atomic p et (two (atomBytes et))
  | .store _ _ => .store (l.storeBytes o.kind o.data)
  | .tileStore _ _ _ => .store (l.storeBytes o.kind o.data)
  | _ => .load

/-- The request of a lane for a page of a peer, with the pair of its context (R423): the window, the offset and what it does. -/
def State.sendAccess (s : State) (o : Op) (l : LaneReq) : State :=
  let pa := placePa l.pa
  let what : List Byte := match o.peerOp l with
    | .load => leBytes 1 0
    | .store bs => leBytes 1 1 ++ bs
    | .atomic p et bs => leBytes 1 2 ++ leBytes 1 p ++ leBytes 1 et ++ bs
  s.sendPeer 0x104 false (leBytes 2 (placeId l.pa) ++ peerPair s.selfId (s.credOf o.asid) ++ leBytes 2 (pa / 2 ^ 32) ++ leBytes 4 (pa % 2 ^ 32) ++
    leBytes 4 (l.bytes o.kind) ++ what)

/-- A lane's store or reduction at a peer is acknowledged. -/
def State.peerDone (s : State) (o : Op) (l : LaneReq) : State := match o.kind with
  | .store _ _ => s.finishLane o l.lane
  | .red _ _ _ => s.finishLane o l.lane
  | .tileStore _ _ false => s.finishLane o l.lane
  | _ => s

/-- A lane's access to a page of this device that it maps as a peer's: every check is made here. -/
def State.ownPage (s : State) (o : Op) (l : LaneReq) : State :=
  let pa := placePa l.pa
  let x : Xfer := { s.foreignXfer false s.selfId (s.credOf o.asid) with id := o.id, expWin := pa / 2 ^ 32, src := BitVec.ofNat 64 (pa % 2 ^ 32), len := l.bytes o.kind }
  match s.pageStage x (o.peerOp l) with
  | (s, .wait) => s
  | (s, .ok data) => (s.peerData o l data).peerDone o l
  | (s, .denied) => s.laneFault o l 0x2A 0 l.va (BitVec.ofNat 64 (placeId l.pa))
  | (s, .failed code cause aux) => s.laneFault o l code cause l.va aux

/-- What a peer answers to a lane's access through a page that it maps (R429). -/
def State.peerReply (s : State) (o : Op) (l : LaneReq) (reply : RemoteReply) : State :=
  let denied (s : State) : State := s.laneFault o l 0x2A 0 l.va (BitVec.ofNat 64 (placeId l.pa))
  if s.credOf o.asid = 0 then denied s
  else if placeId l.pa = s.selfId then s.ownPage o l
  else match reply with
    | .here => s
    | .data bs => (s.sendAccess o l).peerData o l bs
    | .confirmed => (s.sendAccess o l).peerDone o l
    | .denied => denied (s.sendAccess o l)
    | .failed code cause aux => (s.sendAccess o l).laneFault o l code.toNat cause.toNat l.va aux

/-- PEER_PAGE_ACCESS (R429): an access through a page of a peer is made and answered, a context without a credential making none (R423;
log entry 14), or a peer's access to a page of this device arrives. -/
def execPeerPageAccess (op lane : Nat) (traffic : PeerTraffic) (s : State) : Host.Outcome State Fault Refusal :=
  .next (match traffic with
    | .arrives a => s.takeForeign { s.foreignXfer false a.requester a.cred with expWin := a.window, src := a.offset, len := a.len, page := some a.op }
    | .answer reply => match s.request op lane with
      | none => s
      | some (o, l) => if !placePeer l.pa || s.peerBefore o l then s else s.peerReply o l reply)

/-- PEER_TIMEOUT (R428, R429): a transfer unanswered for PTMO, or with `lane` an access through a peer-mapped page. -/
def execPeerTimeout (x : Nat) (lane : Option Nat) (s : State) : Host.Outcome State Fault Refusal :=
  .next (match lane with
    | some l => (match s.request x l with
      | some (o, q) => if placePeer q.pa && decide (q.since + microseconds s.ptmo.toNat ≤ s.clock) then (s.sendAccess o q).laneFault o q 0x2B 0 q.va (BitVec.ofNat 64 (placeId q.pa)) else s
      | none => s)
    | none => match s.xferOf x with
      | none => s
      | some t =>
        let silent := (if t.data.isNone then [t.owner] else []) ++ t.recips.filter fun d => !t.answered.contains d
        if s.clock < t.since + microseconds s.ptmo.toNat then s
        else match silent with
          | [] => s
          | d :: ds => s.xferFault t 0x2B 0 (BitVec.ofNat 64 (ds.foldl Min.min d)) true)

/-! Remote register writes. -/

/-- RWR_LANDING (R213): between two of the target's groups the registers are written, and its arrival counter is
stepped; a target that has left its slot is a fault of the issuer. -/
def execRwrLanding (x : Nat) (s : State) : Host.Outcome State Fault Refusal :=
  .next (match s.rwrs.find? (fun r => r.id == x) with
    | none => s
    | some r =>
      if (s.rwrTarget r.uid r.core r.slot r.lid48 r.code r.wide).any fun w => w.live.any fun e => e.2.inGroup then s
      else
      let s : State := { s with rwrs := s.rwrs.filter fun y => y.id != x }
      match s.rwrTarget r.uid r.core r.slot r.lid48 r.code r.wide with
      | none => (match s.opOf r.op with
        | some o => (s.opFault o 0x2C 0 r.mask 0 0).endOp r.op
        | none => s)
      | some w =>
        let s := s.onWarp w.uid fun w =>
          if 0xC0 ≤ r.code.toNat then { w with k := wr w.k (r.code.toNat - 0xC0) (rd r.vals 0) }
          else forLanes r.mask (fun l w => w.setV r.code.toNat l r.wide (rd r.vals l).toNat) w
        s.counterStepEnding (some (s.asidOf w.launch)) w.arrival.toNat 1 r.op)

/-! The distributor. -/

/-- The index of a workgroup in each dimension of its grid (R341). -/
def Launch.index (l : Launch) (i : Nat) : Nat × Nat × Nat := (i % l.gx, i / l.gx % l.gy, i / (l.gx * l.gy))

/-- FETCHW_REPLY (R214): the oldest request of a workgroup is answered with an unplaced workgroup, or exhaustion; the first INITIAL
workgroups are for placement alone (R343). -/
def execFetchwReply (lid wg : Nat) (s : State) : Host.Outcome State Fault Refusal :=
  .next (match s.wgOf lid wg, s.launchOf lid with
    | some g, some l =>
      (match g.fetch with
        | [] => s
        | r :: rest =>
          let base := g.core * 2 ^ 19 + g.sramBase + r.mailbox
          let write (s : State) (off : Nat) (bs : List Byte) : State :=
            { s with sram := (List.range bs.length).foldl (fun t i => wr t (base + off + i) (bs.getD i 0)) s.sram }
          let s := s.onWg lid wg fun g => { g with fetch := rest }
          let next := (l.unplaced.filter fun i => decide (l.initial ≤ i)).foldl (fun m i => match m with
            | some j => some (Min.min i j)
            | none => some i) (none : Option Nat)
          if !g.onCore then s.onWg lid wg fun _ => g
          else match l.persist, next with
            | true, some i =>
              let p := l.index i
              let s := s.onLaunch lid fun l => { l with unplaced := l.unplaced.filter (· != i), claimed := l.claimed ++ [i] }
              write (write s 8 (leBytes 4 p.1 ++ leBytes 4 p.2.1 ++ leBytes 4 p.2.2 ++ leBytes 12 0)) 0 (leBytes 4 1 ++ leBytes 4 r.seq)
            | _, _ => write s 0 (leBytes 4 2 ++ leBytes 4 r.seq))
    | _, _ => s)

/-! The quota pools. -/

/-- Grants the oldest waiting acquisition of one kind on a core, if it can be met (R216). -/
def State.grantOldest (s : State) (core : Nat) (tiles : Bool) : State :=
  match s.acqWaiting core tiles with
  | [] => s
  | o :: _ =>
    let n : Option Nat := match o.kind with
      | .acquireRegs n _ _ => some n
      | .acquireTiles n _ _ => some n
      | _ => none
    match n, s.findWarp o.uid with
    | some n, some w => if s.canAcquire w n tiles then (s.onWarp o.uid fun w => w.grant n tiles).endOp o.id else s
    | _, _ => s

/-- ACQUISITION_GRANT (R216): in arrival order, separately for blocks and for tiles. -/
def execAcquisitionGrant (core : Nat) (s : State) : Host.Outcome State Fault Refusal :=
  .next ((s.grantOldest core false).grantOldest core true)

end Sys2Proof.Machine
end

