-- ==== Sys2Proof/Machine/Launch.lean ====
section
/-! DEFINITION. Launches: reads of the front ends, kernel descriptors (R327), the resolution and acceptance of a launch
(R336, R337), placement by Hawthorn and the leaves (R339–R343), warps at their start (R43), and quickset generators
(R311). -/

namespace Sys2Proof.Machine

/-! Front ends. -/

/-- Front ends of the part: four a die (R1). -/
def State.feCount (s : State) : Nat := 4 * ((List.range 4).filter s.diePresent).length

def State.fe (s : State) (f : Nat) : Fe :=
  (SMap.find f s.fes).getD { count := 0, cur := none, since := 0, commit := 0, prologue := none }

def State.onFe (s : State) (f : Nat) (g : Fe → Fe) : State := { s with fes := SMap.insert f (g (s.fe f)) s.fes }

/-- Whether a firmware update has stopped the front ends and placement (R411). -/
def State.updating (s : State) : Bool := field s.updctl 1 3 == 2 || field s.updctl 1 3 == 5

/-- Whether a front end, or Hawthorn, is ready (R409, R410) and not stopped for an update (R411). -/
def State.feReady (s : State) (f : Nat) : Bool := bit s.readyf (12 + f / 4) && !s.updating
def State.hawReady (s : State) : Bool := bit s.readyf 16 && !s.updating

/-- What an agent's read of a context gives: data, a page that it waits for, or a failure with its code and cause. -/
inductive Got (α : Type) where
  | ok (x : α)
  | wait
  | bad (code cause : Nat)
deriving DecidableEq, Repr

/-- `Translate` for a front end or Tregrim acting for a program (R299): the place of an address. -/
def State.agentPlace (s : State) (asid : BitVec 16) (va : DWord) (acc : Acc) (sys : Bool) : State × Got Nat :=
  match s.agentTranslate 0 asid va acc sys with
  | (s, .ok place _) => (s, .ok place)
  | (s, .fault code cause _) => (s, .bad code cause)
  | (s, _) => (s, .wait)

/-- The same for what must be on this device. -/
def State.agentReach (s : State) (asid : BitVec 16) (va : DWord) (acc : Acc) (sys : Bool) : State × Got Nat :=
  match s.agentPlace asid va acc sys with
  | (s, .ok place) => if placePeer place then (s, .bad 0x27 0) else (s, .ok place)
  | r => r

/-- Home loads of `n` bytes at an address of a context; `fuel` bounds the pages. -/
def State.agentRead (s : State) (asid : BitVec 16) (sys : Bool) : Nat → DWord → Nat → State × Got (List Byte)
  | 0, _, _ => (s, .ok [])
  | fuel + 1, va, n =>
    if n = 0 then (s, .ok [])
    else
      let m := Min.min n (4096 - va.toNat % 4096)
      match s.agentReach asid va .r sys with
      | (s, .wait) => (s, .wait)
      | (s, .bad code cause) => (s, .bad code cause)
      | (s, .ok place) =>
        if s.bytesOwned (placePa place) m then (s, .wait) else
        let s := s.mergeBytes (placePa place) m
        let bs := leBytes m (s.memRead (placePa place) m)
        match State.agentRead s asid sys fuel (va + BitVec.ofNat 64 m) (n - m) with
        | (s, .ok rest) => (s, .ok (bs ++ rest))
        | r => r

/-- The rule of R200 for a counter that a front end or Tregrim reads or steps; a copy engine that owns its line is waited
for (R185). -/
def State.agentCounter (s : State) (asid : BitVec 16) (va : DWord) (acc : Acc) : State × Got Nat :=
  if va.toNat % 8 ≠ 0 then (s, .bad 0x09 0)
  else match s.agentReach asid va acc false with
    | (s, .ok place) =>
      if placeHome place = 1 then (s, .bad 0x20 5)
      else if s.bytesOwned (placePa place) 8 then (s, .wait)
      else (s, .ok (placePa place))
    | r => r

/-! Kernel descriptors. -/

/-- A well-formed kernel descriptor (R327). -/
def kdOk (bs : List Byte) : Bool :=
  let f := recField bs
  f 0 8 % 4 == 0 && f 16 1 % 16 == 0 && decide (16 ≤ f 16 1) && decide (f 16 1 ≤ 192) && decide (f 17 1 ≤ 8) &&
  decide (f 18 1 ≤ 48) && f 19 1 / 64 == 0 && decide (f 20 4 ≤ 393216) && decide (1 ≤ f 30 1) && decide (f 30 1 ≤ 16) &&
  f 24 2 * f 26 2 * f 28 2 == 64 * f 30 1 && recZero bs 31 32 && recZero bs 56 64

/-- The fields of a kernel descriptor. -/
def kdOf (bs : List Byte) : KernelDesc :=
  let f := recField bs
  { entry := BitVec.ofNat 64 (f 0 8), const := BitVec.ofNat 64 (f 8 8), regs := f 16 1, tiles := f 17 1, nparam := f 18 1, flags := BitVec.ofNat 8 (f 19 1), sram := f 20 4, wgx := f 24 2, wgy := f 26 2, wgz := f 28 2, warps := f 30 1 }

/-- Whether every unit that a kernel needs is present (R3). -/
def State.unitsOk (s : State) (kd : KernelDesc) : Bool :=
  [(1, 0), (2, 1), (3, 3), (4, 2), (5, 4)].all fun e => !kd.flags.getLsbD e.1 || bit s.unitcap e.2

/-- What one workgroup of a kernel holds (R323). -/
def KernelDesc.needs (kd : KernelDesc) : Held :=
  ⟨kd.warps, kd.warps * (kd.regs / 16 - 1), kd.warps * kd.tiles, (kd.sram + 1023) / 1024⟩

/-- Workgroups of a kernel that an empty core holds (R16, R22, R178). -/
def KernelDesc.perCore (kd : KernelDesc) : Nat :=
  let h := kd.needs
  let by_ (total each m : Nat) : Nat := if each = 0 then m else Min.min m (total / each)
  by_ 1024 ((kd.sram + 383) / 384) (by_ 32 h.tiles (by_ 128 h.blocks (64 / Max.max h.warps 1)))

/-- Whether `n` workgroups fit the budgets of a path that holds nothing else. -/
def fitsBudgets (path : List RegionItems) (kd : KernelDesc) (n : Nat) : Bool :=
  let h := kd.needs
  path.all fun r => decide (n * h.warps ≤ r.warps) && decide (n * h.blocks ≤ r.rblk) && decide (n * h.tiles ≤ r.tileb) && decide (n * h.kib ≤ r.sramKib)

/-! Resolution. -/

/-- What a launch asks for: by a packet, a spawn record or a fill. `given` are parameter values that are known already;
`leader` is the leader entry of a generator's block, `handoff` the queue, packet and repeat of a packet (R371). -/
structure LaunchReq where
  asid : BitVec 16
  root : DWord
  kd : DWord
  rcb : DWord
  gx : Nat
  gy : Nat
  gz : Nat
  gang : Bool
  persist : Bool
  geometry : Bool
  initial : Nat
  params : DWord
  given : Option (List DWord)
  done : DWord
  queue : Option Nat
  hint : Nat
  join : DWord
  leader : Option Nat
  handoff : Option (Nat × Nat × Nat)
deriving DecidableEq, Repr

/-- What resolution finds (R336): the descriptor, the region path, the parameters and a pass descriptor. -/
inductive Resolved where
  | ok (kd : KernelDesc) (path : List RegionItems) (ps : List DWord) (desc : List Byte)
  | wait
  | reject (cause : Nat)
deriving DecidableEq, Repr

/-- The RCBs from one to its root, read by a front end (R322, R324). -/
def State.feRcbs (s : State) (asid : BitVec 16) : Nat → Nat → State × Got (List (DWord × List Byte))
  | 0, _ => (s, .bad 0 0)
  | fuel + 1, va =>
    if va % 256 ≠ 0 then (s, .bad 0 0)
    else match s.agentRead asid true 1 (BitVec.ofNat 64 va) 256 with
      | (s, .wait) => (s, .wait)
      | (s, .bad code cause) => (s, .bad code cause)
      | (s, .ok bs) =>
        let parent := recField bs 0 8
        if !rcbOk bs (parent == 0) (s.userPage asid va) then (s, .bad 0 0)
        else if parent = 0 then (s, .ok [(BitVec.ofNat 64 va, bs)])
        else match State.feRcbs s asid fuel parent with
          | (s, .ok p) => (s, .ok ((BitVec.ofNat 64 va, bs) :: p))
          | r => r

/-- Eight-byte values of a record. -/
def dwordsOf (bs : List Byte) (n : Nat) : List DWord := (List.range n).map fun i => BitVec.ofNat 64 (recField bs (8 * i) 8)

/-- Step 8 for a geometry launch (R374): the pass descriptor at k0, and its fragment kernel; both are fixed for the
launch, the kernel's descriptor kept after the pass's. -/
def State.resolvePass (s : State) (q : LaunchReq) (kd : KernelDesc) (path : List RegionItems) (ps : List DWord) : State × Resolved :=
  let at_ := ps.headD 0
  if at_.toNat % 256 ≠ 0 then (s, .reject 10)
  else match s.agentRead q.asid false 1 at_ 256 with
    | (s, .wait) => (s, .wait)
    | (s, .bad _ _) => (s, .reject 10)
    | (s, .ok bs) =>
      let frag := recField bs 40 8
      if !passOk bs || frag % 64 != 0 then (s, .reject 10)
      else match s.agentRead q.asid false 1 (BitVec.ofNat 64 frag) 64 with
        | (s, .wait) => (s, .wait)
        | (s, .bad _ _) => (s, .reject 10)
        | (s, .ok fb) =>
          let fk := kdOf fb
          if kdOk fb && decide (fk.nparam ≤ kd.nparam) && fk.warps == 1 && fk.wgx == 64 then (s, .ok kd path ps (bs ++ fb))
          else (s, .reject 10)

/-- Step 8 of R336: the parameters. -/
def State.resolveParams (s : State) (q : LaunchReq) (kd : KernelDesc) (path : List RegionItems) : State × Resolved :=
  let finish (s : State) (ps : List DWord) : State × Resolved := if q.geometry then s.resolvePass q kd path ps else (s, .ok kd path ps [])
  match q.given with
  | some ps => finish s ps
  | none =>
    if q.params.toNat % 8 ≠ 0 ∧ kd.nparam ≠ 0 then (s, .reject 10)
    else match s.agentRead q.asid false 2 q.params (8 * kd.nparam) with
      | (s, .wait) => (s, .wait)
      | (s, .bad _ _) => (s, .reject 10)
      | (s, .ok bs) => finish s (dwordsOf bs kd.nparam)

/-- Steps 4 to 7 of R336. -/
def State.launchCause (s : State) (q : LaunchReq) (kd : KernelDesc) (path : List RegionItems) : Option Nat :=
  let total := q.gx * q.gy * q.gz
  if !s.unitsOk kd || (q.geometry && !bit s.unitcap 0) then some 3
  else if 2 ^ 36 < total ∨ total = 0 ∨ (if q.persist then q.initial = 0 ∨ total < q.initial else q.initial ≠ 0) then some 5
  else if kd.perCore = 0 ∨ !fitsBudgets path kd 1 then some 6
  else if q.gang ∧ (kd.perCore * field s.devcap 8 8 < total ∨ !fitsBudgets path kd total) then some 7
  else none

/-- Steps 1 and 2 of R336. -/
def State.resolveHead (s : State) (q : LaunchReq) : State × Got (KernelDesc × List RegionItems) :=
  if q.kd.toNat % 64 ≠ 0 then (s, .bad 0 2)
  else match s.agentRead q.asid false 1 q.kd 64 with
    | (s, .wait) => (s, .wait)
    | (s, .bad _ _) => (s, .bad 0 2)
    | (s, .ok kb) =>
      if !kdOk kb || (q.leader.isSome && recField kb 30 1 != 1) then (s, .bad 0 2)
      else match s.feRcbs q.asid 16 q.rcb.toNat with
        | (s, .wait) => (s, .wait)
        | (s, .bad _ _) => (s, .bad 0 4)
        | (s, .ok rs) => (s, .ok (kdOf kb, itemsOf rs))

/-- Resolves a launch (R336). -/
def State.resolve (s : State) (q : LaunchReq) : State × Resolved :=
  match s.resolveHead q with
  | (s, .wait) => (s, .wait)
  | (s, .bad _ cause) => (s, .reject cause)
  | (s, .ok (kd, path)) => match s.launchCause q kd path with
    | some c => (s, .reject c)
    | none => s.resolveParams q kd path

/-- LAUNCH_REJECT (R336), to the fault domain of the launch region, or of the root where the region path is
malformed. -/
def State.postReject (s : State) (q : LaunchReq) (cause : Nat) (addr : DWord) : State :=
  let path := match s.regionPath q.asid q.rcb.toNat with
    | some p => p
    | none => (s.regionPath q.asid q.root.toNat).getD []
  s.postQueue q.asid (actingDomain path false).1 0x40 cause addr 0 0 q.rcb

/-- An address that the front end tries for a workgroup's arrival counters, a free value on a line of its own (log
entry 17). -/
def arrivalAt (x : DWord) : DWord := BitVec.ofNat 64 (x.toNat % 2 ^ 52 / 128 * 128)

/-- Accepts a resolved launch at a front end (R336 step 9, R337). A hand-off that Hawthorn has accepted before has the answer it
had then (R371). -/
def State.accept (s : State) (f : Nat) (q : LaunchReq) (kd : KernelDesc) (path : List RegionItems) (ps : List DWord)
    (desc : List Byte) : State × Nat :=
  match s.launches.find? fun l => q.handoff.isSome && l.handoff == q.handoff with
  | some l => (s, l.lid)
  | none =>
  let s := s.onFe f fun e => { e with count := e.count + 1 }
  let lid := 16 * (s.fe f).count + f
  let top := path.headD RegionItems.empty
  let l : Launch := { lid := lid, asid := q.asid, kd := kd, kdAddr := q.kd, path := path, gx := q.gx, gy := q.gy, gz := q.gz, gang := q.gang, persist := q.persist, geometry := q.geometry, initial := (if q.persist then q.initial else q.gx * q.gy * q.gz), params := ps, done := q.done, queue := q.queue, hint := q.hint, unplaced := List.range (q.gx * q.gy * q.gz), claimed := [], exited := [], join := q.join, generator := q.leader, deadline := (if q.geometry && top.prio == 7 && top.deadline != 0 then some (s.clock + 800 * top.deadline) else none), arrivals := [], arrivalTry := arrivalAt s.freeValue, rest := false, handoff := q.handoff, killed := false, complete := false, clusters := [] }
  let p : Pass := { launch := lid, desc := (List.range 320).foldl (fun m i => wr m i (desc.getD i 0)) [], committed := 0, nextSeq := 0, prims := [], arena := 0, frags := [], waiting := [], reruns := [], geoInv := 0, primSub := 0, primCull := 0, primBin := 0, fragInv := 0, occ := 0, replays := 0 }
  ({ s with freeCtr := s.freeCtr + 1, launches := s.launches ++ [l], passes := if q.geometry then s.passes ++ [p] else s.passes }, lid)

/-! Placement. -/

/-- Bytes of core SRAM that pinned pages leave on a core (R298). -/
def State.sramLimit (s : State) (core : Nat) : Nat :=
  393216 - ((s.treg.allocs.filter fun a => a.home == 1 && a.homeId == core).foldl (fun n a => n + a.bytes) 0)

/-- Where an allocation fits on a core: the lowest multiple of 384 bytes (R178; log entry 18). -/
def State.sramFit (s : State) (core size : Nat) : Option Nat :=
  let gs := s.wgs.filter fun g => g.core == core && g.onCore && g.sramSize != 0
  let ends := gs.map fun g => (g.sramBase + g.sramSize + 383) / 384 * 384
  if size = 0 then some 0
  else (sortBy id (0 :: ends)).find? fun b =>
    decide (b + size ≤ s.sramLimit core) && gs.all fun g => !overlap b size g.sramBase g.sramSize

/-- Slots of a core that warps hold. -/
def State.slotsHeld (s : State) (core : Nat) : List Nat := (s.allWarps.filter fun w => w.placedOn && w.core == core).map (·.slot)

/-- The lowest free slot of the first partition, from `p` on in cyclic order, that has one (R340). -/
def pickSlot (taken : List Nat) (p : Nat) : Option Nat :=
  ((List.range 4).flatMap fun i => (List.range 16).map fun j => 16 * ((p + i) % 4) + j).find? fun x => !taken.contains x

/-- Slots for `n` warps, from warp `w` on (R340). -/
def pickSlots (p0 : Nat) : Nat → Nat → List Nat → List Nat
  | 0, _, _ => []
  | n + 1, w, taken => match pickSlot taken (p0 + w) with
    | some x => x :: pickSlots p0 n (w + 1) (x :: taken)
    | none => []

/-- The partition with the most free slots, the lowest on ties. -/
def emptiest (taken : List Nat) : Nat :=
  let used (p : Nat) : Nat := (taken.filter fun x => x / 16 == p).length
  ((List.range 4).find? fun p => (List.range 4).all fun r => decide (used p ≤ used r)).getD 0

/-- What a placement needs of its core: warps, blocks, tiles, and bytes of core SRAM. -/
structure Needs where
  warps : Nat
  blocks : Nat
  tiles : Nat
  sram : Nat
deriving DecidableEq, Repr

def KernelDesc.coreNeeds (kd : KernelDesc) : Needs := ⟨kd.needs.warps, kd.needs.blocks, kd.needs.tiles, kd.sram⟩

/-- The core of a cluster that takes a placement, with the base of its allocation (R340). -/
def State.leafPick (s : State) (cluster : Nat) (n : Needs) : Option (Nat × Nat) :=
  let fit (core : Nat) : Option (Nat × Nat) :=
    if 64 - (s.coreHeld core).warps < n.warps ∨ s.freeBlocks core < n.blocks ∨ s.freeTiles core < n.tiles then none
    else (s.sramFit core n.sram).map fun b => (core, b)
  (sortBy (fun e => (s.coreHeld e.1).warps) ((List.range 4).filterMap fun i => fit (4 * cluster + i))).head?

/-- The core SRAM of a new allocation (R433): units that another context wrote read zero; each unit of its own context
reads zero or keeps its bytes, a free choice (log entry 9). -/
def State.freshSram (s : State) (core base size asid : Nat) : State :=
  let unit (a : Nat) : Nat := 2048 * core + a
  let units := (List.range ((size + 383) / 384)).map fun i => base / 384 + i
  let kept (u : Nat) : Bool := SMap.find (unit u) s.sramOwner == some asid && (Config.free (s.freeCtr + u)).getLsbD 0
  let lost (e : Nat × Byte) : Bool := e.1 / 2 ^ 19 == core && units.contains (e.1 % 2 ^ 19 / 384) && !kept (e.1 % 2 ^ 19 / 384)
  { s with
    sram := s.sram.filter fun e => !lost e
    sramOwner := units.foldl (fun m u => SMap.insert (unit u) asid m) s.sramOwner
    freeCtr := 1024 + s.freeCtr }

/-- The acquire of a cluster before a launch's first workgroup there, for the GLOBAL and IMAGE classes (R334), and for its code
(R328). -/
def State.clusterAcquire (s : State) (lid cluster : Nat) : State :=
  match s.launchOf lid with
  | none => s
  | some l =>
    if l.clusters.contains cluster then s
    else
      let s := s.selfInvalidate cluster
      let s := s.mapCopies fun c => if (List.range 4).any fun i => c.holder == pathOf (4 * cluster + i) then { c with valid := 0 } else c
      let s := s.dropCode fun core => clusterOf core == cluster
      s.onLaunch lid fun l => { l with clusters := l.clusters ++ [cluster] }

/-- A warp at its start (R43, R311), its arrival counter in the block at `block` (R33). -/
def startWarp (l : Launch) (kd : KernelDesc) (kind : WarpKind) (block : DWord) (uid idx w core slot clock : Nat) : Warp :=
  { Warp.empty with
    uid := uid, resident := true, launch := l.lid, wg := idx, inWg := w, core := core, slot := slot, kind := kind
    placed := clock, readySince := clock, quota := kd.regs / 16 - 1, tquota := kd.tiles
    k := l.params.zipIdx.foldl (fun m e => wr m e.2 e.1) []
    frag := { Frag.free with mask := BitVec.allOnes 64, pc := kd.entry }
    arrival := block + BitVec.ofNat 64 (8 * w), startLive := BitVec.allOnes 64 }

/-- A workgroup record at its start. -/
def startWg (lid idx core base size clock : Nat) (uids : List Nat) : Wg :=
  { launch := lid, idx := idx, core := core, sramBase := base, uids := uids, bars := [], gbars := [], fetch := [], seq := 0, retired := 0, eligible := true, pre := .running, preSince := 0, placed := clock, image := 0, sramSize := size, forPrio := 0 }

/-! Arrival counters (R33). -/

/-- Whether the line of a block of arrival counters belongs to something else that the machine knows of: other blocks, allocations,
quickset regions, and the rings and counter pairs of queues; or lies on a page of a shared set, which another context's change could take
from it. A page of a linked image has no W, so no counter is reached there. -/
def State.arrivalTaken (s : State) (asid : BitVec 16) (va : DWord) : Bool :=
  let line (a : DWord) : Bool := a.toNat / 128 == va.toNat / 128
  let ofQueue (q : Nat) : Bool := s.qEnabled q && s.qAsid q == asid && (overlap va.toNat 128 (s.qRing q).toNat (64 * s.qSize q) || overlap va.toNat 128 (s.qQctr q).toNat 16)
  (s.allWarps ++ s.saved).any (fun w => s.asidOf w.launch == asid && line w.arrival) ||
  s.launches.any (fun l => l.asid == asid && l.arrivals.any line) ||
  s.treg.allocs.any (fun a => a.asid == asid && overlap va.toNat 128 a.base.toNat a.bytes) ||
  s.regions.any (fun r => r.asid == asid && overlap va.toNat 128 r.base.toNat r.size) ||
  (s.qbase != 0 && (List.range 1024).any ofQueue) ||
  (s.walkLeaf asid va.toNat).any fun l => !s.privateLeaf asid l

/-- The front end readies one more block of arrival counters for a launch: its page is reached as a counter's is, and waited
for; an address that cannot serve is given up for another. -/
def State.readyBlock (s : State) (l : Launch) : State :=
  let va := l.arrivalTry
  let retry (s : State) (got : List DWord) : State :=
    { (s.onLaunch l.lid fun l => { l with arrivals := l.arrivals ++ got, arrivalTry := arrivalAt s.freeValue }) with freeCtr := s.freeCtr + 1 }
  if s.arrivalTaken l.asid va then retry s []
  else match s.agentCounter l.asid va .rmw with
    | (s, .ok _) => retry s [va]
    | (s, .bad _ _) => retry s []
    | (s, .wait) => s

/-- Readies blocks until a launch has `n` that can be reached, as far as it gets. -/
def State.readyBlocks (s : State) (lid : Nat) : Nat → State
  | 0 => s
  | n + 1 => match s.launchOf lid with
    | none => s
    | some l => if n < l.arrivals.length then State.readyBlocks s lid n else State.readyBlocks (s.readyBlock l) lid n

/-- Whether a launch has `n` blocks of arrival counters ready. -/
def State.blocksReady (s : State) (lid n : Nat) : Bool := match s.launchOf lid with
  | some l => decide (n ≤ (l.arrivals.filter fun va => (s.reach (some l.asid) va.toNat .rmw).isSome).length)
  | none => false

/-- The first ready block that can be reached, taken from a launch and zeroed (R33, R43). -/
def State.takeBlock (s : State) (lid : Nat) : State × DWord :=
  match s.launchOf lid with
  | none => (s, 0)
  | some l => match l.arrivals.find? fun va => (s.reach (some l.asid) va.toNat .rmw).isSome with
    | none => (s, 0)
    | some va =>
      ((s.onLaunch lid fun l => { l with arrivals := l.arrivals.filter (· != va) }).storeSpace (some l.asid) va.toNat (List.replicate 128 0), va)

/-- Places a workgroup on a core. -/
def State.placeOn (s : State) (l : Launch) (idx core base : Nat) : State :=
  let s := s.clusterAcquire l.lid (clusterOf core)
  let s := s.freshSram core base l.kd.sram l.asid.toNat
  let (s, arrival) := s.takeBlock l.lid
  let taken := s.slotsHeld core
  let slots := pickSlots (emptiest taken) l.kd.warps 0 taken
  let kind : WarpKind := if l.geometry then .geometry else .compute
  let block := (l.generator.bind s.fillOf).map fun f => f.block.toNat
  let mk (e : Nat × Nat) : Warp := { startWarp l l.kd kind arrival (s.nextUid + e.2 + 1) idx e.2 core e.1 s.clock with fillOpen := block }
  let ws := slots.zipIdx.map mk
  { s with
    warps := s.warps ++ ws
    nextUid := s.nextUid + ws.length
    wgs := s.wgs ++ [startWg l.lid idx core base l.kd.sram s.clock (ws.map (·.uid))] }

/-- Permits in use of a cluster's command link (R339). -/
def State.permitsUsed (s : State) (cluster : Nat) : Nat := (SMap.find cluster s.permits).getD 0

/-- Free warp slots of a cluster. -/
def State.clusterSlots (s : State) (c : Nat) : Nat := (List.range 4).foldl (fun n i => n + (64 - (s.coreHeld (4 * c + i)).warps)) 0

/-- The ready clusters with a permit in the order in which Hawthorn tries them (R339, R410). -/
def State.clusterOrder (s : State) : List Nat :=
  sortBy (fun c => 256 - s.clusterSlots c)
    ((List.range (field s.devcap 16 8)).filter fun c => bit s.readyc c && decide (s.permitsUsed c < 16))

/-- Where Hawthorn places what needs `n`, charged to a launch: the first cluster whose leaf does not refuse, with the clusters
that had a command (R339). -/
def State.findPlace (s : State) (l : Launch) (n : Needs) : Option (Nat × Nat × List Nat) :=
  if !s.withinBudget l ⟨n.warps, n.blocks, n.tiles, (n.sram + 1023) / 1024⟩ then none
  else
    let tries := s.clusterOrder.map fun c => s.leafPick c n
    match tries.findIdx? (·.isSome), (tries.filterMap id).head? with
    | some i, some (core, base) => some (core, base, s.clusterOrder.take (i + 1))
    | _, _ => none

/-- Commands sent to clusters, each with the next sequence number (R339, R344): a refusal returns its permit at once, the last
command's stays out until the leaf's reply. -/
def State.sendCommands (s : State) (clusters : List Nat) : State :=
  let s := clusters.foldl (fun s c => { s with hawSeq := s.hawSeq + 1, leafSeq := SMap.insert c (s.hawSeq + 1) s.leafSeq }) s
  match clusters.getLast? with
  | some c => { s with
      permits := SMap.insert c (s.permitsUsed c + 1) s.permits
      leafOpen := SMap.insert c (((SMap.find c s.leafOpen).getD 0) + 1) s.leafOpen }
  | none => s

/-- Whether a leaf acts on a command: not on a sequence number that it has seen (R344). -/
def State.leafActs (s : State) (cluster seq : Nat) : Bool := decide (((SMap.find cluster s.leafSeq).getD 0) < seq)

/-- A count of a table made one less. -/
def countDown (m : SMap Nat) (c : Nat) : SMap Nat :=
  let n := (SMap.find c m).getD 0
  if n ≤ 1 then SMap.erase c m else SMap.insert c (n - 1) m

/-- A leaf's reply returns its permit (R339). -/
def State.leafReply (s : State) (cluster : Nat) : State :=
  { s with permits := countDown s.permits cluster, leafOpen := countDown s.leafOpen cluster }

/-- The next workgroup that Hawthorn would place (R341, R343): beyond INITIAL only once every placed workgroup has exited. -/
def Launch.next (l : Launch) (idle : Bool) : Option Nat :=
  match l.unplaced with
  | [] => none
  | i :: is =>
    let n := is.foldl Min.min i
    if n < l.initial ∨ l.rest ∨ idle then some n else none

/-- A launch has no workgroup placed or saved. -/
def State.idleLaunch (s : State) (lid : Nat) : Bool := !s.wgs.any fun g => g.launch == lid

/-- Places one workgroup of a launch: the command takes a permit until its reply (R339). -/
def State.placeOne (s : State) (l : Launch) : Option State :=
  match l.next (s.idleLaunch l.lid) with
  | none => none
  | some idx => match s.findPlace l l.kd.coreNeeds with
    | none => none
    | some (core, base, sent) =>
      let s := s.onLaunch l.lid fun l => { l with unplaced := l.unplaced.filter (· != idx), rest := l.rest || decide (l.initial ≤ idx) }
      if s.leafActs (clusterOf core) (s.hawSeq + sent.length) then some ((s.sendCommands sent).placeOn l idx core base) else none

/-- Places every workgroup of a launch that is to be placed now, or none (R342); the leaves answer each command before the
next. -/
def State.placeAll (s : State) (lid : Nat) : Nat → Option State
  | 0 => some s
  | n + 1 => match s.launchOf lid with
    | none => none
    | some l => match l.next (s.idleLaunch lid) with
      | none => some s
      | some _ => match s.placeOne l with
        | none => none
        | some t => State.placeAll { t with permits := s.permits, leafOpen := s.leafOpen } lid n

/-- The workgroups of a launch that Hawthorn has to place now: of a gang all, of another launch the next (R341–R343). -/
def State.placing (s : State) (l : Launch) : Nat :=
  if l.killed || l.complete then 0
  else match l.next (s.idleLaunch l.lid) with
    | none => 0
    | some n => if !l.gang then 1
      else if l.initial ≤ n then l.unplaced.length else (l.unplaced.filter fun i => decide (i < l.initial)).length

/-- Whether a launch has a saved workgroup: it is restored before others of the launch are placed (R366). -/
def State.hasSaved (s : State) (lid : Nat) : Bool := s.wgs.any fun g => g.launch == lid && g.pre == .saved

/-- What Hawthorn can place of a launch now. -/
def State.placeable (s : State) (l : Launch) : Option State :=
  let n := s.placing l
  if n = 0 ∨ s.hasSaved l.lid then none
  else if l.gang then s.placeAll l.lid n
  else s.placeOne l

/-- The saved warps of a workgroup in the order of their records. -/
def State.savedOf (s : State) (g : Wg) : List Warp := sortBy (·.inWg) (s.saved.filter fun w => g.uids.contains w.uid)

/-- What a saved workgroup needs of its core (R366). -/
def State.savedNeeds (s : State) (g : Wg) : Needs :=
  let h := (s.savedOf g).foldl (fun (h : Held) w => h.add w.held) (⟨0, 0, 0, 0⟩ : Held)
  ⟨h.warps, h.blocks, h.tiles, g.sramSize⟩

/-- Whether Hawthorn can serve a launch now: restore its saved workgroups (R363), or place (R341). -/
def State.servable (s : State) (l : Launch) : Bool :=
  (s.placeable l).isSome || (!l.killed && s.hasSaved l.lid &&
    let gs := s.wgs.filter fun g => g.launch == l.lid && g.pre == .saved
    let fits (g : Wg) : Bool := (s.findPlace l (s.savedNeeds g)).isSome
    if l.gang then gs.all fits else gs.any fits)

/-- Effective PRIO of a launch. -/
def Launch.prio (l : Launch) : Nat := (l.path.headD RegionItems.empty).prio

/-- Whether a launch goes before another (R341): higher PRIO, then earlier acceptance. -/
def State.ahead (s : State) (a b : Launch) : Bool :=
  let pos (l : Launch) : Nat := s.launches.findIdx fun m => m.lid == l.lid
  decide (b.prio < a.prio) || (a.prio == b.prio && decide (pos a < pos b))

/-- The gang that gathers (R342): of those with workgroups to place, the first by PRIO and then by acceptance. -/
def State.bestGang (s : State) : Option Nat :=
  let gangs := s.launches.filter fun l => l.gang && s.placing l != 0
  (gangs.find? fun l => gangs.all fun m => m.lid == l.lid || s.ahead l m).map (·.lid)

/-- Whether a gathering gang holds a launch back (R342). -/
def State.heldByGang (s : State) (l : Launch) : Bool := match s.bestGang.bind s.launchOf with
  | some g => g.lid != l.lid && decide (l.prio ≤ g.prio)
  | none => false

/-- PLACE (R339, R341, R342), in the order of PRIO and acceptance; the arrival counters are ready first (R33). -/
def execPlace (lid : Nat) (s : State) : Host.Outcome State Fault Refusal :=
  .next (match s.hawReady, s.launchOf lid with
    | true, some l =>
      let s : State := { s with gathering := s.bestGang }
      let passed := s.launches.any fun m => m.lid != lid && s.ahead m l && s.servable m
      if s.heldByGang l || passed then s
      else
        let n := s.placing l
        let s := s.readyBlocks lid n
        if !s.blocksReady lid n then s
        else match (s.launchOf lid).bind s.placeable with
          | some t => { t with gathering := if t.gathering = some lid then none else t.gathering }
          | none => s
    | _, _ => s)

/-- PLACE_REPLY (R339): a leaf's reply returns its permit. -/
def execPlaceReply (cluster : Nat) (s : State) : Host.Outcome State Fault Refusal := .next (s.leafReply cluster)

/-! Generators. -/

/-- GENERATOR_LAUNCH (R310, R311): Tregrim stocks the pool with the frames given, and the oldest fill request of a fill
unit gets its generator, once it has its backing. -/
def execGeneratorLaunch (leader : Nat) (stock : List Nat) (s : State) : Host.Outcome State Fault Refusal :=
  let die := homeDie leader
  let s := (s.stock stock).backFills die
  .next (match s.fillOf leader, s.fills.find? (fun f => homeDie f.leader == die && f.launch.isNone) with
    | some f, some first =>
      if first.leader ≠ leader ∨ first.held ∨ !s.feReady (4 * die) then s
      else match s.regionOf f.asid f.block.toNat with
        | none => s
        | some r =>
          let q : LaunchReq := { asid := f.asid, root := (((s.ctxs.find? fun c => c.asid == f.asid).map (·.rootRcb)).getD 0), kd := r.genKd, rcb := r.genRcb, gx := 1, gy := 1, gz := 1, gang := false, persist := false, geometry := false, initial := 0, params := 0, given := some [f.block, BitVec.ofNat 64 r.blockBytes, r.genParam, BitVec.ofNat 64 f.depth], done := 0, queue := none, hint := 0, join := 0, leader := some leader, handoff := none }
          (match s.resolve q with
            | (s, .wait) => s
            | (s, .reject cause) => (s.postReject q cause r.genKd).failBlock leader 0xFFFC
            | (s, .ok kd path ps desc) =>
              match s.accept (4 * die) q kd path ps desc with
              | (s, lid) => { s with fills := modifyFirst (fun f => f.leader == leader) (fun f => { f with launch := some lid }) s.fills })
    | _, _ => s)

end Sys2Proof.Machine
end

