-- ==== Sys2Proof/Machine/System.lean ====
section
/-! DEFINITION. Special registers (R30, R254), service calls as they issue and as their replies arrive (R256, R257,
R397), and the instructions of solo mode (R258–R266, R338, R401, R402). -/

namespace Sys2Proof.Machine

/-! Special registers. -/

/-- Whether the group that issues belongs to a prologue (R338). -/
def State.inPrologue (s : State) : Bool := match s.warp.kind with
  | .prologue _ => true
  | _ => false

/-- 64-bit special registers (R30). -/
def sregWide (n : Nat) : Bool := n == 6 || n == 7 || n == 0x0C || n == 0x0D || n == 0x10 || n == 0x13 || n == 0x14

/-- The coordinates of the workgroup of the warp that issues, x fastest (R333). -/
def State.wgCoord (s : State) (i : Nat) : Nat :=
  if fragWg s.warp.wg then fragCoord s.warp.wg i else match s.launchOf s.warp.launch with
  | some l =>
    let gx := Max.max l.gx 1
    let gy := Max.max l.gy 1
    (match i with
      | 0 => s.warp.wg % gx
      | 1 => s.warp.wg / gx % gy
      | _ => s.warp.wg / gx / gy)
  | none => s.warp.wg

/-- A uniform special register (R30). A prologue has no placement, launch or arrival counter: what it reads there is a
free value (log entry 9). -/
def State.sregValue (s : State) (n : Nat) : Nat :=
  if s.inPrologue && (decide (1 ≤ n) && decide (n ≤ 0x0A) || n == 0x10) then s.freeValue.toNat
  else match n with
  | 0x01 => s.warp.slot
  | 0x02 => s.wgCoord 0
  | 0x03 => s.wgCoord 1
  | 0x04 => s.wgCoord 2
  | 0x05 => s.warp.inWg
  | 0x06 => s.warp.launch
  | 0x07 => (s.region s.warp.launch).rcb.toNat
  | 0x08 => s.warp.core
  | 0x09 => clusterOf s.warp.core
  | 0x0A => dieOf s.warp.core
  | 0x0B => if s.grouped then s.selfId else 0
  | 0x0C => s.clock
  | 0x0D => s.warp.trapMask.toNat
  | 0x0E => s.warp.trapCode.toNat
  | 0x0F => s.warp.quota
  | 0x10 => s.warp.arrival.toNat
  | 0x11 => s.warp.tstat.toNat
  | 0x12 => s.warp.tquota
  | 0x13 => s.warp.frag.mask.toNat
  | _ => s.warp.helper.toNat

/-- The destinations of SREG (R254): a per-lane selector has no k or h destination. A handler has no latches. -/
def State.sregIns (s : State) (d sel : Code) : Ins :=
  let n := if sregWide sel.toNat then 2 else 1
  { op := 0x5C
    d := .opd d (if s.grp.solo then (if sel = 0 then 0x10 else 0x12) else if sel = 0 then 0x15 else 0x17) n n false true
    a := .resv, b := .imm, bad := decide (0x15 ≤ sel.toNat) }

/-- SREG (R254). -/
def execSreg (d sel : Code) (s : State) : Host.Outcome State Fault Refusal :=
  s.issue (s.sregIns d sel) fun s =>
    let n := sel.toNat
    let x := s.sregValue n % (if sregWide n then 2 ^ 64 else 2 ^ 32)
    let s : State := if s.inPrologue then { s with freeCtr := s.freeCtr + 1 } else s
    if (0xC0 ≤ d.toNat ∧ d.toNat ≤ 0xEF) ∨ s.grp.solo then .done (s.setK d (BitVec.ofNat 64 x))
    else .done (s.dst d (sregWide n) s.active fun l => if n = 0 then l else x)

/-! Service calls. -/

/-- The service numbers of R395. -/
def serviceKnown (nr : Nat) : Bool :=
  [0x01, 0x02, 0x03, 0x10, 0x11, 0x12, 0x13, 0x20, 0x21, 0x30, 0x31, 0x40, 0x41, 0x42, 0x43, 0x44, 0x45, 0x46, 0x47, 0x48].contains nr

/-- The failure codes of R394. -/
def badArg : DWord := -1
def noMem : DWord := -2
def noRights : DWord := -3
def busyObject : DWord := -4
def notFound : DWord := -5
def wouldBlock : DWord := -6
def unreach : DWord := -7
def noService : DWord := -8

/-- Hands a call block to Tregrim (R257, R397): a CALLID with a live record is the same call. A
number that names no service has its answer at once (R394). -/
def State.submitCall (s : State) (asid : BitVec 16) (bs : List Byte) (token : Word) (op lane : Nat) : State :=
  let id := BitVec.ofNat 64 (recField bs 0 8)
  let same (c : Call) : Bool := c.asid == asid && c.callId == id
  if s.calls.any same then
    { s with calls := modifyFirst same (fun c =>
        if c.subs.contains (op, lane) then c else { c with subs := c.subs ++ [(op, lane)] }) s.calls }
  else
    let c : Call := { id := s.nextOp, asid := asid, callId := id, nr := recField bs 8 4, args := (List.range 6).map (fun i => BitVec.ofNat 64 (recField bs (16 + 8 * i) 8)), token := token, result := if serviceKnown (recField bs 8 4) then none else some noService, subs := [(op, lane)] }
    { s with nextOp := s.nextOp + 1, calls := s.calls ++ [c] }

/-- A call block that Tregrim takes (R257). -/
def callOk (bs : List Byte) : Bool := recField bs 0 8 != 0 && recZero bs 12 16

/-- The lanes' blocks submitted in ascending order, or refused with SYSC_FORMAT (R257). The operation keeps a copy of
each block and its token. -/
def State.submitCalls (s : State) (a b : Code) (op : Nat) : List (Nat × Nat) → State
  | [] => s
  | (l, x) :: rest =>
    let bs := leBytes 64 x
    let token : Word := BitVec.ofNat 32 (s.src b false l)
    let s := if !callOk bs then s.fault 0x2F 0 (laneBit l) (s.addr64Plain a l) 0
      else
        let keep (o : Op) : Op := { o with
          lanes := o.lanes ++ [{ lane := l, va := s.addr64Plain a l, pa := 0, stage := .served, val := 0, aux := 0 }]
          data := wr o.data l token
          bytes := (List.range 64).foldl (fun t i => SMap.put 0 t (64 * l + i) (bs.getD i 0)) o.bytes }
        (s.onOp op keep).submitCall s.asid bs token op l
    State.submitCalls s a b op rest

/-- SYSC (R257). -/
def execSysc (d a b : Code) (s : State) : Host.Outcome State Fault Refusal :=
  s.issue { op := 0x9E, d := .opd d 0x11 2 2 false true, a := addr64F a false, b := srcF b false } fun s =>
    let va := s.addr64Plain a
    let m := s.performers
    let bad := misaligned m 64 va
    if bad ≠ 0 then .trap (misalignedTrap bad va)
    else if s.releaseBusy then .hold
    else if m = 0 then .done (s.clearElig.acquireAt s.warp.core)
    else if s.slotsFull then .hold
    else s.clearElig.withReads m 64 va fun s xs =>
      let op := s.nextOp
      let s := (s.newOp (.sysc d) [] []).submitCalls a b op xs
      if (s.opOf op).any fun o => o.lanes.isEmpty then .done ((s.endOp op).acquireAt s.warp.core)
      else .waits s (.sysc op)

/-- Records whose call has been executed and whose every reply has been delivered are retired (R397); submissions of
operations that are gone receive nothing. -/
def State.retireCalls (s : State) : State :=
  let known (e : Nat × Nat) : Bool := s.ops.any fun o => o.id == e.1
  let live (c : Call) : Call := { c with subs := c.subs.filter known }
  { s with calls := (s.calls.map live).filter fun c => !(c.result.isSome && c.subs.isEmpty) }

/-- SYSC_REPLY (R257): Tregrim's reply reaches its lane; with the last one the warp acquires and goes on. The reply to a saved
warp waits for its restore. -/
def execSyscReply (op lane : Nat) (s : State) : Host.Outcome State Fault Refusal :=
  .next (match (s.opOf op).filter (fun o => (s.findWarp o.uid).isSome), s.calls.find? (fun c => c.result.isSome && c.subs.contains (op, lane)) with
    | some o, some c =>
      let x := (c.result.getD 0).toNat
      let d : Code := match o.kind with
        | .sysc d => d
        | _ => 0xF5
      let s := s.onWarp o.uid fun w => w.loadInto d lane 8 false true x
      let gone (e : Nat × Nat) : Bool := e == (op, lane)
      let s : State := { s with calls := s.calls.map fun r => if r.id = c.id then { r with subs := r.subs.filter fun e => !gone e } else r }
      let s := s.onOp op fun o => o.onLane lane fun l => { l with stage := .done }
      let over_ := (s.opOf op).any fun o => o.lanes.all fun l => l.stage == .done
      (if over_ then (s.acquireAt ((s.findWarp o.uid).map (·.core) |>.getD o.core)).endOp op else s).retireCalls
    | _, _ => s)

/-- SYSC_RESUBMIT (R257): the saved copy of a call whose reply was lost is submitted again; a record that is live makes
it the same call (R397). -/
def execSyscResubmit (op lane : Nat) (s : State) : Host.Outcome State Fault Refusal :=
  .next (match s.opOf op with
    | some o => (match o.kind, o.lane lane with
      | .sysc _, some l =>
        if l.stage = .done then s
        else s.submitCall o.asid ((List.range 64).map fun i => SMap.getD 0 o.bytes (64 * lane + i)) (rd o.data lane) op lane
      | _, _ => s)
    | none => s)

/-! Solo mode. -/

/-- A handler or k register that is written, or read. -/
def hkDst (c : Code) : Fld := .opd c 0x02 1 1 false true
def hkSrc (c : Code) : Fld := .opd c 0x02 1 1 true false
/-- The same, or the literal. -/
def hkLit (c : Code) : Fld := .opd c 0x0A 1 1 true false

/-- The handler of the group that issues. -/
def State.hand (s : State) (k : Solo → Eff) : Eff := match s.warp.solo with
  | some h => k h
  | none => .done s

/-- ILLEGAL_OPERAND found in a register's value. -/
def badValue (s : State) : Eff := .trap { code := 0x02, mask := s.active, addr := 0, cause := 0 }

/-- A solo control register (R259): its value, none for an unlisted number. -/
def State.csr (s : State) (h : Solo) (n : Nat) : Option DWord :=
  match n with
  | 0x0000 => some h.trapPc
  | 0x0001 => some (h.trapCode.setWidth 64)
  | 0x0002 => some h.trapMask
  | 0x0003 => some h.sfaddr
  | 0x0004 => some (h.repcnt.setWidth 64)
  | 0x0005 => some h.slrpc
  | 0x0006 => some (h.swmode.setWidth 64)
  | 0x0007 => some h.sstatus
  | 0x0008 => some h.fragMask
  | 0x0009 => some (h.sfcause.setWidth 64)
  | 0x0010 => some (s.region s.warp.launch).rcb
  | 0x0011 => some (s.asid.setWidth 64)
  | 0x0100 => some s.devcap
  | 0x0101 => some s.unitcap
  | 0x0102 => some s.sizecap
  | _ => none

/-- CSRR (R259); a prologue reads only the capability registers (R338). -/
def execCsrr (d : Code) (c : BitVec 16) (s : State) : Host.Outcome State Fault Refusal :=
  s.issue { op := 0xD0, d := hkDst d, a := .imm, b := .imm } fun s => s.hand fun h =>
    match s.csr h c.toNat with
    | some x => if s.inPrologue ∧ c.toNat < 0x100 then badValue s else .done (s.setK d x)
    | none => badValue s

/-- The handler with a solo control register written (R259): none for a register that is not RW, reserved bits or a
reserved value; bits above a register's width are reserved bits. DEDUCED, log entry 67: a write to a capability register is
ignored, as R4 says of every agent, where R259 gives a RO register ILLEGAL_OPERAND. -/
def Solo.csrWrite (h : Solo) (n : Nat) (x : DWord) : Option Solo :=
  match n with
  | 0x0000 => some { h with trapPc := x, sstatus := h.sstatus ||| 0x10 }
  | 0x0004 => if 64 < x.toNat then none else some { h with repcnt := BitVec.ofNat 7 x.toNat }
  | 0x0005 => some { h with slrpc := x }
  | 0x0006 => if x >>> 24 = 0 ∧ wmLegal (x.setWidth 24) then some { h with swmode := x.setWidth 24 } else none
  | 0x0007 => if x &&& ~~~0x3B#64 = 0 ∧ x &&& 3#64 ≠ 3 then some { h with sstatus := (h.sstatus &&& ~~~3#64) ||| (x &&& 3#64) } else none
  | 0x0100 => some h
  | 0x0101 => some h
  | 0x0102 => some h
  | _ => none

/-- CSRW (R259). -/
def execCsrw (d : Code) (c : BitVec 16) (s : State) : Host.Outcome State Fault Refusal :=
  s.issue { op := 0xD1, d := hkSrc d, a := .imm, b := .imm, ill := s.inPrologue } fun s => s.hand fun h =>
    match h.csrWrite c.toNat (s.srcU d) with
    | some h' => .done { s with warp := { s.warp with solo := some h' } }
    | none => badValue s

/-- Whether a KLD of the handler into an h register is still on its way. -/
def State.handLoads (s : State) : Bool :=
  s.ops.any fun o => o.uid == s.warp.uid && (match o.kind with
    | .kload d => decide (d.toNat ≤ 0x0F)
    | _ => false)

/-- Where the fragment goes on (R92, R261). -/
def Solo.resumePc (h : Solo) : DWord := if h.sstatus.getLsbD 4 || !h.slrpc.getLsbD 0 then h.trapPc else h.slrpc &&& ~~~1

/-- Leaves solo mode (R261, R264): the handler is discarded, its fragment restored with `pc` and given the state that
`f` says, and the held fragments become ready (R39). -/
def State.leaveSolo (s : State) (h : Solo) (pc : DWord) (f : Warp → Warp) : State :=
  let w0 : Warp := { s.warp with solo := none }
  let back (g : Frag) : Frag := { g with wmode := h.swmode, repcnt := h.repcnt.toNat, pc := pc, lrpc := .none }
  { s with warp := (f (w0.onFrag h.entry back)).releaseHeld }

/-- RETT (R261); a prologue waits there for its front end to read the verdict (R338). -/
def execRett (s : State) : Host.Outcome State Fault Refusal :=
  s.issue { op := 0xD2, d := .resv, a := .resv, b := .resv } fun s => s.hand fun h =>
    if s.handLoads then .hold
    else if s.inPrologue then .moved (s.waitFor .parked 0)
    else match field h.sstatus 0 2 with
      | 2 =>
        let s := s.leaveSolo h h.trapPc id
        .moved (s.deliver h.entry { code := h.trapCode.toNat, kind := 0, core := s.warp.core, slot := s.warp.slot, cause := h.sfcause.toNat, pc := h.trapPc, lanes := h.trapMask, addr := h.sfaddr, aux := h.aux, lid := s.warp.launch, rcb := (s.region s.warp.launch).rcb })
      | 1 => .moved ((s.leaveSolo h h.resumePc fun w => w.wakeFrag h.entry).exitLanes s.warp.uid h.trapMask)
      | _ => .moved (s.leaveSolo h h.resumePc fun w => w.wakeFrag h.entry)

/-- PRIVILEGE (R266). -/
def privilegeTrap (s : State) : Eff := .trap { code := 0x13, mask := s.active, addr := 0, cause := 0 }

/-- Whether an access translated through one of the entries has still to complete. -/
def State.throughBusy (s : State) (ts : List TlbEntry) : Bool :=
  s.ops.any fun o => o.lanes.any fun l => l.due o.kind &&
    ts.any fun t => t.asid == o.asid && decide (t.vpn ≤ l.va.toNat / 4096) && decide (l.va.toNat / 4096 < t.vpn + t.pages)

/-- TLBI (R263, R266). -/
def execTlbi (a b : Code) (s : State) : Host.Outcome State Fault Refusal :=
  s.issue { op := 0xD3, d := .resv, a := hkSrc a, b := hkSrc b, ill := s.inPrologue } fun s => s.hand fun h =>
    let x := s.srcU b
    let scope := field x 0 2
    let asid : BitVec 16 := bits x 16 16
    let va := (s.srcU a).toNat
    if scope = 3 ∨ field x 2 14 ≠ 0 ∨ field x 32 32 ≠ 0 then badValue s
    else if (scope = 2 ∨ asid ≠ s.asid) ∧ !bit h.sstatus 5 then privilegeTrap s
    else
      let hit (t : TlbEntry) : Bool := match scope with
        | 0 => t.covers asid va
        | 1 => t.asid == asid
        | _ => true
      if s.throughBusy (s.tlb.filter hit) then .hold else .done (s.shootdown hit)

/-- The codes of a frozen register (R262). -/
def frozenCode (c : Code) : Bool := decide (c.toNat ≤ 0xBF) || decide (0xF8 ≤ c.toNat)

/-- Whether an operation has still to write a frozen register (R44). -/
def State.frozenBusy (s : State) (c : Code) : Bool :=
  s.ops.any fun o => o.uid == s.warp.uid && (overlap c.toNat 1 o.pendingV.1 o.pendingV.2 ||
    (decide (0xF8 ≤ c.toNat) && o.pendingP == some (c.toNat - 0xF8)))

/-- The checks that VGET and VSET share: the lane, then the quota (R15, R262). -/
def State.frozen (s : State) (h : Solo) (c : Code) (lane : DWord) (k : Nat → Eff) : Eff :=
  if 64 ≤ lane.toNat ∨ !h.fragMask.getLsbD lane.toNat then badValue s
  else if c.toNat ≤ 0xBF ∧ 16 * (s.warp.quota + 1) ≤ c.toNat then .trap { code := 0x04, mask := s.active, addr := 0, cause := 0 }
  else if s.frozenBusy c then .hold
  else k lane.toNat

/-- VGET (R262). -/
def execVget (d a b : Code) (s : State) : Host.Outcome State Fault Refusal :=
  s.issue { op := 0xD4, d := hkDst d, a := .imm, b := hkLit b, ill := s.inPrologue, bad := !frozenCode a } fun s => s.hand fun h =>
    s.frozen h a (s.srcU b) fun l =>
      .done (s.setK d (if a.toNat ≤ 0xBF then BitVec.ofNat 64 (s.warp.getV a.toNat l false)
        else if (s.warp.pred (a.toNat - 0xF8)).getLsbD l then 1 else 0))

/-- VSET (R262). -/
def execVset (d a b : Code) (s : State) : Host.Outcome State Fault Refusal :=
  s.issue { op := 0xD5, d := .imm, a := hkLit a, b := hkLit b, ill := s.inPrologue, bad := !frozenCode d } fun s => s.hand fun h =>
    s.frozen h d (s.srcU b) fun l =>
      let x := s.srcU a
      .done (if d.toNat ≤ 0xBF then { s with warp := s.warp.setV d.toNat l false x.toNat }
        else s.setP (d.toNat - 0xF8) (laneBit l) (if bit x 0 then BitVec.allOnes 64 else 0))

/-- PARK (R264): with it a park that a fault domain has asked for has happened (R360). -/
def execPark (s : State) : Host.Outcome State Fault Refusal :=
  s.issue { op := 0xD6, d := .resv, a := .resv, b := .resv, ill := s.inPrologue } fun s => s.hand fun h =>
    if s.handLoads then .hold
    else .moved (s.leaveSolo h h.resumePc fun w => w.onFrag h.entry fun f =>
      { f with state := .waiting, wait := .parked, parkPend := false })

/-- The parked fragments of a warp. -/
def Warp.parkedFrags (w : Warp) : Nat := (w.live.filter fun e => e.2.state == .waiting && e.2.wait == .parked).length

/-- WAKE (R264, R266). -/
def execWake (d a : Code) (s : State) : Host.Outcome State Fault Refusal :=
  s.issue { op := 0xD7, d := kDstF d, a := hkSrc a, b := .resv, ill := s.inPrologue } fun s => s.hand fun h =>
    let t := s.srcU a
    let here (w : Warp) : Bool := w.placedOn && w.core == field t 0 8 && w.slot == field t 8 6 && w.launch % 2 ^ 48 == field t 16 48
    if field t 14 2 ≠ 0 then badValue s
    else match s.allWarps.find? here with
      | none => .done (s.setK d 0)
      | some w =>
        if s.asidOf w.launch ≠ s.asid ∧ !bit h.sstatus 5 then privilegeTrap s
        else
          let s := s.onWarp w.uid fun w => w.wakeWhere fun x => x == .parked
          .done (s.setK d (BitVec.ofNat 64 w.parkedFrags))

/-! Upcalls. -/

/-- A nested TRANSLATION of an upcall, with ADDR naming UPCALLMB (R402). -/
def upcallTrap (s : State) (mb : DWord) (cause : Nat) : Eff :=
  .trap { code := 0x20, mask := s.active, addr := mb, cause := cause }

/-- The bytes of a mailbox slot that the hardware writes (R401). -/
def State.upcallSlot (s : State) (h : Solo) (svc : BitVec 16) : List Byte :=
  leBytes 4 svc.toNat ++ leBytes 4 h.trapCode.toNat ++ leBytes 8 0 ++ leBytes 16 0 ++ leBytes 8 h.trapPc.toNat ++
  leBytes 8 h.trapMask.toNat ++ leBytes 8 h.sfaddr.toNat ++ leBytes 8 (s.region s.warp.launch).rcb.toNat ++
  leBytes 8 s.warp.launch ++ leBytes 2 s.warp.core ++ leBytes 1 s.warp.slot ++ leBytes 5 0 ++
  (List.range 8).flatMap fun i => leBytes 8 (rd h.h i).toNat

/-- An address of the mailbox reached by the hardware for its handler (R299, R402): its page is waited for, and one that cannot be
translated is a TRANSLATION that names UPCALLMB. -/
def State.withMailbox (s : State) (mb va : DWord) (k : State → Nat → Eff) : Eff :=
  match s.pre va .rmw with
  | (s, .ok place) => if placePeer place then upcallTrap s mb 0 else k s (placePa place)
  | (_, .held) => .hold
  | (s, .trap _ cause _) => upcallTrap s mb cause
  | (s, .park (.fill leader _)) => .again s (.fill leader mb) s.active
  | (s, .park w) => .again s w s.active
  | (s, .gone) => .moved s

/-- UPCALL (R265, R402): the slot, TAIL and NOTIFY, then the wait; a full mailbox makes the handler wait first. The
bytes [31:16] of the slot are the service's and keep their values until it replies. -/
def execUpcall (svc : BitVec 16) (s : State) : Host.Outcome State Fault Refusal :=
  s.issue { op := 0xD8, d := .resv, a := .imm, b := .imm, ill := s.inPrologue } fun s => s.hand fun h =>
    let mb := (s.region s.warp.launch).upcallmb
    if s.handLoads || s.releaseBusy then .hold
    else if mb = 0 ∨ mb.toNat % 64 ≠ 0 then upcallTrap s mb 0
    else s.withMailbox mb mb fun s pa =>
      let s := s.mergeBytes pa 64
      let lg := s.memRead (pa + 16) 1
      let head := s.memRead pa 8
      let tail := s.memRead (pa + 8) 8
      let slot := mb + BitVec.ofNat 64 (64 + 256 * (tail % 2 ^ lg))
      if lg < 2 ∨ 12 < lg then upcallTrap s mb 0
      else if (2 ^ 64 + tail - head) % 2 ^ 64 = 2 ^ lg then .again s (.upcall (mb + 1)) s.active
      else s.withMailbox mb slot fun s p0 => s.withMailbox mb (slot + 128) fun s p2 =>
        let bs := s.upcallSlot h svc
        let p1 := if p0 / 4096 = (p0 + 64) / 4096 then p0 + 64 else p2 - 64
        let s := s.homeWrite none p0 (bs.take 16)
        let s := s.homeWrite none (p0 + 32) ((bs.drop 32).take 32)
        let s := s.homeWrite none p1 ((bs.drop 64).take 64)
        let s := s.homeWrite none p2 (bs.drop 128)
        let s := (s.counterAdd (pa + 8) 1).1
        let notify := s.memRead (pa + 24) 8
        let s := if notify = 0 then s else s.counterStepAs s.sysReq (some s.asid) notify 1
        .waits s (.upcall slot)

/-- UPCALL_REPLY (R265, R402): the waiting handler of warp `w` reads DONE as an acquire, and takes STATUS and VALUE. -/
def execUpcallReply (w : Nat) (s : State) : Host.Outcome State Fault Refusal :=
  .next (match s.findWarp w with
    | none => s
    | some v => (match v.solo with
      | none => s
      | some h => (match h.wait with
        | .upcall slot =>
          if bit slot 0 then s
          else (match s.reachAs (some (s.asidOf v.launch)) slot.toNat .r (s.region v.launch).system with
            | none => s
            | some pa =>
              let owned := s.bytesOwned pa 32
              let s := s.mergeBytes pa 32
              if owned || s.memQ (pa + 8) == 0 then s
              else
                let h' : Solo := { h with h := wr (wr h.h 0 (s.memQ (pa + 16))) 1 (s.memQ (pa + 24)), wait := .none }
                (s.acquireAt v.core).onWarp w fun v => { v with solo := some h' })
        | _ => s)))

end Sys2Proof.Machine
end

