-- ==== Sys2Proof/Machine/Queue.lean ====
section
/-! DEFINITION. Queues: control blocks (R329, R330), counter pairs (R331), the choice among a front end's queues (R332),
packets (R333, R334), prologues (R338) and the recovery of front ends (R370–R372). -/

namespace Sys2Proof.Machine

/-! Commits. -/

/-- What a commit changes of a copy. -/
structure QChange where
  st : Nat
  step : Nat
  waddr : DWord
  wval : Nat
deriving DecidableEq, Repr

/-- The front end of a queue (R329). -/
def State.feOf (s : State) (q : Nat) : Nat := q % Max.max s.feCount 1

/-- Fills the other copy and commits it with one update of SELECT (R330). -/
def State.qCommit (s : State) (q : Nat) (c : QChange) : State :=
  let sel := s.memRead (s.qcb q) 8
  let live := s.qCopy q
  let other := s.qcb q + 64 + 64 * ((sel + 1) % 2)
  let old := (List.range 64).map fun i => s.memByte (live + i)
  let new := old.take 12 ++ leBytes 1 c.st ++ leBytes 1 c.step ++ (old.drop 14).take 10 ++ leBytes 8 c.waddr.toNat ++ leBytes 8 c.wval ++ old.drop 40
  let s := s.homeWrite none other new
  let s := s.homeWrite none (s.qcb q) (leBytes 8 (2 * (sel / 2 + 1) + (sel + 1) % 2))
  s.onFe (s.feOf q) fun e => { e with commit := s.clock }

/-- The present values of what a commit may change. -/
def State.qNow (s : State) (q : Nat) : QChange := ⟨s.qState q, s.qStep q, s.qWaddr q, s.qWval q⟩

/-- A value of HEAD written to HEADC as a release store (R331), or kept until it can be: its page, block or line is waited for, and an
earlier value of the queue goes first. A page that Tregrim declines takes none. -/
def State.writeHeadc (s : State) (e : Nat × Nat) : State :=
  let keep (s : State) : State := { s with headcs := s.headcs ++ [e] }
  if s.headcs.any fun x => x.1 == e.1 then keep s
  else match s.agentTranslate 0 (s.qAsid e.1) (s.qQctr e.1 + 8) .w false with
    | (s, .ok place _) =>
      if placePeer place then s
      else if s.bytesOwned (placePa place) 8 then keep s
      else s.homeWrite none (placePa place) (leBytes 8 e.2)
    | (s, .fault _ _ _) => s
    | (s, _) => keep s

/-- The values of HEAD that are still to be written, tried again in order. -/
def State.writeHeadcs (s : State) : State := s.headcs.foldl State.writeHeadc { s with headcs := [] }

/-- HEAD written, and then its copy HEADC (R331). -/
def State.setHead (s : State) (q h : Nat) : State := (s.homeWrite none (s.qcb q + 16) (leBytes 8 h)).writeHeadc (q, h)

/-- The head packet is done (R332): HEAD advances and the queue is active while packets are left. -/
def State.qAdvance (s : State) (q : Nat) : State :=
  let h := s.qHead q + 1
  let s := s.qCommit q ⟨if s.qSeen q ≤ h then 0 else 1, 0, 0, 0⟩
  s.setHead q h

/-- The queue halted (R336); `past` moves HEAD past the packet. -/
def State.qHalt (s : State) (q : Nat) (past : Bool) : State :=
  if past then
    let h := s.qHead q + 1
    (s.qCommit q ⟨3, 0, 0, 0⟩).setHead q h
  else s.qCommit q { s.qNow q with st := 3 }

/-- The region path of the queue's root. -/
def State.rootPath (s : State) (q : Nat) : List RegionItems :=
  (actingDomain ((s.regionPath (s.qAsid q) (s.qRoot q).toNat).getD []) false).1

/-- QUEUE_FORMAT posted to the fault domain of ROOTRCB (R331, R333, R334). -/
def State.qFault (s : State) (q cause : Nat) (addr aux : DWord) (past : Bool) : State :=
  (s.postQueue (s.qAsid q) (s.rootPath q) 0x41 cause addr aux 0 (s.qRoot q)).qHalt q past

/-! Which queue a front end serves. -/

/-- Whether every earlier packet of the queue has completed (R334): its accepted launches are complete. -/
def State.qClear (s : State) (q : Nat) : Bool := s.launches.all fun l => l.queue != some q || l.complete

/-- The address of the head packet. -/
def State.headAddr (s : State) (q : Nat) : DWord := s.qRing q + BitVec.ofNat 64 (64 * (s.qHead q % s.qSize q))

/-- The head packet (R333): its page is waited for. -/
def State.headPacket (s : State) (q : Nat) : State × Got (List Byte) := s.agentRead (s.qAsid q) true 1 (s.headAddr q) 64

/-- Whether the head step of a queue can run (R332): SIGNAL and WRITESIGNAL block until earlier packets complete. -/
def State.qRunnable (s : State) (q : Nat) : Bool :=
  s.qEnabled q && s.qState q == 1 && decide (s.qHead q < s.qSeen q) &&
  (match (s.headPacket q).2 with
    | .ok bs => (recField bs 0 1 != 3 && recField bs 0 1 != 5) || s.qClear q
    | .wait => false
    | .bad _ _ => true)

/-- The runnable queues of a front end. -/
def State.runnableOf (s : State) (f : Nat) : List Nat :=
  (List.range 1024).filter fun q => s.feOf q == f && s.qRunnable q

/-- The highest PRIO, and round-robin from the queue served last (R332). -/
def State.pickQueue (s : State) (f : Nat) (qs : List Nat) : Option Nat :=
  let top := qs.foldl (fun m q => Max.max m (s.qPrio q)) 0
  let qs := qs.filter fun q => s.qPrio q == top
  match (s.fe f).cur with
  | some c => match qs.find? (fun q => decide (c < q)) with
    | some q => some q
    | none => qs.head?
  | none => qs.head?

/-- Whether a queue has used up its QUANTUM while another of equal or higher PRIO is runnable (R332). -/
def State.quantumOver (s : State) (f c : Nat) : Bool :=
  s.qQuantum c != 0 && decide ((s.fe f).since + microseconds (s.qQuantum c) ≤ s.clock) && (s.runnableOf f).any fun q => q != c && decide (s.qPrio c ≤ s.qPrio q)

/-- The queue whose head step the front end runs (R332): the present one until its head blocks or its time is over. -/
def State.serving (s : State) (f : Nat) : Option Nat :=
  match (s.fe f).prologue, (s.fe f).cur with
  | some p, _ => some p.queue
  | none, some c => if s.qRunnable c && !s.quantumOver f c then some c else s.pickQueue f ((s.runnableOf f).filter (· != c))
  | none, none => s.pickQueue f (s.runnableOf f)

/-- Runs a step of a queue that its front end serves; the queue becomes the one it serves. -/
def State.onQueue (s : State) (q : Nat) (k : State → List Byte → State) : State :=
  let f := s.feOf q
  if s.feReady f && s.serving f == some q then
    let s := match (s.fe f).cur with
      | some c => if c = q then s else (if s.qRunnable c then s.qCommit c (s.qNow c) else s).onFe f fun e => { e with cur := some q, since := s.clock }
      | none => s.onFe f fun e => { e with cur := some q, since := s.clock }
    match s.headPacket q with
    | (s, .ok bs) => k s bs
    | (s, .wait) => s
    | (s, .bad _ _) => s.qFault q 1 (s.headAddr q) 0 true
  else s

/-- Whether a packet is well formed (R333). A WRITESIGNAL whose ADDR is not 8-byte aligned is none: neither R333 nor R334 gives that case
a cause (DESIGN CHOICE, log entry 78). -/
def packetOk (bs : List Byte) : Bool :=
  let f := recField bs
  match f 0 1 with
  | 1 => f 1 1 / 16 == 0 && decide (f 1 1 / 4 ≤ 1) && recZero bs 2 4 && f 40 8 % 8 == 0 && f 48 8 == 0
  | 2 => f 1 1 / 16 == 0 && decide (f 1 1 / 4 ≤ 1) && recZero bs 2 4 && f 40 8 % 8 == 0
  | 3 => recZero bs 1 8 && recZero bs 24 64
  | 4 => recZero bs 1 8 && recZero bs 24 64
  | 5 => recZero bs 1 8 && f 8 8 % 8 == 0 && recZero bs 40 64
  | _ => false

/-- The launch that the `rep`-th hand-off of a packet asks for (R371), with a grid and parameters where a prologue gave them. -/
def State.packetReq (s : State) (q rep : Nat) (bs : List Byte) (grid : Option (Nat × Nat × Nat)) (given : Option (List DWord)) : LaunchReq :=
  let f := recField bs
  let g := grid.getD (f 4 4, f 8 4, f 12 4)
  { asid := s.qAsid q, root := s.qRoot q, kd := BitVec.ofNat 64 (f 16 8), rcb := BitVec.ofNat 64 (f 24 8), gx := g.1, gy := g.2.1, gz := g.2.2, gang := (f 1 1).testBit 0, persist := (f 1 1).testBit 1, geometry := f 1 1 / 4 == 1, initial := f 60 4, params := BitVec.ofNat 64 (f 32 8), given := given, done := BitVec.ofNat 64 (f 40 8), queue := some q, hint := f 56 4, join := 0, leader := none, handoff := some (q, s.qHead q, rep) }

/-- A rejected launch: the record, and the queue halted with HEAD past the packet (R336). -/
def State.qReject (s : State) (q : Nat) (r : LaunchReq) (cause : Nat) : State := (s.postReject r cause (s.headAddr q)).qHalt q true

/-! Steps of queues. -/

/-- TAIL_WAKE (R331): the front end reads TAIL as an acquire and records it. A queue that halts with cause 11 keeps its HEAD, which the
manual does not say (DESIGN CHOICE, log entry 78). -/
def execTailWake (q : Nat) (s : State) : Host.Outcome State Fault Refusal :=
  let ctr := s.qQctr q
  .next (
    if !s.qEnabled q || !s.feReady (s.feOf q) || s.qState q == 3 then s
    else if ctr.toNat % 16 ≠ 0 then s.qFault q 11 ctr 0 false
    else match s.agentCounter (s.qAsid q) ctr .rmw with
      | (s, .wait) => s
      | (s, .bad _ _) => s.qFault q 11 ctr 0 false
      | (s, .ok pa) =>
        let s := s.mergeBytes pa 8
        let tail := s.memRead pa 8
        if tail = s.qSeen q then s
        else if tail < s.qSeen q ∨ s.qHead q + s.qSize q < tail then s.qFault q 11 ctr 0 false
        else
          let s := s.homeWrite none (s.qcb q + 8) (leBytes 8 tail)
          if s.qState q = 0 then s.qCommit q { s.qNow q with st := 1 } else s)

/-- LAUNCH_PACKET (R333, R336): a packet of TYPE 1; a malformed packet of any other kind is refused here too. -/
def execLaunchPacket (q : Nat) (s : State) : Host.Outcome State Fault Refusal :=
  .next (s.onQueue q fun s bs =>
    if !packetOk bs then s.qFault q 1 (s.headAddr q) 0 true
    else if recField bs 0 1 ≠ 1 then s
    else
      let r := s.packetReq q 0 bs none none
      match s.resolve r with
      | (s, .wait) => s
      | (s, .reject cause) => s.qReject q r cause
      | (s, .ok kd path ps desc) => ((s.accept (s.feOf q) r kd path ps desc).1).qAdvance q)

/-- The step of a counter by a front end (R334, R370): COUNTER_SATURATE is charged to ROOTRCB. -/
def State.feStep (s : State) (q : Nat) (pa inc : Nat) (addr : DWord) : State :=
  match s.counterAdd pa inc with
  | (s, _, true) => s.postQueue (s.qAsid q) (s.rootPath q) 0x26 0 addr 0 0 (s.qRoot q)
  | (s, _, false) => s

/-- The counter of a SIGNAL, WAIT or WRITESIGNAL (R334), translated for a step or, by a WAIT, for a read: a failure is cause 12,
with the code in AUX. -/
def State.withCnt (s : State) (q : Nat) (cnt : DWord) (acc : Acc) (k : State → Nat → State) : State :=
  match s.agentCounter (s.qAsid q) cnt acc with
  | (s, .ok pa) => k s pa
  | (s, .wait) => s
  | (s, .bad code _) => s.qFault q 12 (s.headAddr q) (BitVec.ofNat 64 code) false

/-- SIGNAL (R334, R370). -/
def execSignal (q : Nat) (s : State) : Host.Outcome State Fault Refusal :=
  .next (s.onQueue q fun s bs =>
    if !packetOk bs || recField bs 0 1 != 3 || !s.qClear q then s
    else
      let cnt := BitVec.ofNat 64 (recField bs 8 8)
      s.withCnt q cnt .rmw fun s pa => (s.feStep q pa (recField bs 16 8) cnt).qAdvance q)

/-- WAIT (R334): the queue goes on at once, or holds STATE 2. -/
def execWait (q : Nat) (s : State) : Host.Outcome State Fault Refusal :=
  .next (s.onQueue q fun s bs =>
    if !packetOk bs || recField bs 0 1 != 4 then s
    else
      let cnt := BitVec.ofNat 64 (recField bs 8 8)
      let target := recField bs 16 8
      s.withCnt q cnt .r fun s pa =>
        let s := s.mergeBytes pa 8
        if target ≤ s.memRead pa 8 then s.qAdvance q else s.qCommit q ⟨2, 0, cnt, target⟩)

/-- WAIT_MET (R334). -/
def execWaitMet (q : Nat) (s : State) : Host.Outcome State Fault Refusal :=
  .next (if !s.qEnabled q || s.qState q != 2 || !s.feReady (s.feOf q) then s
    else s.withCnt q (s.qWaddr q) .r fun s pa =>
      let s := s.mergeBytes pa 8
      if s.qWval q ≤ s.memRead pa 8 then s.qAdvance q else s)

/-- WRITESIGNAL_STORE (R334): step 0, after the counter has been found good; the store is registered before the commit, at a peer
where ADDR lies on a peer's page (log entry 14). -/
def execWritesignalStore (q : Nat) (s : State) : Host.Outcome State Fault Refusal :=
  .next (s.onQueue q fun s bs =>
    if !packetOk bs || recField bs 0 1 != 5 || s.qStep q != 0 || !s.qClear q then s
    else s.withCnt q (BitVec.ofNat 64 (recField bs 24 8)) .rmw fun s _ =>
      match s.agentPlace (s.qAsid q) (BitVec.ofNat 64 (recField bs 8 8)) .w false with
      | (s, .wait) => s
      | (s, .bad code _) => s.qFault q 12 (s.headAddr q) (BitVec.ofNat 64 code) false
      | (s, .ok place) =>
        let s := if placePeer place then s else s.homeWrite none (placePa place) (leBytes 8 (recField bs 16 8))
        s.qCommit q { s.qNow q with step := 1 })

/-- WRITESIGNAL_SIGNAL (R370): the counter and the commit in one event. -/
def execWritesignalSignal (q : Nat) (s : State) : Host.Outcome State Fault Refusal :=
  .next (s.onQueue q fun s bs =>
    if !packetOk bs || recField bs 0 1 != 5 || s.qStep q != 1 then s
    else
      let cnt := BitVec.ofNat 64 (recField bs 24 8)
      s.withCnt q cnt .rmw fun s pa => (s.feStep q pa (recField bs 32 8) cnt).qAdvance q)

/-! Prologues. -/

/-- The number under which a front end's prologue is charged: no launch has it (R337). -/
def prologueLid (f : Nat) : Nat := 2 ^ 64 + f

/-- The warp of a front end's prologue. -/
def State.prologueWarp (s : State) (f : Nat) : Option Warp := s.allWarps.find? fun w => w.kind == .prologue f

/-- A prologue taken out of its front end. -/
def State.endPrologue (s : State) (f : Nat) : State :=
  let s := match s.prologueWarp f with
    | some w => s.removeWarp w.uid
    | none => s
  { (s.onFe f fun e => { e with prologue := none }) with launches := s.launches.filter fun l => l.lid != prologueLid f }

/-- Starts a prologue (R338): h1 to h3 hold the grid, h4 the packet's address, h5 the repeat count, k0 upwards the
parameters. -/
def State.startPrologue (s : State) (q rep : Nat) (r : LaunchReq) (kd : KernelDesc) (path : List RegionItems) (entry : DWord)
    (ps : List DWord) : State :=
  let f := s.feOf q
  let quietPath := path.map fun i => { i with system := false, debug := false }
  let l : Launch := { lid := prologueLid f, asid := r.asid, kd := kd, kdAddr := r.kd, path := quietPath, gx := 1, gy := 1, gz := 1, gang := false, persist := false, geometry := false, initial := 0, params := ps, done := 0, queue := none, hint := 0, unplaced := [], claimed := [], exited := [], join := 0, generator := none, deadline := none, arrivals := [], arrivalTry := 0, rest := false, handoff := none, killed := false, complete := true, clusters := [] }
  let hs : List DWord := [0, BitVec.ofNat 64 r.gx, BitVec.ofNat 64 r.gy, BitVec.ofNat 64 r.gz, s.headAddr q, BitVec.ofNat 64 rep]
  let solo : Solo := { entry := 0, h := hs.zipIdx.foldl (fun m e => wr m e.2 e.1) [], hp := 0, pc := entry, wmode := 0x000007, trapPc := 0, trapCode := 0, trapMask := 0, sfaddr := 0, repcnt := 0, slrpc := 0, swmode := 0x000007, sstatus := 0, fragMask := 1, sfcause := 0, wait := .none, debugStopped := false, aux := 0 }
  let w : Warp := { Warp.empty with uid := s.nextUid + 1, resident := true, launch := l.lid, core := 200 + f, kind := .prologue f, k := ps.zipIdx.foldl (fun m e => wr m e.2 e.1) [], frag := { Frag.free with mask := 1, state := .waiting }, solo := some solo }
  { (s.onFe f fun e => { e with prologue := some { queue := q, rep := rep, groups := 0, kd := kd, path := path } }) with
    warps := s.warps ++ [w], nextUid := s.nextUid + 1, launches := s.launches ++ [l] }

/-- The run of a prologue begins: steps 1 and 2 of R336, and the parameters that it starts with. -/
def State.beginPrologue (s : State) (q rep : Nat) (bs : List Byte) : State :=
  let r := s.packetReq q rep bs none none
  match s.resolveHead r with
  | (s, .wait) => s
  | (s, .bad _ cause) => s.qReject q r cause
  | (s, .ok (kd, path)) =>
    if r.params.toNat % 8 ≠ 0 ∧ kd.nparam ≠ 0 then s.qReject q r 10
    else match s.agentRead r.asid false 2 r.params (8 * kd.nparam) with
      | (s, .wait) => s
      | (s, .bad _ _) => s.qReject q r 10
      | (s, .ok ps) => s.startPrologue q rep r kd path (BitVec.ofNat 64 (recField bs 48 8)) (dwordsOf ps kd.nparam)

/-- DONE stepped under R335 (R338): a step that cannot be made is dropped, with a KIND 2 record;
false while its page is waited for. -/
def State.stepDone (s : State) (asid : BitVec 16) (path : List RegionItems) (done : DWord) (lid : Nat) (rcb : DWord) : State × Bool :=
  if done = 0 then (s, true)
  else match s.agentCounter asid done .rmw with
    | (s, .wait) => (s, false)
    | (s, .bad code cause) => (s.postQueue asid (actingDomain path false).1 code cause done 0 lid rcb, true)
    | (s, .ok pa) => match s.counterAdd pa 1 with
      | (s, _, true) => (s.postQueue asid (actingDomain path false).1 0x26 0 done 0 lid rcb, true)
      | (s, _, false) => (s, true)

/-- Steps 4 to 8 of R336 for a launch whose prologue has ended: steps 1 and 2 stand as they were before it. -/
def State.resolveAfter (s : State) (r : LaunchReq) (p : Prologue) : State × Resolved :=
  match s.launchCause r p.kd p.path with
  | some c => (s, .reject c)
  | none => s.resolveParams r p.kd p.path

/-- The verdict of a prologue that has reached RETT (R338). -/
def State.verdict (s : State) (q : Nat) (bs : List Byte) (p : Prologue) (w : Warp) (h : Solo) : State :=
  let f := s.feOf q
  let rep := p.rep
  let x := rd h.h 0
  let low (i : Nat) : Nat := (rd h.h i).toNat % 2 ^ 32
  let r0 := s.packetReq q rep bs none none
  if 3 ≤ x.toNat then (s.endPrologue f).qReject q r0 8
  else if x = 1 then
    match s.stepDone r0.asid p.path r0.done 0 r0.rcb with
    | (t, false) => t
    | (t, true) => (t.endPrologue f).qAdvance q
  else
    let r := s.packetReq q rep bs (some (low 1, low 2, low 3)) (some ((List.range p.kd.nparam).map fun i => rd w.k i))
    match s.resolveAfter r p with
    | (s, .wait) => s
    | (s, .reject cause) => (s.endPrologue f).qReject q r cause
    | (s, .ok kd path ps desc) =>
      let s := (s.accept f r kd path ps desc).1.endPrologue f
      if x = 0 then s.qAdvance q else s.qCommit q { s.qNow q with wval := rep + 1 }

/-- TWO_STAGE_LAUNCH (R338): the prologue of a TYPE 2 packet starts, or its end decides. -/
def execTwoStageLaunch (q : Nat) (s : State) : Host.Outcome State Fault Refusal :=
  .next (s.onQueue q fun s bs =>
    if !packetOk bs || recField bs 0 1 != 2 then s
    else match (s.fe (s.feOf q)).prologue with
      | none => if s.qWval q = 0 then s.beginPrologue q 0 bs else s
      | some p =>
        (match s.prologueWarp (s.feOf q) with
          | none => s
          | some w =>
            let dead := w.frag.state == .trapped || s.killed (prologueLid (s.feOf q))
            if dead || decide (65536 < p.groups) then
              (s.endPrologue (s.feOf q)).qReject q (s.packetReq q p.rep bs none none) (if dead then 8 else 9)
            else match w.solo with
              | some h => if h.wait = .parked ∧ s.quiet w.uid then s.verdict q bs p w h else s
              | none => s))

/-- PROLOGUE_REPEAT (R338, R371): the next run starts with the repeats accepted so far. -/
def execPrologueRepeat (q : Nat) (s : State) : Host.Outcome State Fault Refusal :=
  .next (s.onQueue q fun s bs =>
    if !packetOk bs || recField bs 0 1 != 2 || (s.fe (s.feOf q)).prologue.isSome || s.qWval q == 0 then s
    else s.beginPrologue q (s.qWval q) bs)

/-- A prologue that has issued more than 65,536 groups ends with cause 9 (R338). -/
def State.groupLimit (s : State) (fe : Nat) : State :=
  match (s.fe fe).prologue with
  | none => s
  | some p =>
    if p.groups ≤ 65536 then s
    else match s.headPacket p.queue with
      | (s, .ok bs) => (s.endPrologue fe).qReject p.queue (s.packetReq p.queue p.rep bs none none) 9
      | (s, _) => s

/-- PROLOGUE_GROUP_LIMIT (R338). -/
def execPrologueGroupLimit (fe : Nat) (s : State) : Host.Outcome State Fault Refusal := .next (s.groupLimit fe)

/-- A prologue has issued a group (R338). -/
def State.countPrologue (s : State) (fe : Nat) : State :=
  s.onFe fe fun e => { e with prologue := e.prologue.map fun p => { p with groups := p.groups + 1 } }

/-! Time slices, recovery and restart. -/

/-- QUANTUM_EXPIRY (R332): the front end switches between steps, and STEP is recorded. -/
def execQuantumExpiry (fe : Nat) (s : State) : Host.Outcome State Fault Refusal :=
  let e := s.fe fe
  .next (match e.cur, e.prologue with
    | some c, none =>
      let others := (s.runnableOf fe).filter fun q => q != c && decide (s.qPrio c ≤ s.qPrio q)
      if !s.quantumOver fe c then s
      else match s.pickQueue fe others with
        | some q => (s.qCommit c (s.qNow c)).onFe fe fun e => { e with cur := some q, since := s.clock }
        | none => s
    | _, _ => s)

/-- FRONT_END_WATCHDOG (R372): a front end that has work and has committed nothing for 1 ms is reset; its prologue is
discarded, and its queues go on from their live copies. -/
def execFrontEndWatchdog (fe : Nat) (s : State) : Host.Outcome State Fault Refusal :=
  let busy := (s.fe fe).prologue.isSome || !(s.runnableOf fe).isEmpty
  .next (if !busy || decide (s.clock < (s.fe fe).commit + microseconds 1000) then s
    else
      let arg := BitVec.ofNat 64 (((s.fe fe).cur).getD 0)
      ((s.endPrologue fe).onFe fe fun e => { e with cur := none, since := s.clock, commit := s.clock }).logEvent 4 0 arg 0)

/-- QUEUE_RESTART (R336): Tregrim writes STATE 1, and the queue goes on at its recorded STEP. -/
def execQueueRestart (q : Nat) (s : State) : Host.Outcome State Fault Refusal :=
  .next (if s.qEnabled q && s.qState q == 3 then s.qCommit q { s.qNow q with st := 1 } else s)

/-- HAWTHORN_TAKEOVER (R344): the standby goes on with the placement state, and its permits are what the leaves report: the
commands that each has not answered. -/
def execHawthornTakeover (s : State) : Host.Outcome State Fault Refusal :=
  .next (if s.hawActive = 0 then { (s.logEvent 5 0 0 0) with hawActive := 1, permits := s.leafOpen } else s)

end Sys2Proof.Machine
end

