-- ==== Sys2Proof/Machine/Preempt.lean ====
section
/-! DEFINITION. Pre-emption of workgroups (R362–R366), the save image (R367, R368), the bound of a drain (R369) and the
release of a debug stop (R124). -/

namespace Sys2Proof.Machine

/-! The stop and the method. -/

/-- Whether the kernel, the region and the workgroup allow flush-and-restart (R362). -/
def State.flushable (s : State) (l : Launch) (g : Wg) : Bool :=
  let r := l.path.headD RegionItems.empty
  let idemp := if fragWg g.idx then (s.passOf l.lid).any fun p => (p.field (256 + 19) 1).testBit 0 else l.kd.flags.getLsbD 0
  let solo := s.allWarps.any fun w => g.uids.contains w.uid && w.solo.isSome
  r.pmeth.testBit 2 && idemp && g.eligible && !solo && !l.gang

/-- `Method` (R362). -/
def State.method (s : State) (l : Launch) (g : Wg) : PreState :=
  let r := l.path.headD RegionItems.empty
  let elig := s.flushable l g
  let p : Option Nat := if l.hint = 0 then none else some (Min.min 1000 (1000 * g.retired / l.hint))
  if l.gang then (if r.pmeth.testBit 1 then .saving else .draining)
  else if r.pmeth.testBit 0 && p.any (fun x => decide (r.drainpm ≤ x)) then .draining
  else if elig && p.all (fun x => decide (x ≤ r.flushpm)) then .flushing
  else if r.pmeth.testBit 1 then .saving
  else if elig then .flushing
  else .draining

/-- The warps of a workgroup. -/
def State.warpsOf (s : State) (g : Wg) : List Warp := s.allWarps.filter fun w => g.uids.contains w.uid

/-- Puts a workgroup into a pre-emption state, its open latch chains forced off (R91, R362). -/
def State.stopWg (s : State) (lid idx : Nat) (p : PreState) : State :=
  let s := s.onWg lid idx fun g => { g with pre := p, preSince := s.clock }
  s.onWarps (fun w => w.launch == lid && w.wg == idx && w.chainOpen) Warp.forceOff

/-- The workgroups that are pre-empted together: those of a GANG launch (R362). -/
def State.together (s : State) (lid idx : Nat) (p : PreState) : List Wg :=
  let gang := (s.launchOf lid).any fun l => l.gang
  s.wgs.filter fun g => g.launch == lid && (gang || g.idx == idx) && g.pre == p

/-- Effective PRIO of the placement that asks for the resources of a launch (R342, R369): the first of a higher PRIO that
waits; 0 where none does. -/
def State.requester (s : State) (lid : Nat) : Nat := match s.launchOf lid with
  | none => 0
  | some l => (s.launches.filter fun m => m.lid != lid && decide (l.prio < m.prio) && (s.placing m != 0 || s.hasSaved m.lid)).foldl
      (fun n m => Max.max n m.prio) 0

/-- PREEMPTION_REQUEST (R362, R363). -/
def execPreemptionRequest (lid wg : Nat) (s : State) : Host.Outcome State Fault Refusal :=
  .next (if (s.wgOf lid wg).any fun g => g.pre == .running then
      let by_ := s.requester lid
      (s.together lid wg .running).foldl (fun s g => (s.stopWg g.launch g.idx .stopping).onWg g.launch g.idx fun g => { g with forPrio := by_ }) s
    else s)

/-- PREEMPT_STOPPED (R362, R363): between two steps every warp stands at a group boundary. -/
def execPreemptStopped (lid wg : Nat) (s : State) : Host.Outcome State Fault Refusal :=
  .next (match s.launchOf lid, s.wgOf lid wg with
    | some l, some g =>
      if g.pre == .stopping then
        (s.together lid wg .stopping).foldl (fun t h => t.onWg h.launch h.idx fun x => { x with pre := s.method l h, preSince := s.clock }) s
      else s
    | _, _ => s)

/-- The effective bound of a drain in ck, 0 for none (R369): at most 20 µs for a requester of effective PRIO 7. -/
def Wg.drainBound (g : Wg) (l : Launch) : Nat :=
  let own := (l.path.headD RegionItems.empty).pbound
  microseconds (if g.forPrio = 7 then (if own = 0 then 20 else Min.min own 20) else own)

/-- DRAIN_BOUND_EXPIRY (R363). -/
def execDrainBoundExpiry (lid wg : Nat) (s : State) : Host.Outcome State Fault Refusal :=
  .next (match s.launchOf lid, s.wgOf lid wg with
    | some l, some g =>
      let b := g.drainBound l
      let r := l.path.headD RegionItems.empty
      if g.pre != .draining || b == 0 || decide (s.clock < g.preSince + b) then s
      else if r.pmeth.testBit 1 then (s.together lid wg .draining).foldl (fun s g => s.stopWg g.launch g.idx .saving) s
      else if s.flushable l g then s.stopWg lid wg .flushing
      else s
    | _, _ => s)

/-! Withdrawal before a save. -/

/-- Whether a request is parked on a fill. -/
def LaneReq.onFill (l : LaneReq) : Bool := match l.stage with
  | .parkFill _ => true
  | _ => false

/-- The requests of an operation that leave their waiter lists, both parts of a row (R232). -/
def Op.fillParked (o : Op) : List LaneReq :=
  o.lanes.filter fun l => l.stage != .done && o.lanes.any fun m => m.onFill && (m.lane == l.lane || o.kind.tileMove && m.lane % 64 == l.lane % 64)

/-- What a fragment or handler waits for when its parked group will be issued again. -/
def Op.againOn (o : Op) : Wait := (o.fillParked.findSome? fun l => match l.stage with
  | .parkFill leader => some (.fill leader l.va)
  | _ => none).getD .none

/-- The bytes at which such requests keep their place (R286). -/
def Op.parkedBytes (o : Op) : List (DWord × Nat) := o.fillParked.map fun l => (l.va, l.bytes o.kind)

/-- A fragment whose group's lanes leave their waiter lists (R365): the group will issue again for them. -/
def Frag.recordParked (f : Frag) (o : Op) : Frag :=
  if f.state = .waiting ∧ f.wait = .lanes o.id then
    { f with pmask := o.fillParked.foldl (fun m l => m ||| laneBit (l.lane % 64)) 0, pc := o.pc, repcnt := o.rep, group := none, wait := o.againOn, holds := o.parkedBytes, whole := false }
  else f

/-- The same for a handler (R258). -/
def Solo.recordParked (h : Solo) (o : Op) : Solo := if h.wait = .lanes o.id then { h with pc := o.pc, wait := o.againOn, holds := o.parkedBytes } else h

/-- Whether a fragment or handler of its warp waits for the operation since its group issued. -/
def State.waitedFor (s : State) (o : Op) : Bool := (s.findWarp o.uid).any fun w =>
  (w.solo.any fun h => h.wait == .lanes o.id) || w.live.any fun e => e.2.state == .waiting && e.2.wait == .lanes o.id

/-- A fragment whose acquisition is withdrawn (R365): its group will issue again. -/
def Frag.recordAcquire (f : Frag) (o : Op) : Frag :=
  if f.state = .waiting ∧ (f.wait = .acquire o.id ∨ f.wait = .shadow o.id) then { f with pc := o.pc, repcnt := o.rep, group := none } else f

/-- What marks a cancelled ray (R365), and a lane that left its waiter list after its group: they come again at restore. -/
def cancelledRay : Nat := 2 ^ 61

/-- Acquisitions of R216 and R229. -/
def OpKind.acquires : OpKind → Bool
  | .acquireRegs _ _ _ => true
  | .acquireTiles _ _ _ => true
  | .shadowReq _ => true
  | _ => false

/-- Steps 1 and 2 of a save for one operation (R365). Lanes that parked after their group had issued leave the list too, and
come again after the restore (log entry 68). -/
def State.withdrawOp (s : State) (o : Op) : State :=
  if o.kind.acquires then
    { (s.onWarp o.uid fun w => w.onFrag o.entry fun f => f.recordAcquire o) with ops := s.ops.filter fun p => p.id != o.id }
  else if o.fillParked.isEmpty then s
  else
    let group := s.waitedFor o
    let s := s.onWarp o.uid fun w =>
      let hand (h : Solo) : Solo := h.recordParked o
      let w : Warp := { w with solo := w.solo.map hand }
      w.setLive (w.live.map fun e => (e.1, e.2.recordParked o))
    let leave (l : LaneReq) : LaneReq :=
      if group then (if o.fillParked.any fun m => m.lane == l.lane then { l with stage := .done } else l)
      else if l.onFill then { l with stage := .retry cancelledRay } else l
    (s.onOp o.id fun o => { o with lanes := o.lanes.map leave }).settle o.id

/-- Steps 1 and 2 of a save (R365). -/
def State.withdraw (s : State) (g : Wg) : State :=
  let s := (s.ops.filter fun o => g.uids.contains o.uid).foldl (fun s o => s.withdrawOp o) s
  let parked (r : Ray) : Bool := r.parked.any fun k => decide (k < 2 ^ 60)
  let cancel (r : Nat × Ray) : Nat × Ray := if parked r.2 then (r.1, { r.2 with parked := some cancelledRay }) else r
  let s := s.onWarps (fun w => g.uids.contains w.uid) fun w => { w with rays := w.rays.map cancel }
  let blocks := (s.warpsOf g).filterMap fun w => w.fillOpen
  let edgeless (f : Fill) : Fill := if blocks.contains f.block.toNat && f.asid == s.asidOf g.launch then { f with edges := [] } else f
  { s with fills := s.fills.map edgeless }

/-- Whether an operation has only lanes left that come again after a restore: none that has still to complete (R279). -/
def State.staysOver (s : State) (o : Op) : Bool :=
  !s.waitedFor o && !o.lanes.isEmpty && o.lanes.all fun l => l.stage == .done || l.stage == .retry cancelledRay

/-- Whether everything else of a workgroup has completed (R365): calls and cancelled rays stay in the image. -/
def State.saveReady (s : State) (g : Wg) : Bool :=
  (!s.ops.any fun o => g.uids.contains o.uid && !s.staysOver o && (match o.kind with
    | .sysc _ => false
    | .trace _ => false
    | _ => true)) &&
  (s.warpsOf g).all fun w => w.rays.all fun r => !r.2.running || r.2.parked == some cancelledRay

/-! The image. -/

/-- The WAIT code and barrier number of a wait (R366). -/
def waitCode (w : Wait) : Nat × Nat :=
  match w with
  | .none => (0, 0)
  | .bar n _ => (1, n)
  | .gbar n => (2, n)
  | .cwait _ _ _ _ => (3, 0)
  | .acquire _ => (4, 0)
  | .shadow _ => (4, 0)
  | .lanes _ => (5, 0)
  | .late _ => (5, 0)
  | .fill _ _ => (5, 0)
  | .poll => (5, 0)
  | .refused _ _ _ _ => (5, 0)
  | .page _ _ _ => (5, 0)
  | .cpyY _ _ _ => (6, 0)
  | .sysc _ => (7, 0)
  | .upcall _ => (8, 0)
  | .parked => (9, 0)
  | .held => (10, 0)

/-- The STATE code of a fragment (R34). -/
def FragState.code : FragState → Nat
  | .ready => 0
  | .waiting => 1
  | .atJoin => 2
  | .trapped => 3
  | .debugStopped => 4

/-- The fragment state of a STATE code. -/
def FragState.ofCode : Nat → FragState
  | 0 => .ready
  | 1 => .waiting
  | 2 => .atJoin
  | 3 => .trapped
  | _ => .debugStopped

/-- A split entry of the image (R368). A fragment that waits as a whole is recorded with its whole mask. -/
def splitBytes (w : Warp) (e : Nat) : List Byte :=
  match SMap.find e w.live with
  | none => leBytes 32 0
  | some f =>
    let wait := match w.solo with
      | some h => if h.entry = e then waitCode h.wait else waitCode f.wait
      | .none => waitCode f.wait
    let pm := if wait.1 = 5 ∧ f.pmask = 0 then f.mask else f.pmask
    leBytes 8 f.mask.toNat ++ leBytes 8 f.pc.toNat ++ leBytes 8 pm.toNat ++ leBytes 3 f.wmode.toNat ++ leBytes 1 f.state.code ++
    leBytes 1 (f.jrec.getD 0xFF) ++ leBytes 1 f.repcnt ++ leBytes 1 wait.1 ++ leBytes 1 wait.2

/-- A join record of the image. -/
def joinBytes (w : Warp) (j : Nat) : List Byte :=
  match SMap.find j w.joins with
  | none => leBytes 24 0
  | some r => leBytes 8 r.addr.toNat ++ leBytes 8 r.union.toNat ++ leBytes 3 r.wmode.toNat ++ leBytes 1 (r.parent.getD 0xFF) ++ leBytes 4 0

/-- The handler's part of the image, h registers and solo control registers. -/
def soloBytes (w : Warp) : List Byte :=
  match w.solo with
  | none => leBytes 256 0
  | some h =>
    ((List.range 16).flatMap fun i => leBytes 8 (rd h.h i).toNat) ++ leBytes 8 h.trapPc.toNat ++ leBytes 4 h.trapCode.toNat ++ leBytes 4 0 ++
    leBytes 8 h.trapMask.toNat ++ leBytes 8 h.sfaddr.toNat ++ leBytes 8 h.slrpc.toNat ++ leBytes 8 h.sstatus.toNat ++ leBytes 3 h.swmode.toNat ++
    leBytes 1 h.repcnt.toNat ++ leBytes 1 h.hp.toNat ++ leBytes 3 h.wmode.toNat ++ leBytes 8 h.pc.toNat ++ leBytes 1 h.sfcause.toNat ++ leBytes 63 0

/-- The pending area (R368): what the first fragment that waits for copies or calls waits for, else the handler's upcall; the
device keeps what others wait for (log entry 68). -/
def State.pendingBytes (s : State) (w : Warp) : List Byte :=
  let area (kind e d : Nat) (m : Mask) (cont : DWord) (bad : Bool) : List Byte :=
    leBytes 1 kind ++ leBytes 1 e ++ leBytes 1 d ++ leBytes 5 0 ++ leBytes 8 m.toNat ++ leBytes 8 0 ++ leBytes 8 cont.toNat ++
    leBytes 1 (if bad then 1 else 0) ++ leBytes 735 0
  let upcall := match w.solo with
    | some h => (match h.wait with
      | .upcall _ => some h.entry
      | _ => none)
    | none => none
  let found := w.live.findSome? fun e => match e.2.wait with
    | .cpyY cont jobs bad =>
      some (area 1 e.1 0 ((s.copyJobs.filter fun j => jobs.contains j.id).foldl (fun m j => m ||| laneBit j.lane) 0) cont bad)
    | .sysc op => (s.opOf op).map fun o =>
      area 2 e.1 (match o.kind with
        | .sysc d => d.toNat
        | _ => 0xF5) ((o.lanes.filter fun l => l.stage != .done).foldl (fun m l => m ||| laneBit l.lane) 0) 0 false
    | _ => none
  match found, upcall with
  | some bs, _ => bs
  | none, some e => area 3 e 0 1 0 false
  | none, none => leBytes 768 0

/-- A traversal slot of a lane in the image: the eight words of R249. -/
def rayBytes (w : Warp) (key : Nat) : List Byte :=
  (((SMap.find key w.rays).map (·.hit)).getD (missRecord 0)).flatMap fun x => leBytes 4 x.toNat

/-- Tiles of a mask in tile order, 16 KiB each. -/
def tileBytes (t : SMap Word) (m : Byte) : List Byte :=
  ((List.range 8).filter fun n => m.getLsbD n).flatMap fun n => (List.range 4096).flatMap fun i => leBytes 4 (rd t (4096 * n + i)).toNat

/-- Bytes of a warp record. -/
def Warp.recordLen (w : Warp) : Nat := 13312 + 4096 * (w.quota + 1) + 16384 * (popByte w.tv + popByte w.ts)

/-- A warp record (R368). -/
def State.warpBytes (s : State) (w : Warp) : List Byte :=
  let pending := s.pendingBytes w
  let flags := (if w.solo.isSome then 1 else 0) + (if w.fillOpen.isSome then 2 else 0) + (if pending.head? != some 0 then 4 else 0) + (if w.debug then 8 else 0)
  leBytes 1 w.inWg ++ leBytes 1 w.quota ++ leBytes 1 w.tquota ++ leBytes 1 flags ++ leBytes 1 w.svcPtr ++
  leBytes 1 (match w.solo with
    | some h => h.entry
    | none => 0xFF) ++ leBytes 2 0 ++
  leBytes 4 w.tstat.toNat ++ leBytes 4 w.trapCode.toNat ++ leBytes 8 w.trapMask.toNat ++ leBytes 8 w.arrival.toNat ++
  leBytes 8 w.liveLanes.toNat ++ leBytes 8 w.helper.toNat ++ leBytes 8 w.recordLen ++ leBytes 8 (w.fillOpen.getD 0) ++
  ((List.range 48).flatMap fun i => leBytes 8 (rd w.k i).toNat) ++ ((List.range 7).flatMap fun i => leBytes 8 (rd w.p i).toNat) ++ leBytes 8 0 ++
  (allLanes.flatMap fun e => splitBytes w e) ++ (allLanes.flatMap fun j => joinBytes w j) ++ soloBytes w ++ pending ++
  ((List.range 4).flatMap fun q => allLanes.flatMap fun l => rayBytes w (64 * q + l)) ++
  ((List.range (16 * (w.quota + 1))).flatMap fun r => allLanes.flatMap fun l => leBytes 4 (rd w.v (64 * r + l)).toNat) ++
  tileBytes w.tiles w.tv ++ tileBytes w.shadow w.ts

/-- Rounded up to 4 KiB. -/
def page4k (n : Nat) : Nat := (n + 4095) / 4096 * 4096

/-- Offsets of the warp records and the end of the image (R367). -/
def imageOffsets (at_ : Nat) : List Warp → List Nat × Nat
  | [] => ([], at_)
  | w :: ws => match imageOffsets (page4k (at_ + w.recordLen)) ws with
    | (os, e) => (at_ :: os, if ws.isEmpty then at_ + w.recordLen else e)

/-- The header of the image (R367). -/
def State.imageHeader (s : State) (l : Launch) (g : Wg) (ws : List Warp) : List Byte :=
  let p := if fragWg g.idx then (fragCoord g.idx 0, fragCoord g.idx 1, fragCoord g.idx 2) else l.index g.idx
  let kd := if fragWg g.idx then (((s.passOf l.lid).map fun p => p.fragKd).getD 0) else l.kdAddr.toNat
  let offs := imageOffsets (page4k (512 + g.sramSize)) ws
  let flags := (if l.gang then 1 else 0) + (if g.eligible then 2 else 0) + (if ws.any (·.debug) then 4 else 0)
  let arrived (b : BarState) : Nat := ws.foldl (fun m w => if b.arrived.contains w.uid then m + 2 ^ w.inWg else m) 0
  leBytes 4 0x49575350 ++ leBytes 2 1 ++ leBytes 1 ws.length ++ leBytes 1 flags ++ leBytes 8 l.lid ++ leBytes 8 kd ++
  leBytes 8 (l.path.headD RegionItems.empty).rcb.toNat ++ leBytes 4 p.1 ++ leBytes 4 p.2.1 ++ leBytes 4 p.2.2 ++ leBytes 4 g.sramSize ++
  leBytes 8 g.retired ++ leBytes 8 offs.2 ++
  ((List.range 8).flatMap fun n => let b := g.bar n
    leBytes 4 b.gen ++ leBytes 1 b.count ++ leBytes 1 0 ++ leBytes 2 (arrived b)) ++
  ((List.range 4).flatMap fun n => match g.fetch[n]? with
    | some r => leBytes 4 r.mailbox ++ leBytes 4 r.seq ++ leBytes 1 1 ++ leBytes 7 0
    | none => leBytes 16 0) ++
  ((List.range 4).flatMap fun n => match SMap.find n g.gbars with
    | some b => leBytes 4 b.gen ++ leBytes 1 (if b.arrived then 1 else 0) ++ leBytes 11 0
    | none => leBytes 16 0) ++
  ((List.range 16).flatMap fun i => leBytes 8 ((offs.1[i]?).getD 0)) ++ leBytes 128 0

/-- The bytes of the image, each with its offset. -/
def State.imageParts (s : State) (l : Launch) (g : Wg) (ws : List Warp) : List (Nat × List Byte) :=
  let sram := (List.range g.sramSize).map fun i => rd s.sram (g.core * 2 ^ 19 + g.sramBase + i)
  (0, s.imageHeader l g ws) :: (512, sram) :: (imageOffsets (page4k (512 + g.sramSize)) ws).1.zip (ws.map s.warpBytes)

/-- The warps of a workgroup in the order of their records. -/
def State.recordOrder (s : State) (g : Wg) : List Warp := sortBy (·.inWg) (s.warpsOf g)

/-- Warps of a workgroup leave their slots for the list of the saved. -/
def State.shelve (s : State) (g : Wg) : State :=
  let ws := s.warpsOf g
  { s with
    warp := if g.uids.contains s.warp.uid && s.warp.resident then Warp.empty else s.warp
    warps := s.warps.filter fun w => !g.uids.contains w.uid
    saved := s.saved ++ ws }

/-- The image of a saved workgroup, by its address and length. -/
def State.savedImages (s : State) : List (Nat × Nat) :=
  (s.wgs.filter fun g => g.pre == .saved).map fun g => (g.image, s.memRead (g.image + 56) 8)

/-- Whether `n` bytes at an address can take a save image (R365): a 4 KiB-aligned range of DRAM on pages of the context that have USER
clear, which no page with USER set maps, and apart from other images and from the QCBs. -/
def State.saveArea (s : State) (asid : BitVec 16) (area n : Nat) : Bool :=
  let leaves := s.allLeaves asid
  area % 4096 == 0 && s.inDram area && s.inDram (area + n - 1) && !s.userMaps area n &&
  ((List.range ((n + 4095) / 4096)).all fun i => leaves.any fun e => !eUser e.2.1.entry && e.2.1.maps (area + 4096 * i) 4096) &&
  (s.savedImages.all fun e => !overlap area n e.1 e.2) && !(s.qbase != 0 && overlap area n s.qbase.toNat (2 ^ 18))

/-- Bytes of a workgroup's image. -/
def State.imageLen (s : State) (g : Wg) : Nat := (imageOffsets (page4k (512 + g.sramSize)) (s.recordOrder g)).2

/-- A workgroup's image written and its resources returned (R365). -/
def State.saveOn (s : State) (l : Launch) (g : Wg) (area : Nat) : State :=
  let s := (s.imageParts l g (s.recordOrder g)).foldl (fun s p => s.homeWrite none (area + p.1) p.2) s
  (s.shelve g).onWg g.launch g.idx fun g => { g with pre := .saved, image := area }

/-- Where the images of workgroups that are saved together begin, each at a 4 KiB boundary after the one before. -/
def State.saveAreas (s : State) : Nat → List Wg → List (Wg × Nat)
  | _, [] => []
  | area, g :: gs => (g, area) :: State.saveAreas s (page4k (area + s.imageLen g)) gs

/-- WORKGROUP_SAVE (R365): `area` is where Tregrim puts the image, of a GANG launch the images (R362). The event acts in two
parts: what is to be withdrawn is, and once the rest has completed the images are written and the resources return. -/
def execWorkgroupSave (lid wg area : Nat) (s : State) : Host.Outcome State Fault Refusal :=
  .next (match s.launchOf lid, s.wgOf lid wg with
    | some l, some g =>
      if g.pre != .saving then s
      else
        let gs := s.together lid wg .saving
        let s := gs.foldl (fun s g => s.withdraw g) s
        let at_ := s.saveAreas area gs
        if !gs.all s.saveReady || !at_.all fun e => s.saveArea l.asid e.2 (s.imageLen e.1) then s
        else at_.foldl (fun s e => s.saveOn l e.1 e.2) s
    | _, _ => s)

/-! Flush. -/

/-- Whether a store of a workgroup that is not parked on a fill is still on its way (R364). -/
def State.flushBusy (s : State) (g : Wg) : Bool :=
  s.ops.any fun o => g.uids.contains o.uid && o.kind.writes && o.lanes.any fun l => match l.stage with
    | .done => false
    | .parkFill _ => false
    | _ => true

/-- WORKGROUP_FLUSH (R364): the run is discarded and the workgroup is unplaced again; a fragment warp waits for its
replay (R381). -/
def execWorkgroupFlush (lid wg : Nat) (s : State) : Host.Outcome State Fault Refusal :=
  .next (match s.launchOf lid, s.wgOf lid wg with
    | some _, some g =>
      if g.pre != .flushing || s.flushBusy g then s
      else
        let s := s.withdraw g
        let frags := (s.warpsOf g).filter fun w => w.kind == .fragment
        let s := g.uids.foldl (fun s u => s.removeWarp u) s
        let s : State := { s with wgs := s.wgs.filter fun h => !(h.launch == lid && h.idx == wg) }
        let s := s.onPass lid fun p => { p with waiting := p.waiting.filter fun e => e.1 != wg }
        if frags.isEmpty then s.onLaunch lid fun l => { l with unplaced := insertBy id wg l.unplaced }
        else s.onPass lid fun p => { p with reruns := p.reruns ++ frags }
    | _, _ => s)

/-! Saved workgroups. -/

/-- The record of the `wi`-th warp of a saved workgroup. -/
def State.recordAt (s : State) (g : Wg) (wi : Nat) : Nat := g.image + s.memRead (g.image + 256 + 8 * wi) 8

/-- Sets a bit of READYMASK with one 8-byte OR (R365). -/
def State.setReady (s : State) (rec_ lane : Nat) : State :=
  let a := rec_ + 4352 + 16
  s.homeWrite none a (leBytes 8 (s.memQ a ||| laneBit lane).toNat)

/-- A call's result taken for a lane, and the submission struck from its record. -/
def State.takeReply (s : State) (op lane : Nat) : Option (State × DWord) :=
  match s.calls.find? (fun c => c.result.isSome && c.subs.contains (op, lane)) with
  | none => none
  | some c =>
    let strike (r : Call) : Call := if r.id = c.id then { r with subs := r.subs.filter fun e => e != (op, lane) } else r
    let s : State := { s with calls := s.calls.map strike }
    some ((s.onOp op fun o => o.onLane lane fun l => { l with stage := .done }).retireCalls, c.result.getD 0)

/-- SAVED_IMAGE_REPLY_WRITE (R365): a copy or reply that has finished for a lane of a saved warp. -/
def execSavedImageReplyWrite (lid wg wi lane : Nat) (s : State) : Host.Outcome State Fault Refusal :=
  .next (match s.wgOf lid wg with
    | none => s
    | some g =>
      if g.pre != .saved || decide (64 ≤ lane) then s
      else match (s.savedOf g)[wi]? with
        | none => s
        | some w =>
          let r := s.recordAt g wi
          let pend := 4352 + r
          let waits := (s.memQ (pend + 8)).getLsbD lane && !(s.memQ (pend + 16)).getLsbD lane
          if !waits then s
          else match s.memRead pend 1 with
            | 1 =>
              if s.copyJobs.any fun j => j.uid == w.uid && j.lane == lane then s
              else
                let bad := match (w.fragAt (s.memRead (pend + 1) 1)).wait with
                  | .cpyY _ _ b => b
                  | _ => false
                (if bad then s.homeWrite none (pend + 32) [1] else s).setReady r lane
            | 2 =>
              let op := match (w.fragAt (s.memRead (pend + 1) 1)).wait with
                | .sysc op => some op
                | _ => none
              (match op.bind fun op => s.takeReply op lane with
                | some (s, x) => (s.homeWrite none (pend + 64 + 8 * lane) (leBytes 8 x.toNat)).setReady r lane
                | none => s)
            | 3 =>
              (match w.solo with
                | none => s
                | some h => (match h.wait with
                  | .upcall slot =>
                    (match s.reachAs (some (s.asidOf lid)) slot.toNat .r (s.region lid).system with
                      | none => s
                      | some pa =>
                        let owned := s.bytesOwned pa 32
                        let s := s.mergeBytes pa 32
                        if bit slot 0 || owned || s.memQ (pa + 8) == 0 then s
                        else (s.homeWrite none (pend + 64) (leBytes 8 (s.memRead (pa + 16) 8) ++ leBytes 8 (s.memRead (pa + 24) 8))).setReady r 0)
                  | _ => s))
            | _ => s)

/-! Restore. -/

/-- Words of a record in memory, as a table. -/
def State.loadWords (s : State) (pa n : Nat) : SMap Word := (List.range n).foldl (fun m i => wr m i (BitVec.ofNat 32 (s.memRead (pa + 4 * i) 4))) []

def State.loadDwords (s : State) (pa n : Nat) : SMap DWord := (List.range n).foldl (fun m i => wr m i (s.memQ (pa + 8 * i))) []

/-- Tile images of a mask, in tile order. -/
def State.loadTiles (s : State) (pa : Nat) (m : Byte) : SMap Word :=
  ((List.range 8).filter fun n => m.getLsbD n).zipIdx.foldl (fun t e =>
    (List.range 4096).foldl (fun t i => wr t (4096 * e.1 + i) (BitVec.ofNat 32 (s.memRead (pa + 16384 * e.2 + 4 * i) 4))) t) []

/-- What a fragment waits for by its WAIT and barrier number in the image (R366): what it waited for when it was saved, where
that has this code. -/
def waitOf (code n : Nat) (old : Wait) : Wait :=
  if waitCode old = (code, n) then old
  else match code with
    | 1 => .bar n 0
    | 2 => .gbar n
    | 9 => .parked
    | 10 => .held
    | _ => .none

/-- A split entry of the image (R368), `old` as it was saved. -/
def State.loadEntry (s : State) (a : Nat) (solo : Bool) (old : Frag) : Option Frag :=
  let mask : Mask := s.memQ a
  if mask = 0 then none
  else some { Frag.free with
    mask := mask, pc := s.memQ (a + 8), pmask := s.memQ (a + 16), wmode := BitVec.ofNat 24 (s.memRead (a + 24) 3)
    state := FragState.ofCode (s.memRead (a + 27) 1), jrec := (if s.memRead (a + 28) 1 = 0xFF then none else some (s.memRead (a + 28) 1))
    repcnt := s.memRead (a + 29) 1, parkPend := old.parkPend, holds := old.holds, whole := old.whole
    wait := if solo then old.wait else waitOf (s.memRead (a + 30) 1) (s.memRead (a + 31) 1) old.wait }

/-- A join record of the image. -/
def State.loadJoin (s : State) (a : Nat) : Option JoinRec :=
  let union : Mask := s.memQ (a + 8)
  let parent := s.memRead (a + 19) 1
  if union = 0 then none
  else some { addr := s.memQ a, union := union, wmode := BitVec.ofNat 24 (s.memRead (a + 16) 3), parent := if parent = 0xFF then none else some parent }

/-- The handler of the image (R368) for the fragment `f` in entry `e`. -/
def State.loadSolo (s : State) (r e : Nat) (f : Frag) (old : Option Solo) : Solo :=
  let a := 4224 + r
  { entry := e, h := s.loadDwords (4096 + r) 16, hp := BitVec.ofNat 8 (s.memRead (a + 52) 1), pc := s.memQ (a + 56), wmode := BitVec.ofNat 24 (s.memRead (a + 53) 3), trapPc := s.memQ a, trapCode := BitVec.ofNat 32 (s.memRead (a + 8) 4), trapMask := s.memQ (a + 16), sfaddr := s.memQ (a + 24), repcnt := BitVec.ofNat 7 (s.memRead (a + 51) 1), slrpc := s.memQ (a + 32), swmode := BitVec.ofNat 24 (s.memRead (a + 48) 3), sstatus := s.memQ (a + 40), fragMask := f.mask, sfcause := BitVec.ofNat 8 (s.memRead (a + 64) 1), wait := waitOf (s.memRead (r + 512 + 32 * e + 30) 1) 0 ((old.map (·.wait)).getD .none), debugStopped := f.state == .debugStopped, aux := (old.map (·.aux)).getD 0 }

/-- Tiles of a TSTAT whose bit `b` is set (R30). -/
def tstatMask (x : Word) (b : Nat) : Byte := (List.range 8).foldl (fun m n => if bit x (4 * n + b) then m ||| (1#8 <<< n) else m) 0

/-- The traversal slots of the image (R249): the record of each lane's, over what the device keeps of its ray. -/
def State.loadRays (s : State) (old : SMap Ray) (r : Nat) : SMap Ray :=
  (List.range 256).foldl (fun m key =>
    let hit := (List.range 8).map fun i => BitVec.ofNat 32 (s.memRead (r + 5120 + 2048 * (key / 64) + 32 * (key % 64) + 4 * i) 4)
    match SMap.find key old with
    | some x => SMap.insert key { x with hit := hit } m
    | none => if hit = missRecord 0 then m
      else SMap.insert key { running := false, parked := none, addr := 0, words := [], hit := hit, op := 0, restarts := 0 } m) []

/-- A warp as its record in the image holds it (R368); the quotas are those of the workgroup's needs. -/
def State.loadRecord (s : State) (w : Warp) (r : Nat) : Warp :=
  let regs := 16 * (w.quota + 1)
  let st : Word := BitVec.ofNat 32 (s.memRead (8 + r) 4)
  let soloAt := s.memRead (5 + r) 1
  let frags : SMap Frag := allLanes.filterMap fun e => (s.loadEntry (r + 512 + 32 * e) (e == soloAt) (w.fragAt e)).map fun f => (e, f)
  let joins : SMap JoinRec := allLanes.filterMap fun j => (s.loadJoin (r + 2560 + 24 * j)).map fun x => (j, x)
  let tv := tstatMask st 0
  let ts := tstatMask st 3
  let tiles := 13312 + r + 256 * regs
  let block := s.memRead (56 + r) 8
  let solo : Option Solo := (SMap.find soloAt frags).map fun f => s.loadSolo r soloAt f w.solo
  { (w.setLive frags) with
    k := s.loadDwords (64 + r) 48, p := s.loadDwords (448 + r) 7, v := s.loadWords (13312 + r) (64 * regs), joins := joins, solo := solo
    tv := tv, td := tstatMask st 1, ts := ts, tf := 0, tiles := s.loadTiles tiles tv, shadow := s.loadTiles (tiles + 16384 * popByte tv) ts
    rays := s.loadRays w.rays r, svcPtr := s.memRead (4 + r) 1, trapCode := BitVec.ofNat 32 (s.memRead (12 + r) 4), trapMask := s.memQ (16 + r), arrival := s.memQ (24 + r)
    helper := s.memQ (40 + r), debug := (s.memRead (3 + r) 1).testBit 3, fillOpen := if (s.memRead (3 + r) 1).testBit 1 then some block else none }

/-- The barriers, fetches and RETIRED of a workgroup as the image's header holds them (R367). -/
def State.loadHeader (s : State) (g : Wg) : Wg :=
  let at_ := g.image
  let ws := s.savedOf g
  let bars := (List.range 8).map fun n =>
    let m := s.memRead (at_ + 70 + 8 * n) 2
    (n, { g.bar n with gen := s.memRead (at_ + 64 + 8 * n) 4, count := s.memRead (at_ + 68 + 8 * n) 1, arrived := (ws.filter fun w => m.testBit w.inWg).map (·.uid) })
  let gbars := (List.range 4).map fun n =>
    let old := (SMap.find n g.gbars).getD { gen := 0, arrived := false, since := 0, timedOut := false }
    (n, { old with gen := s.memRead (at_ + 192 + 16 * n) 4, arrived := s.memRead (at_ + 196 + 16 * n) 1 == 1 })
  let fetch := ((List.range 4).filter fun n => s.memRead (at_ + 136 + 16 * n) 1 == 1).map fun n =>
    ({ mailbox := s.memRead (at_ + 128 + 16 * n) 4, seq := s.memRead (at_ + 132 + 16 * n) 4 } : FetchReq)
  { g with bars := bars, gbars := gbars, fetch := fetch, retired := s.memRead (at_ + 48) 8, eligible := (s.memRead (at_ + 7) 1).testBit 1 }

/-- A fragment that waits for copies as it goes on (R209, R366): by the masks, the fault byte and the continuation PC of the pending area
at `pend`, where the area is its own, once they are ready; it waits for the copies that the engines still have. -/
def State.resumeCopies (s : State) (pend e : Nat) (go : Frag → Frag) (f : Frag) (cont : DWord) (jobs : List Nat) (faulted : Bool) : Frag :=
  let mine := s.memRead pend 1 == 1 && s.memRead (pend + 1) 1 == e
  let left := jobs.filter fun i => s.copyJobs.any fun j => j.id == i
  let ready := mine && (s.memQ (pend + 8) &&& ~~~s.memQ (pend + 16)) == 0
  let cont := if mine then s.memQ (pend + 24) else cont
  let bad := if mine then s.memRead (pend + 32) 1 != 0 || (!ready && faulted) else faulted
  if ready || left.isEmpty then { go f with pc := if bad then f.pc else cont } else { f with wait := .cpyY cont left bad }

/-- The fragment in entry `e` as it goes on (R366); a format block is read again (R238). -/
def State.resumeFrag (s : State) (debug : Bool) (pend e : Nat) (f0 : Frag) : Frag :=
  let f : Frag := { f0 with block := none }
  let go (f : Frag) : Frag := { f with state := if debug then .debugStopped else .ready, wait := .none }
  match f.state, f.wait with
  | .waiting, .none => go f
  | .waiting, .cwait _ _ _ _ => { go f with pmask := 0 }
  | .waiting, .acquire _ => { go f with pmask := 0 }
  | .waiting, .shadow _ => { go f with pmask := 0 }
  | .waiting, .page _ _ _ => { go f with pmask := 0 }
  | .waiting, .fill _ _ => go f
  | .waiting, .poll => go f
  | .waiting, .late op => if (s.opOf op).isSome then { f with pmask := 0 } else { go f with pmask := 0 }
  | .waiting, .cpyY cont jobs faulted => s.resumeCopies pend e go f cont jobs faulted
  | _, _ => f

/-- A handler as it goes on (R366): waits of its own group are issued again, and an upcall takes its reply, where the pending
area is its own. -/
def State.resumeSolo (s : State) (pend : Nat) (h : Solo) : Solo :=
  match h.wait with
  | .cwait _ _ _ _ => { h with wait := .none }
  | .page _ _ _ => { h with wait := .none }
  | .fill _ _ => { h with wait := .none }
  | .poll => { h with wait := .none }
  | .upcall slot =>
    if bit slot 0 then { h with wait := .none }
    else if s.memRead pend 1 = 3 ∧ s.memRead (pend + 1) 1 = h.entry ∧ (s.memQ (pend + 16)).getLsbD 0 then
      { h with h := wr (wr h.h 0 (s.memQ (pend + 64))) 1 (s.memQ (pend + 72)), wait := .none }
    else h
  | _ => h

/-- The replies in the image applied to the registers of a warp that waits for calls (R366). -/
def State.applyReplies (s : State) (w : Warp) (pend : Nat) : Warp :=
  if s.memRead pend 1 = 2 then
    forLanes (s.memQ (pend + 16)) (fun l w => w.loadInto (BitVec.ofNat 8 (s.memRead (pend + 2) 1)) l 8 false true (s.memRead (pend + 64 + 8 * l) 8)) w
  else w

/-- One warp restored into a slot. -/
def State.restoreWarp (s : State) (g : Wg) (core slot wi : Nat) (w : Warp) : Warp :=
  let r := s.recordAt g wi
  let w := s.applyReplies (s.loadRecord w r) (4352 + r)
  let ray (e : Nat × Ray) : Nat × Ray := if e.2.parked = some cancelledRay then (e.1, { e.2 with parked := none }) else e
  let w : Warp := { w with core := core, slot := slot, placed := s.clock, readySince := s.clock, latValid := 0, latUnread := 0, chainLen := 0, rays := w.rays.map ray, solo := w.solo.map (s.resumeSolo (4352 + r)) }
  w.setLive (w.live.map fun e => (e.1, s.resumeFrag w.debug (4352 + r) e.1 e.2))

/-- A workgroup loaded on a core (R366): its cluster first acquires (R279). -/
def State.restoreOn (s : State) (g : Wg) (core base : Nat) : State :=
  let s := s.selfInvalidate (clusterOf core)
  let s := s.mapCopies fun c => if c.holder = pathOf core then { c with valid := 0 } else c
  let taken := s.slotsHeld core
  let ws := s.savedOf g
  let slots := pickSlots (emptiest taken) ws.length 0 taken
  let new := (ws.zip slots).zipIdx.map fun e => s.restoreWarp g core e.1.2 e.2 e.1.1
  let s := s.freshSram core base g.sramSize (s.asidOf g.launch).toNat
  let sram := (List.range g.sramSize).foldl (fun t i => wr t (core * 2 ^ 19 + base + i) (s.memByte (g.image + 512 + i))) s.sram
  let head := s.loadHeader g
  let s : State := { s with
    saved := s.saved.filter fun w => !g.uids.contains w.uid
    warps := s.warps ++ new
    sram := sram
    ops := s.ops.map fun o => if g.uids.contains o.uid then { o with core := core } else o }
  let s := s.onWg g.launch g.idx fun _ => { head with core := core, sramBase := base, pre := .running, placed := s.clock, image := 0 }
  (s.ops.filter fun o => g.uids.contains o.uid && o.kind.writes == false && o.lanes.all fun l => l.stage == .done).foldl (fun s o => match o.kind with
    | .sysc _ => (s.acquireAt core).endOp o.id
    | _ => s) s

/-- Saved workgroups restored one after the other, all of them or none. -/
def State.restoreAll (s : State) (l : Launch) : List Wg → Option State
  | [] => some s
  | g :: gs => match s.findPlace l (s.savedNeeds g) with
    | none => none
    | some (core, base, sent) =>
      let t := (s.sendCommands sent).restoreOn g core base
      State.restoreAll (if gs.isEmpty then t else { t with permits := s.permits, leafOpen := s.leafOpen }) l gs

/-- WORKGROUP_RESTORE (R363, R366): by PRIO and then acceptance, a GANG launch as a whole (R205). -/
def execWorkgroupRestore (lid wg : Nat) (s : State) : Host.Outcome State Fault Refusal :=
  .next (match s.launchOf lid, s.wgOf lid wg with
    | some l, some g =>
      let passed := s.launches.any fun m => m.lid != lid && s.ahead m l && s.servable m
      if g.pre != .saved || !s.hawReady || l.killed || passed || s.heldByGang l then s
      else match s.restoreAll l (s.together lid wg .saved) with
        | none => s
        | some t => t
    | _, _ => s)

/-! Debug stops. -/

/-- DEBUG_RELEASE (R124): every debug-stopped fragment is ready at its PC, and the handler goes on. -/
def execDebugRelease (w : Nat) (s : State) : Host.Outcome State Fault Refusal :=
  .next (s.onWarp w fun w =>
    let go (h : Solo) : Solo := { h with debugStopped := false }
    let w : Warp := { w with debug := false, solo := w.solo.map go }
    w.setLive (w.live.map fun e => if e.2.state = .debugStopped then
      (e.1, { e.2 with state := if w.solo.any fun h => h.entry == e.1 then .trapped else .ready }) else e))

end Sys2Proof.Machine
end

