-- ==== Sys2Proof/Machine/Device.lean ====
section
/-! DEFINITION. The device around the cores: control space (R393), port control space (R422), firmware update (R411,
R412), capture monitors (R413–R415), power (R416), the host aperture (R420), boot and resets (R405, R408, R409),
attestation (R406), life cycle (R407), sensors (R417) and links (R422). -/

namespace Sys2Proof.Machine

/-- A reply sent out of the device. -/
def State.reply (s : State) (kind : Nat) (error : Bool) (bs : List Byte) : State :=
  { s with outbox := s.outbox ++ [{ kind := kind, error := error, bytes := bs }] }

/-- Dies of the part. -/
def State.dieCount (s : State) : Nat := ((List.range 4).filter s.diePresent).length

/-- Package limit in W (R1). -/
def State.packageLimit (s : State) : Nat := if field s.devcap 32 16 = 0x940 then 1900 else 1000

/-! Capture monitors. -/

/-- A monitor at reset (R393). -/
def Monitor.zero : Monitor where
  ctl := 0
  binBase := 0
  min := 0
  max := 0
  count := 0
  sum := 0
  bins := []

def State.monitor (s : State) (m : Nat) : Monitor := (SMap.find m s.monitors).getD Monitor.zero
def State.onMonitor (s : State) (m : Nat) (f : Monitor → Monitor) : State := { s with monitors := SMap.insert m (f (s.monitor m)) s.monitors }

/-- A write of CTL (R413, R415): CLEAR reads 0, reserved bits read zero (R11). -/
def Monitor.writeCtl (v : DWord) (m : Monitor) : Monitor :=
  let m : Monitor := { m with ctl := v &&& 0x0000FFFF00FF3F0D }
  if bit v 1 then { m with min := BitVec.allOnes 64, max := 0, count := 0, sum := 0, bins := [] } else m

/-- The bin of a value (R414). -/
def Monitor.bin (m : Monitor) (v : Nat) : Nat :=
  let w := field m.ctl 8 6
  let base := m.binBase.toNat
  if v < base then 0
  else
    let d := v - base
    let top (i : Nat) : Nat := if bit m.ctl 3 then (2 ^ i - 1) * 2 ^ w else i * 2 ^ w
    (((List.range 14).map (· + 1)).find? fun i => decide (d < top i)).getD 15

/-- The least of two words that a field stops at. -/
def stopAt (top n : Nat) : Nat := if top < n then top else n

/-- One value captured, as one event (R414, R415). -/
def Monitor.capture (v : DWord) (m : Monitor) : Monitor :=
  let i := m.bin v.toNat
  { m with
    min := if v < m.min then v else m.min
    max := if m.max < v then v else m.max
    count := m.count + 1
    sum := BitVec.ofNat 64 (stopAt (2 ^ 64 - 1) (m.sum.toNat + v.toNat))
    bins := wr m.bins i (BitVec.ofNat 32 (stopAt (2 ^ 32 - 1) ((rd m.bins i).toNat + 1))) }

/-- Whether a source has an instance (R414). -/
def State.sourceOk (s : State) (src inst : Nat) : Bool :=
  let die (d : Nat) : Bool := s.diePresent d
  match src with
  | 1 => die (inst / 64)
  | 2 => die inst
  | 3 => die (inst / 4) && die (inst % 4)
  | 4 => die inst
  | 5 => die inst
  | 6 => inst == 0
  | 7 => inst == 0
  | 8 => inst == 0
  | 9 => decide (inst < 1024)
  | 10 => decide (inst < 8 * s.dieCount)
  | 11 => die inst
  | _ => false

/-- CAPTURE_SAMPLE (R414): a value of a source reaches its monitors. A sample of die temperature is what the sensors
read (R417); with one of island power, PWRNOW takes a new average, a free value under the cap (R416; log entry 9). -/
def execCaptureSample (src inst : Nat) (v : DWord) (s : State) : Host.Outcome State Fault Refusal :=
  .next (if !s.sourceOk src inst then s
    else
      let takes (m : Monitor) : Bool := bit m.ctl 0 && !bit m.ctl 2 && field m.ctl 16 8 == src && field m.ctl 32 16 == inst
      let s : State := { s with monitors := s.monitors.map fun e => if takes e.2 then (e.1, e.2.capture v) else e }
      if src = 11 then { s with temps := SMap.put 0 s.temps inst v.toNat }
      else if src = 10 then { s with pwrnow := BitVec.ofNat 64 (s.freeValue.toNat % (s.pwrcap.toNat + 1)), freeCtr := s.freeCtr + 1 }
      else s)

/-- CAPTURE_CTL_WRITE (R413, R415). -/
def execCaptureCtlWrite (m : Nat) (v : DWord) (s : State) : Host.Outcome State Fault Refusal :=
  .next (if m < 64 then s.onMonitor m (Monitor.writeCtl v) else s)

/-! Control spaces. -/

/-- PWRCAP (R416): bits [63:16] are reserved, and the value is held between 100 W and the package limit. -/
def State.setPwrcap (s : State) (v : DWord) : State :=
  let w := field v 0 16
  { s with pwrcap := BitVec.ofNat 64 (if w < 100 then 100 else Min.min w s.packageLimit) }

/-- PWRCAP_WRITE (R416): a write of BAR0, of a service core or over I3C (R417). -/
def execPwrcapWrite (v : DWord) (s : State) : Host.Outcome State Fault Refusal := .next (s.setPwrcap v)

/-- A write of UPDCTL (R411): LEN is written, and GO starts the check of the image unless STATUS is 1, 2 or 5. -/
def State.updWrite (s : State) (v : DWord) : State :=
  let status := field s.updctl 1 3
  let ctl := setField s.updctl 8 32 (field v 8 32)
  { s with updctl := if bit v 0 && status != 1 && status != 2 && status != 5 then setField ctl 1 3 1 else ctl }

/-- A write of QBASE (R329), which is 64 KiB aligned: its low 16 bits read zero, and a base whose QCBs would lie on memory that is in
use or has an address in a context is not taken (DESIGN CHOICE, log entry 48). -/
def State.setQbase (s : State) (v : DWord) : State :=
  let b := v &&& ~~~0xFFFF
  if b != 0 && s.rangeUsed b.toNat (2 ^ 18) then s else { s with qbase := b }

/-- A write of a register of the device control space (R393); the host writes PWRCAP alone. -/
def State.controlWrite (s : State) (host : Bool) (off : Nat) (v : DWord) : State :=
  if off = 0x78 then s.setPwrcap v
  else if host then s
  else if 0x1000 ≤ off ∧ off < 0x1000 + 128 * 64 then
    let m := off / 128 - 32
    if off % 128 = 0 then s.onMonitor m (Monitor.writeCtl v)
    else if off % 128 = 8 then s.onMonitor m fun x => { x with binBase := v }
    else s
  else match off with
    | 0x58 => s.setQbase v
    | 0x60 => { s with sfrbase := v }
    | 0x70 => { s with evlbase := v }
    | 0x88 => { s with updaddr := v }
    | 0x90 => s.updWrite v
    | _ => s

/-- A port-control word stored; reserved bits read zero (R11). -/
def State.setPort (s : State) (off : Nat) (v : DWord) : State := { s with ports := wr s.ports off v }

/-- A write of a register of the port control space (R422). A window's reserved fields are kept, since they make it grant
nothing (R424). A PTMO out of range is ignored as 0 is. `svc` is the service core that writes, if one does. -/
def State.portWrite (s : State) (svc : Option Nat) (off : Nat) (v : DWord) : State :=
  if off % 8 ≠ 0 then s
  else if off = 0 then { s with selfid := v &&& 0x1FF }
  else if off = 8 then (if v = 0 ∨ 1000000 < v.toNat then s else { s with ptmo := v })
  else if 0x1000 ≤ off ∧ off < 0x1800 then s.setPort off (v &&& 0xFFFFFFF3)
  else if 0x2000 ≤ off ∧ off < 0x3000 then
    (if off % 64 < 32 then s.setPort off v else if off % 64 = 32 then s.setPort off (v &&& 1) else s)
  else if 0x4000 ≤ off ∧ off < 0x44000 then s.windowWrite svc off v
  else if 0x100000 ≤ off ∧ off < 0x140000 then s.setPort off v
  else if 0x200000 ≤ off ∧ off < 0x240000 then s.setPort off (v &&& 0x0000FFFFFFE00003)
  else s

/-- Two 32-bit words as 8 bytes. -/
def wordPair (lo hi : Word) : DWord := hi ++ lo

/-- A read of a capture monitor's word (R413). -/
def Monitor.read (m : Monitor) (off : Nat) : DWord :=
  match off with
  | 0 => m.ctl
  | 0x08 => m.binBase
  | 0x10 => m.min
  | 0x18 => m.max
  | 0x20 => m.count
  | 0x28 => m.sum
  | _ => if 0x40 ≤ off then wordPair (rd m.bins ((off - 0x40) / 4)) (rd m.bins ((off - 0x40) / 4 + 1)) else 0

/-- A read of a register of the device control space (R393); an unlisted offset reads zero. -/
def State.controlRead (s : State) (off : Nat) : DWord :=
  if 0x1000 ≤ off ∧ off < 0x1000 + 128 * 64 then (s.monitor (off / 128 - 32)).read (off % 128)
  else match off with
    | 0x00 => s.devcap
    | 0x08 => s.unitcap
    | 0x10 => s.sizecap
    | 0x40 => s.readyc
    | 0x48 => s.readyf
    | 0x50 => s.lcs
    | 0x58 => s.qbase
    | 0x60 => s.sfrbase
    | 0x68 => s.sfrlost
    | 0x70 => s.evlbase
    | 0x78 => s.pwrcap
    | 0x80 => s.pwrnow
    | 0x88 => s.updaddr
    | 0x90 => s.updctl
    | _ => 0

/-- A read of a register of the port control space (R422); an unlisted offset reads zero. -/
def State.portRead (s : State) (off : Nat) : DWord :=
  match off with
  | 0x00 => s.selfid
  | 0x08 => s.ptmo
  | 0x10 => s.portstat
  | _ => if off % 8 = 0 then rd s.ports off else 0

/-- An 8-byte load of a service core at a physical address of a control space (R393, R422). -/
def State.spaceRead (s : State) (pa : Nat) : DWord := if pa < 0x800100000000 then s.controlRead (pa % 2 ^ 32) else s.portRead (pa % 2 ^ 32)

/-- A write to a physical address of a control space; elsewhere it is ignored. -/
def State.spaceWrite (s : State) (svc : Option Nat) (pa : Nat) (v : DWord) : State :=
  if 0x800000000000 ≤ pa ∧ pa < 0x800100000000 then s.controlWrite false (pa % 2 ^ 32) v
  else if 0x800100000000 ≤ pa ∧ pa < 0x800200000000 then s.portWrite svc (pa % 2 ^ 32) v
  else s

/-- DEVICE_REGISTER_WRITE (R393, R422): an offset of BAR0 for the host, a physical address of a service core in M-mode or
S-mode; a write elsewhere is ignored. -/
def execDeviceRegisterWrite (host : Bool) (addr : Nat) (v : DWord) (s : State) : Host.Outcome State Fault Refusal :=
  .next (if host then (if addr < 2 ^ 16 then s.controlWrite true addr v else s)
    else s.spaceWrite none addr v)

/-- WINDOW_ENTRY_WRITE (R426): word `j` of window `w`. -/
def execWindowEntryWrite (w j : Nat) (v : DWord) (s : State) : Host.Outcome State Fault Refusal :=
  .next (if w < 4096 ∧ j < 8 then s.portWrite none (0x4000 + 64 * w + 8 * j) v else s)

/-! The host aperture. -/

/-- The physical address of a byte of BAR2 (R420), none where the access is refused. -/
def State.aperture (s : State) (write : Bool) (off : Nat) : Option Nat :=
  let e := rd s.ports (0x200000 + 8 * (off / 2 ^ 21))
  let pa := field e 21 27 * 2 ^ 21 + off % 2 ^ 21
  if bit s.readyf 18 && decide (off < 2 ^ 36) && bit e 0 && (!write || bit e 1) && s.inDram pa then some pa else none

/-- The pieces of a host access, one for each aperture entry; `fuel` bounds them. -/
def State.aperturePieces (s : State) (write : Bool) : Nat → Nat → Nat → Option (List (Nat × Nat))
  | 0, _, _ => some []
  | fuel + 1, off, n =>
    if n = 0 then some []
    else
      let m := Min.min n (2 ^ 21 - off % 2 ^ 21)
      match s.aperture write off, State.aperturePieces s write fuel (off + m) (n - m) with
      | some pa, some ps => some ((pa, m) :: ps)
      | _, _ => none

/-- A host access performed (R420): home loads, or writes registered at the homes in order; Unsupported Request where an entry refuses
it; none while an engine owns a line of it (R185 step 2). -/
def State.hostStep (s : State) (h : HostAcc) : Option State :=
  match s.aperturePieces h.bytes.isSome (h.len / 2 ^ 21 + 2) h.off h.len with
  | none => some (s.reply 0x420 true [])
  | some ps =>
    if ps.any fun p => s.bytesOwned p.1 p.2 then none
    else match h.bytes with
      | none =>
        let r := ps.foldl (fun (r : State × List Byte) p =>
          let t := r.1.mergeBytes p.1 p.2
          (t, r.2 ++ leBytes p.2 (t.memRead p.1 p.2))) (s, [])
        some (r.1.reply 0x420 false r.2)
      | some bs => some (ps.foldl (fun (r : State × List Byte) p => (r.1.homeWrite none p.1 (r.2.take p.2), r.2.drop p.2)) (s, bs)).1

/-- The host's accesses in the order in which the link has delivered them (R420), as far as they get. -/
def State.hostSteps (s : State) : List HostAcc → State
  | [] => { s with hostQueue := [] }
  | h :: rest => match s.hostStep h with
    | some t => State.hostSteps t rest
    | none => { s with hostQueue := h :: rest }

def State.drainHost (s : State) : State := s.hostSteps s.hostQueue

/-- The host's read of BAR0 (R393, R419): 8 aligned bytes, as the space is accessed; what answers another width is the model's choice,
Unsupported Request (DESIGN CHOICE, log entry 80). -/
def State.barRead (s : State) (off len : Nat) : State :=
  if off % 8 = 0 ∧ len = 8 ∧ off < 2 ^ 16 then s.reply 0x420 false (leBytes 8 (s.controlRead off).toNat) else s.reply 0x420 true []

/-- HOST_APERTURE_READ (R419, R420): the host reads the device control space, or memory through the aperture. -/
def execHostApertureRead (place : HostPlace) (len : Nat) (s : State) : Host.Outcome State Fault Refusal :=
  .next (match place with
    | .bar0 off => s.barRead off len
    | .bar2 off => State.drainHost { s with hostQueue := s.hostQueue ++ [{ off := off, len := len, bytes := none }] })

/-- HOST_APERTURE_WRITE (R420): the link delivers a write of memory. -/
def execHostApertureWrite (off : Nat) (bytes : List Byte) (s : State) : Host.Outcome State Fault Refusal :=
  .next (State.drainHost { s with hostQueue := s.hostQueue ++ [{ off := off, len := bytes.length, bytes := some bytes }] })

/-! Power. -/

/-- ISLAND_CLOCK_CONTROL (R9, R416): an island's clock, eight islands a die. CLOCK is unaffected. -/
def execIslandClockControl (island mhz : Nat) (s : State) : Host.Outcome State Fault Refusal :=
  .next (if island < 8 * s.dieCount then { s with islandClk := SMap.put 0 s.islandClk island mhz } else s)

/-! Boot and reset. -/

/-- LCS.STATE (R407). -/
def State.lifeState (s : State) : Nat := field s.lcs 0 3

/-- Whether the last boot reached its end (R405, R407). -/
def State.booted (s : State) : Bool := field s.lcs 8 8 == 0 && s.lifeState != 4

/-- The readiness bits that a boot sets when it stops at a step (R405, R409), none for one that stops nowhere: ATTEST with step 3, Hawthorn,
the service cores, front ends, L2 and clusters with step 4. -/
def State.readyAt (s : State) (stop : Option Nat) : DWord × DWord :=
  let ones (lo n : Nat) : DWord := setField (0 : DWord) lo n (2 ^ n - 1)
  let n := s.dieCount
  let all := ones 17 1 ||| ones 16 1 ||| ones 12 n ||| ones 8 n ||| ones 4 n
  match stop with
  | some 4 => (ones 17 1, 0)
  | some 5 => (all, ones 0 (field s.devcap 16 8))
  | some _ => (0, 0)
  | none => (all, ones 0 (field s.devcap 16 8))

/-- The boot steps of R405 after a wipe. Which step fails, if one does, is a free value (log entry 7); RETIRED boots no firmware, and only
Yew answers (R407). -/
def State.boot (s : State) : State :=
  let step := s.freeValue.toNat % 6
  let s : State := { s with freeCtr := s.freeCtr + 1 }
  if s.lifeState = 4 then { s with readyf := (s.readyAt (some 4)).1 }
  else if step = 0 then { s with readyf := (s.readyAt none).1, readyc := (s.readyAt none).2 }
  else { s with lcs := setField s.lcs 8 8 step, readyf := (s.readyAt (some step)).1, readyc := (s.readyAt (some step)).2 }

/-- What a reset leaves (R4, R408): the fuses, and of the model its own counters, its agenda and what has left the
device. -/
def State.wiped (s : State) : State :=
  { State.reset with
    devcap := s.devcap, unitcap := s.unitcap, sizecap := s.sizecap, rollback := s.rollback, mac := s.mac
    lcs := setField (8 : DWord) 0 3 s.lifeState, pwrcap := BitVec.ofNat 64 s.packageLimit
    ticks := s.ticks, freeCtr := s.freeCtr, agenda := s.agenda, outbox := s.outbox }

/-- RESET (R405, R408): a power-on, fundamental or hot reset. -/
def execReset (s : State) : Host.Outcome State Fault Refusal := .next s.wiped.boot

/-- DRAM_WIPE_DONE (R409): with the last die the wipe is over (R404, R407). -/
def execDramWipeDone (die : Nat) (s : State) : Host.Outcome State Fault Refusal :=
  .next (if !s.diePresent die || !bit s.readyf (4 + die) || bit s.readyf die then s
    else
      let s : State := { s with readyf := setBit s.readyf die true }
      if (List.range 4).all fun d => !s.diePresent d || bit s.readyf d then { (s.logEvent 6 0 0 0) with lcs := setBit s.lcs 3 false } else s)

/-- LINK_TRAINING (R409, R419, R422): ports 0 to 11 are UALink ports, 12 the PCIe peer path, 13 the host link, 14 and 15
the Ethernet ports. A readiness bit is set once, after a boot whose step 5 starts the links (R405; DEDUCED, log entry 79). -/
def execLinkTraining (port : Nat) (up : Bool) (s : State) : Host.Outcome State Fault Refusal :=
  let s1 : State := if port ≤ 12 then { s with portstat := setBit s.portstat port up } else s
  let ready (n : Nat) : State := { s1 with readyf := if up && bit s1.readyf 17 && s.booted then setBit s1.readyf n true else s1.readyf }
  .next (if port < field s.sizecap 8 8 then ready (21 + port)
    else if port = 12 then s1
    else if port = 13 then ready 18
    else if port = 14 ∨ port = 15 then ready (port + 5)
    else s)

/-! Life cycle. -/

/-- The table of R407: the next state for the tokens of a request. -/
def lifeNext (state : Nat) (owner vendor : Bool) (target : Nat) : Option Nat :=
  match state, target with
  | 0, 1 => if vendor then some 1 else none
  | 1, 2 => if owner then some 2 else none
  | 2, 3 => if owner && vendor then some 3 else none
  | n, 4 => if owner && n != 4 then some 4 else none
  | _, _ => none

/-- LIFE_CYCLE_CHANGE (R407): every change advances the fused state, wipes and resets. -/
def execLifeCycleChange (owner vendor : Bool) (target : BitVec 3) (s : State) : Host.Outcome State Fault Refusal :=
  .next (match lifeNext s.lifeState owner vendor target.toNat with
    | none => s.reply 0x407 true []
    | some n =>
      let s := (s.logEvent 7 0 (BitVec.ofNat 64 n) 0).reply 0x407 false []
      { s with lcs := setField s.lcs 0 3 n }.wiped.boot)

/-! Firmware update. -/

/-- What an update has to preserve for queues and saved workgroups to be resumed (R412): the QCBs, the page tables, the pages that
contexts map, and the save images. -/
def State.neededRanges (s : State) : List (Nat × Nat) :=
  (if s.qbase = 0 then [] else [(s.qbase.toNat, 2 ^ 18)]) ++
  ((s.ctxs.flatMap fun c => s.tablesOf c.asid) ++ s.setTables).map (fun t => (t.1, t.2.1)) ++
  ((s.ctxs.flatMap fun c => (s.allLeaves c.asid).map fun e => e.2.1).filter fun l => !ePeer l.entry && ePa l.entry != 0).map (fun l => (l.frame, l.bytes)) ++
  s.savedImages

/-- The preserved ranges of R412 and the address of the handover image of `n` bytes in the first of them, on die 0, both of Tregrim's
choice: free values where they hold what has to be preserved, and else all the memory of the part (log entry 9). -/
def State.preserved (s : State) (n : Nat) : List (Nat × Nat) × Nat :=
  let v (i : Nat) : Nat := (Config.free (s.freeCtr + i)).toNat
  let need := s.neededRanges
  let at_ := 4096 * (v 0 % (96 * 2 ^ 18))
  let chosen : List (Nat × Nat) := (at_, Max.max (v 1 % 2 ^ 36) n) :: (List.range (v 2 % 256)).map fun i => (4096 * (v (3 + 2 * i) % 2 ^ 27), v (4 + 2 * i) % 2 ^ 39)
  let clear (a : Nat) : Bool := decide (a + n ≤ 96 * 2 ^ 30) && need.all fun r => !overlap a n r.1 r.2
  let holds (r : Nat × Nat) : Bool := chosen.any fun k => decide (k.1 ≤ r.1) && decide (r.1 + r.2 ≤ k.1 + k.2)
  if clear at_ && need.all holds then (chosen, at_)
  else (((List.range 4).filter s.diePresent).map fun d => (d * 2 ^ 37, 96 * 2 ^ 30), ((0 :: need.map fun r => (r.1 + r.2 + 4095) / 4096 * 4096).find? clear).getD at_)

/-- The handover image (R412). -/
def State.handoverBytes (s : State) (ranges : List (Nat × Nat)) (images : List Nat) : List Byte :=
  leBytes 4 0x4F444E48 ++ leBytes 2 1 ++ leBytes 2 ranges.length ++ leBytes 8 s.qbase.toNat ++ leBytes 8 s.sfrbase.toNat ++ leBytes 4 images.length ++ leBytes 36 0 ++
  ((List.range 16).flatMap fun f => leBytes 8 (s.fe f).count) ++
  ((List.range 256).flatMap fun i => match ranges[i]? with
    | some r => leBytes 8 r.1 ++ leBytes 8 r.2
    | none => leBytes 16 0) ++
  images.flatMap fun a => leBytes 8 a

/-- Steps 2 and 3 of an update (R411): every workgroup is pre-empted by save, or by drain where PMETH allows only drain;
when nothing is on a core or in flight, the handover image is written. -/
def State.handOver (s : State) : State :=
  let way (g : Wg) : PreState := if (s.region g.launch).pmeth.testBit 1 then .saving else .draining
  let s := (s.wgs.filter fun g => g.pre == .running).foldl (fun s g => s.stopWg g.launch g.idx (way g)) s
  if s.wgs.any (fun g => g.onCore) || !s.copyJobs.isEmpty || !s.xfers.isEmpty || (List.range 16).any fun f => (s.fe f).prologue.isSome then s
  else
    let images := (s.wgs.filter fun g => g.pre == .saved).map (·.image)
    let (ranges, at_) := s.preserved (4288 + 8 * images.length)
    let s := s.homeWrite none at_ (s.handoverBytes ranges images)
    { s with updctl := setField s.updctl 1 3 5, handover := some at_, freeCtr := 1024 + s.freeCtr }

/-- Yew's verdict on a staged image, which ends the check (R411 step 1). -/
def State.updVerdict (s : State) (verdict : UpdVerdict) : State :=
  let set (n : Nat) : State := { s with updctl := setField s.updctl 1 3 n }
  match verdict with
  | .badSignature => set 3
  | .rollback => set 4
  | .accepted => (set 2).handOver

/-- UPDCTL_GO (R411): a write of UPDCTL, Yew's verdict on the image that it checks, or, while an update stops the machine, Tregrim's next
step of it. -/
def execUpdctlGo (v : DWord) (verdict : Option UpdVerdict) (s : State) : Host.Outcome State Fault Refusal :=
  .next (match verdict, field s.updctl 1 3 with
    | none, _ => s.updWrite v
    | some x, 1 => s.updVerdict x
    | some _, 2 => s.handOver
    | some _, _ => s)

/-- UPDATE_RESET (R408, R411, R412): everything but the preserved ranges is wiped. Tregrim's tables, its call records and
the records of saved workgroups lie in preserved ranges; fill units keep no waiters. LAUNCHIDs go on from FECOUNT. The new firmware reads
the image in step 5 of its boot (R405), and the update completes with it (R404). -/
def execUpdateReset (s : State) : Host.Outcome State Fault Refusal :=
  .next (match field s.updctl 1 3, s.handover with
    | 5, some at_ =>
      let s := s.comm.foldl (fun s c => s.mergeLine c.line) s
      let n := s.memRead (at_ + 6) 2
      let ranges := (List.range n).map fun i => (s.memRead (at_ + 192 + 16 * i) 8, s.memRead (at_ + 200 + 16 * i) 8)
      let kept (a : Nat) : Bool := ranges.any fun r => decide (r.1 ≤ a) && decide (a < r.1 + r.2)
      let fes := (List.range 16).foldl (fun (m : SMap Fe) f => SMap.insert f { count := s.memRead (at_ + 64 + 8 * f) 8, cur := none, since := 0, commit := 0, prologue := none } m) []
      let t : State := { s.wiped with
        mem := s.mem.filter (fun e => kept e.1), fes := fes
        wgs := s.wgs, launches := s.launches, saved := s.saved, ops := s.ops, ctxs := s.ctxs, regions := s.regions
        fills := s.fills.map (fun f => { f with edges := [] }), pools := s.pools, watermark := s.watermark, filledOrder := s.filledOrder
        calls := s.calls, treg := s.treg, passes := s.passes, nextOp := s.nextOp, nextUid := s.nextUid, handover := some at_
        measured := some ((List.range (4288 + 8 * s.memRead (at_ + 24) 4)).map fun i => s.memByte (at_ + i)) }
      let t := t.boot
      if t.booted then State.logEvent { t with qbase := s.memQ (at_ + 8), sfrbase := s.memQ (at_ + 16), evlbase := s.evlbase } 8 0 0 s.freeValue else t
    | _, _ => s)

/-! Yew and the board controller. -/

/-- An SPDM reply, while Yew answers (R406, R409). -/
def State.spdmReply (s : State) (error : Bool) (bs : List Byte) : State := if bit s.readyf 17 then s.reply 0x406 error bs else s

/-- GET_VERSION (R406): SPDM 1.3; the exchange begins again. -/
def execGetVersion (s : State) : Host.Outcome State Fault Refusal :=
  .next ({ s with spdm := { versioned := true, session := false } }.spdmReply false (Config.spdmBytes 0 []))

/-- GET_CAPABILITIES (R406). -/
def execGetCapabilities (s : State) : Host.Outcome State Fault Refusal := .next (s.spdmReply false (Config.spdmBytes 1 []))

/-- NEGOTIATE_ALGORITHMS (R406): ML-DSA-65 and SHAKE256, or ERROR and no session. -/
def execNegotiateAlgorithms (mldsa shake : Bool) (s : State) : Host.Outcome State Fault Refusal :=
  .next (let ok := mldsa && shake && bit s.readyf 17
    { s with spdm := { s.spdm with session := ok } }.spdmReply (!ok) (if ok then Config.spdmBytes 2 [] else []))

/-- A request that needs the session (R406). -/
def State.spdmAnswer (s : State) (bs : List Byte) : State := if s.spdm.session then s.spdmReply false bs else s.spdmReply true []

/-- GET_DIGESTS (R406). -/
def execGetDigests (s : State) : Host.Outcome State Fault Refusal := .next (s.spdmAnswer (Config.spdmBytes 3 []))

/-- GET_CERTIFICATE (R406). -/
def execGetCertificate (off len : Nat) (s : State) : Host.Outcome State Fault Refusal := .next (s.spdmAnswer (Config.spdmBytes 4 [off, len]))

/-- CHALLENGE (R406): the signed response is over the nonce. -/
def execChallenge (nonce : List Byte) (s : State) : Host.Outcome State Fault Refusal := .next (s.spdmAnswer (Config.spdmBytes 5 (nonce.map (·.toNat))))

/-- GET_MEASUREMENTS (R406): 1 to 4 are digests of what Yew runs and loads, 5 is of LCS and the rollback counter, 6 of the
handover image that the last reset found, zero after any reset other than an update reset. -/
def execGetMeasurements (idx : Nat) (s : State) : Host.Outcome State Fault Refusal :=
  .next (s.spdmAnswer (match idx with
    | 5 => Config.spdmBytes 6 [s.lcs.toNat, s.rollback]
    | 6 => match s.measured with
      | some bs => Config.spdmBytes 7 (bs.map (·.toNat))
      | none => List.replicate 64 0
    | n => if 1 ≤ n ∧ n ≤ 4 then Config.digest n else Config.spdmBytes 8 [n]))

/-- I3C_SENSOR_READ (R417): 0 package power, 1 PWRCAP, 2 + d the temperature of die d. -/
def execI3cSensorRead (sensor : Nat) (s : State) : Host.Outcome State Fault Refusal :=
  .next (match sensor with
    | 0 => s.reply 0x417 false (leBytes 8 s.pwrnow.toNat)
    | 1 => s.reply 0x417 false (leBytes 8 s.pwrcap.toNat)
    | n => if s.diePresent (n - 2) then s.reply 0x417 false (leBytes 8 (SMap.getD 0 s.temps (n - 2))) else s.reply 0x417 true [])

end Sys2Proof.Machine
end

