-- ==== Sys2Proof/Machine/Matrix.lean ====
section
/-! DEFINITION. The matrix and tile instructions (R218–R238, R435, R436) and the events of the matrix engine, of tile
moves and of the tile port. -/

namespace Sys2Proof.Machine

/-! Tiles. -/

/-- The mask of `n` tiles from `t` on. -/
def tileMask (t n : Nat) : Byte := BitVec.ofNat 8 ((2 ^ n - 1) * 2 ^ t)

/-- Whether some tile of a mask has F set (R228): instructions that read or write it are held. -/
def State.tileBusy (s : State) (m : Byte) : Bool := s.warp.tf &&& m != 0

/-- Element (i, j) of a tile; a tile with V clear holds zeros (R24). -/
def Warp.elem (w : Warp) (t i j : Nat) : Word := rd w.tiles (4096 * t + 64 * i + j)

/-- A tile written element by element. -/
def setTile (m : SMap Word) (t : Nat) (f : Nat → Nat → Word) : SMap Word :=
  (List.range 64).foldl (fun m i => (List.range 64).foldl (fun m j => wr m (4096 * t + 64 * i + j) (f i j)) m) m

/-- The elements of a tile in one table, moved to another or to the same place. -/
def tilePart (m : SMap Word) (t : Nat) : SMap Word := m.filter fun e => e.1 / 4096 == t
def tileRest (m : SMap Word) (t : Nat) : SMap Word := m.filter fun e => e.1 / 4096 != t

/-- Tile `t` of `m` replaced by tile `t'` of `m'`. -/
def copyTile (m : SMap Word) (t : Nat) (m' : SMap Word) (t' : Nat) : SMap Word :=
  (tilePart m' t').foldr (fun e m => SMap.insert (4096 * t + e.1 % 4096) e.2 m) (tileRest m t)

/-- Tiles of a mask written by an instruction that sets V and D (R231). -/
def Warp.wroteTiles (w : Warp) (m : Byte) : Warp := { w with tv := w.tv ||| m, td := w.td ||| m }

/-- A TST of one of the tiles written no longer clears D (R231). -/
def State.unclean (s : State) (uid : Nat) (m : Byte) : State :=
  { s with ops := s.ops.map fun o => match o.kind with
      | .tileStore t _ _ => if o.uid == uid && m.getLsbD t then { o with bytes := [(2 ^ 20, 1)] } else o
      | _ => o }

/-- The same for the warp that issues. -/
def State.wroteTiles (s : State) (m : Byte) : State := { s.unclean s.warp.uid m with warp := s.warp.wroteTiles m }

/-- A group of the tile port, recorded until its last element is written (R436). -/
def State.portGroup (s : State) (m : Byte) (clearsF : Bool) : State := s.newOp (.port m clearsF) [] []

/-! The format block. -/

/-- The fields of a format block (R221), bit [0] of k(2n) first. -/
structure FormatBlock where
  a : Nat
  b : Nat
  c : Nat
  ascl : Nat
  ablk : Nat
  bscl : Nat
  bblk : Nat
  kstep : Bool
  kidx : Nat
  lut : Nat
  ascale : Nat
  asrow : Nat
  bscale : Nat
  bsrow : Nat
  resv : Bool
deriving DecidableEq, Repr

def formatBlock (x : BitVec 128) : FormatBlock where
  a := field x 0 4
  b := field x 4 4
  c := field x 8 2
  ascl := field x 10 2
  ablk := field x 12 2
  bscl := field x 14 2
  bblk := field x 16 2
  kstep := bit x 18
  kidx := field x 20 12
  lut := field x 32 19
  ascale := field x 64 19
  asrow := field x 83 10
  bscale := field x 96 19
  bsrow := field x 115 10
  resv := bit x 19 || field x 51 13 != 0 || field x 93 3 != 0 || field x 125 3 != 0

/-- The row of R222's table that an operand format stands in. -/
def formatRow (f : Nat) : Nat :=
  if f = 0 then 0 else if f ≤ 2 then 1 else if f ≤ 4 then 2 else if f ≤ 8 then 3 else if f = 9 ∨ f = 14 then 4
  else if f ≤ 11 then 5 else if f ≤ 13 then 6 else 7

/-- K of a row (R222). -/
def rowK (row : Nat) : Nat :=
  match row with
  | 0 => 4
  | 1 => 8
  | 2 => 16
  | 3 => 32
  | 4 => 64
  | 5 => 32
  | 6 => 64
  | _ => 8

/-- Container bits of an operand's element (R224): a row and its K elements fill 256 bits. -/
def rowBits (row : Nat) : Nat := 256 / rowK row

/-- Accumulators a row allows (R222), and whether it allows scales. -/
def rowAcc (row c : Nat) : Bool :=
  match row with
  | 0 => c == 3
  | 5 => c == 1 || c == 2
  | 6 => c == 1 || c == 2
  | 7 => c == 2
  | _ => c == 0
def rowScales (row : Nat) : Bool := row == 2 || row == 3 || row == 4

def FormatBlock.k (f : FormatBlock) : Nat := rowK (formatRow f.a)
def FormatBlock.usesLut (f : FormatBlock) : Bool := f.a == 14 || f.b == 14
/-- The K range's index in repetition `i` (R225). -/
def FormatBlock.range (f : FormatBlock) (i : Nat) : Nat := if f.kstep then f.kidx + i else f.kidx

/-- R222, for a repetition and a tile. DEDUCED, log entry 67: the bound on KIDX is checked at each repetition, for that repetition. -/
def FormatBlock.ok (f : FormatBlock) (i tile : Nat) : Bool :=
  let row := formatRow f.a
  row == formatRow f.b && rowAcc row f.c && f.ascl != 3 && f.bscl != 3 && (rowScales row || f.ascl == 0 && f.bscl == 0) &&
  (f.ascl != 0 || f.ablk == 0 && f.ascale == 0 && f.asrow == 0) && (f.bscl != 0 || f.bblk == 0 && f.bscale == 0 && f.bsrow == 0) &&
  !f.resv && (if f.usesLut then f.lut % 32 == 0 else f.lut == 0) && (f.c != 3 || tile % 2 == 0) &&
  decide (f.range i * f.k + f.k ≤ 2 ^ 16)

/-- The tiles of the accumulator: a pair for FP64 (R22). -/
def FormatBlock.tiles (f : FormatBlock) : Nat := if f.c = 3 then 2 else 1

/-- Block lengths (R221); an unscaled operand sets no boundary. -/
def FormatBlock.aLen (f : FormatBlock) : Option Nat := if f.ascl = 0 then none else some (16 * 2 ^ f.ablk)
def FormatBlock.bLen (f : FormatBlock) : Option Nat := if f.bscl = 0 then none else some (16 * 2 ^ f.bblk)

/-- The length of the block segments within one K range (R67). -/
def FormatBlock.segment (f : FormatBlock) : Nat :=
  Min.min f.k (Min.min (f.aLen.getD f.k) (f.bLen.getD f.k))

/-- Where the scale of a row (of A) or column (of B) for K position `k` of the run lies in core SRAM (R223). -/
def FormatBlock.aScaleAt (f : FormatBlock) (i k : Nat) : Nat := f.ascale + i * f.asrow + k / f.aLen.getD 1
def FormatBlock.bScaleAt (f : FormatBlock) (j k : Nat) : Nat := f.bscale + j * f.bsrow + k / f.bLen.getD 1

/-- First K positions, of the run, of the segments of a K range. -/
def FormatBlock.starts (f : FormatBlock) (kx : Nat) : List Nat :=
  (List.range (f.k / f.segment)).map fun g => kx * f.k + g * f.segment

/-- The bytes of core SRAM that a repetition reads (R223). -/
def FormatBlock.sramBytes (f : FormatBlock) (kx : Nat) : List Nat :=
  (if f.usesLut then (List.range 32).map (· + f.lut) else []) ++
  (if f.ascl = 0 then [] else allLanes.flatMap fun i => (f.starts kx).map (f.aScaleAt i)) ++
  (if f.bscl = 0 then [] else allLanes.flatMap fun j => (f.starts kx).map (f.bScaleAt j))

/-! Elements. -/

/-- A floating-point operand format by its code (R49). -/
def operandFmt (c : Nat) : Fmt :=
  match c with
  | 0 => fp64
  | 1 => fp32
  | 2 => fp19
  | 3 => bf16
  | 4 => fp16
  | 5 => e4m3
  | 6 => e5m2
  | 7 => e3m2
  | 8 => e2m3
  | _ => e2m1

/-- The value of a floating-point operand's code; LUT4 goes through its table (R53). -/
def operandValue (c : Nat) (md : Mode) (sram : SMap Byte) (lut x : Nat) : Fv :=
  if c = 14 then fp16.input md ((rd sram (lut + 2 * x)).toNat + 256 * (rd sram (lut + 2 * x + 1)).toNat)
  else (operandFmt c).input md x

/-- The integer of an integer operand's code, or the signed value of a RES24 container (R48, R63, R64). -/
def operandInt (c x : Nat) : Int :=
  match c with
  | 10 => intValue 8 true x
  | 11 => intValue 8 false x
  | 12 => intValue 4 true x
  | 13 => intValue 4 false x
  | _ => crtValue (res24Canon x)

/-- A scale byte (R54): FTZ never applies (R55). -/
def scaleValue (fmt x : Nat) : Fv :=
  match fmt with
  | 0 => .fin false 1 0
  | 1 => if x = 255 then .nan else .fin false 1 ((x : Int) - 127)
  | _ => e4m3.value x

/-- The 256 bits of a row or column captured at issue: 8 words a lane. -/
def rowOf (data : SMap Word) (l : Nat) : Nat := (List.range 8).foldl (fun a r => a + (rd data (8 * l + r)).toNat * 2 ^ (32 * r)) 0

/-- Element `k` of a row. -/
def elemOf (bits row k : Nat) : Nat := row / 2 ^ (k * bits) % 2 ^ bits

/-- The exact terms of a segment (R55, R67, R68): the scaled products, or under a zero scale the one signed zero. An infinite
product is taken as it is, whatever the scales' signs (R68). DEDUCED, log entry 34: a sum that cancels takes its zero's sign from the
scaled products and not from one contribution of the segment (R56, R225). -/
def segmentTerms (sa sb : Fv) (ab : List (Fv × Fv)) : List Fv :=
  let prods := ab.map fun e => Fv.mul e.1 e.2
  if sa.isNan || sb.isNan || ab.any (fun e => e.1.isNan || e.2.isNan) then [.nan]
  else if sa.isZero || sb.isZero then
    let p := Fv.sum 0 prods
    [.fin (xor (xor sa.sign sb.sign) (p.sign && !p.isZero)) 0 0]
  else prods.map fun p => match p with
    | .fin _ _ _ => Fv.mul p (Fv.mul sa sb)
    | _ => p

/-- What `MmaElement` computes with: the captured rows and bytes of an operation. -/
structure MmaIn where
  f : FormatBlock
  kx : Nat
  wm : BitVec 24
  a : SMap Word
  b : SMap Word
  sram : SMap Byte
deriving DecidableEq, Repr

/-- The terms of S of element (i, j) (R67). -/
def MmaIn.terms (x : MmaIn) (i j : Nat) : List Fv :=
  let bits := rowBits (formatRow x.f.a)
  let ra := rowOf x.a i
  let rb := rowOf x.b j
  let md := wmMode x.wm
  (x.f.starts x.kx).flatMap fun k =>
    let sa := if x.f.ascl = 0 then scaleValue 0 0 else scaleValue x.f.ascl (rd x.sram (x.f.aScaleAt i k)).toNat
    let sb := if x.f.bscl = 0 then scaleValue 0 0 else scaleValue x.f.bscl (rd x.sram (x.f.bScaleAt j k)).toNat
    segmentTerms sa sb ((List.range x.f.segment).map fun n =>
      (operandValue x.f.a md x.sram x.f.lut (elemOf bits ra (k - x.kx * x.f.k + n)),
       operandValue x.f.b md x.sram x.f.lut (elemOf bits rb (k - x.kx * x.f.k + n))))

/-- The exact integer sum of element (i, j)'s products (R69). -/
def MmaIn.intSum (x : MmaIn) (i j : Nat) : Int :=
  let bits := rowBits (formatRow x.f.a)
  let ra := rowOf x.a i
  let rb := rowOf x.b j
  (List.range x.f.k).foldl (fun s k => s + operandInt x.f.a (elemOf bits ra k) * operandInt x.f.b (elemOf bits rb k)) 0

/-- `MmaElement` (R67–R69, R65) on the old element, none when it is not read. -/
def MmaIn.element (x : MmaIn) (i j : Nat) (old : Option Nat) : Nat :=
  let md := wmMode x.wm
  match x.f.c with
  | 1 => satInt 32 true md.sat ((old.map (intValue 32 true)).getD 0 + x.intSum i j)
  | 2 => res24Pack (res24Of ((old.map fun o => crtValue (res24Canon o)).getD 0 + x.intSum i j))
  | c =>
    let f := if c = 3 then fp64 else fp32
    f.round md (Fv.sum md.rnd (((old.map fun o => f.input md o).toList) ++ x.terms i j))

/-! MMA and MMAS as they issue. -/

/-- The format block of the group: read once, at its first repetition (R221). -/
def State.mmaBlock (s : State) (fb : Nat) : BitVec 128 :=
  let now : BitVec 128 := rd s.warp.k (2 * fb + 1) ++ rd s.warp.k (2 * fb)
  match s.warp.frag.block with
  | some (pc, x) => if s.grp.rep.isSome && s.grp.repIx != 0 && pc == s.grp.pc then x else now
  | none => now

/-- Whether an MMA or MMAS into the tiles of a mask is held (R435, R436): an earlier write of the warp is not over. -/
def State.mmaHeld (s : State) (m : Byte) : Bool := s.warpHas s.warp.uid fun o => match o.kind with
  | .tileLoad t _ _ => m.getLsbD t
  | .port p _ => p &&& m != 0
  | _ => false

/-- The checks of step 6 of an MMA (R226). -/
def State.mmaTrap (s : State) (f : FormatBlock) (t : Nat) : Option TrapInfo :=
  let trap (code : Nat) : Option TrapInfo := some { code := code, mask := s.active, addr := 0, cause := 0 }
  if s.active ≠ BitVec.allOnes 64 then trap 0x07
  else if !f.ok s.grp.repIx t then trap 0x06
  else if s.warp.tquota < t + f.tiles then trap 0x05
  else if (f.sramBytes (f.range s.grp.repIx)).any (fun b => decide (s.sramSize ≤ b)) then trap 0x0A
  else none

/-- Eight registers of every lane. -/
def Warp.rows (w : Warp) (c : Code) : SMap Word :=
  allLanes.foldl (fun t l => (List.range 8).foldl (fun t r => wr t (8 * l + r) (rd w.v ((c.toNat + r) * 64 + l))) t) []

/-- The accepted MMA: its operands are read and F is set (R223, R228). -/
def State.acceptMma (s : State) (x : BitVec 128) (t : Nat) (acc : Bool) (shadow : Option Byte) (a b : Code) : State :=
  let f := formatBlock x
  let kx := f.range s.grp.repIx
  let sram : SMap Byte := (f.sramBytes kx).foldl (fun m o => wr m o (rd s.sram (s.sramBase + o))) []
  let s := s.newOpWith (.mma x t acc shadow kx s.wm) [] (s.warp.rows a) (s.warp.rows b) sram
  { s with warp := { s.warp with tf := s.warp.tf ||| tileMask t f.tiles, frag := { s.warp.frag with block := some (s.grp.pc, x) } } }

/-- S set for the tiles of a mask (R229); `pair` marks both tiles of an FP64 pair as one (R230). DEDUCED, log entry 67: a
pair of which one tile has a shadow already takes the other's alone, and is one pair from then on. -/
def Warp.takeShadows (w : Warp) (m : Byte) (pair : Bool) : Warp :=
  { w with ts := w.ts ||| m, tpair := if pair then w.tpair ||| m else w.tpair }

/-- The shadows of the tiles of a mask as copies of the tiles: the accumulators as the earlier MMAs of the warp leave them
(R228, R229, R435). -/
def Warp.copyShadows (w : Warp) (m : Byte) : Warp :=
  { w with shadow := (List.range 8).foldl (fun t n => if m.getLsbD n then copyTile t n w.tiles n else t) w.shadow }

/-- A shadow request of the fragment that has been granted (R229). -/
def State.grantedReq (s : State) : Option Op :=
  s.ops.find? fun o => o.uid == s.warp.uid && o.entry == s.warp.fragIx && (match o.kind with
    | .shadowReq _ => !o.data.isEmpty
    | _ => false)

/-- The physical tiles an MMAS still needs: taken, or the fragment waits for them (R229). -/
def State.mmasGroup (s : State) (x : BitVec 128) (t : Nat) (acc : Bool) (a b : Code) : Eff :=
  let f := formatBlock x
  let m := tileMask t f.tiles
  let need := m &&& ~~~s.warp.ts
  let pair := f.tiles == 2 && need != 0
  let go (s : State) : Eff :=
    .done (State.acceptMma { s with warp := s.warp.takeShadows m pair } x t acc (some need) a b)
  if need = 0 then go s
  else match s.grantedReq with
    | some o => go { s with ops := s.ops.filter fun p => p.id != o.id }
    | none =>
      if (s.acqWaiting s.warp.core true).isEmpty && s.canAcquire s.warp (popByte need) true then go s
      else
        let id := s.nextOp
        .again (s.newOp (.shadowReq need) [] []) (.shadow id) s.active

/-- The fields of MMA and MMAS (R218, R224): the format block is read from k(2n) and k(2n + 1) (R221). -/
def mmaIns (op fb t : Nat) (a b : Code) : Ins :=
  { op := op, d := .tile t 1, a := vecF a 8 8 true false, b := vecF b 8 8 true false, ks := [2 * fb, 2 * fb + 1] }

/-- What MMA and MMAS share (R225, R226). -/
def State.mmaGroup (s : State) (fb t : Nat) (k : State → BitVec 128 → Eff) : Eff :=
  let x := s.mmaBlock fb
  match s.mmaTrap (formatBlock x) t with
  | some i => .trap i
  | none => if s.mmaHeld (tileMask t (formatBlock x).tiles) then .hold else k s x

/-- MMA (R225): c is ACC, f names the format block. -/
def execMma (c : BitVec 1) (f : BitVec 4) (t : BitVec 3) (a b : Code) (s : State) : Host.Outcome State Fault Refusal :=
  s.issue (mmaIns 0xA0 f.toNat t.toNat a b) fun s =>
    s.mmaGroup f.toNat t.toNat fun s x => .done (s.acceptMma x t.toNat (c == 1) none a b)

/-- MMAS (R229). -/
def execMmas (c : BitVec 1) (f : BitVec 4) (t : BitVec 3) (a b : Code) (s : State) : Host.Outcome State Fault Refusal :=
  s.issue (mmaIns 0xA1 f.toNat t.toNat a b) fun s =>
    s.mmaGroup f.toNat t.toNat fun s x => s.mmasGroup x t.toNat (c == 1) a b

/-! Commit and discard. -/

/-- Whether a mask names one tile of a pair whose shadow is one, and not the other (R230). -/
def Warp.splitsPair (w : Warp) (m : Code) : Bool :=
  (List.range 4).any fun i => w.tpair.getLsbD (2 * i) && (m.getLsbD (2 * i) != m.getLsbD (2 * i + 1))

/-- A whole-warp group on the tiles of a mask (R219, R230, R234). -/
def tmaskIns (op : Nat) (m : Code) (bad : Bool) : Ins :=
  { op := op, d := .tmask m, a := .resv, b := .resv, bad := m == 0 || bad }

/-- The shadows of the tiles of a mask become their tiles (R230). -/
def Warp.commit (w : Warp) (m : Byte) : Warp :=
  { w with
    tiles := (List.range 8).foldl (fun t n => if m.getLsbD n then copyTile t n w.shadow n else t) w.tiles }

/-- The shadows of the tiles of a mask are gone (R230). -/
def Warp.dropShadows (w : Warp) (m : Byte) : Warp :=
  { w with
    shadow := (List.range 8).foldl (fun t n => if m.getLsbD n then tileRest t n else t) w.shadow
    ts := w.ts &&& ~~~m
    tpair := w.tpair &&& ~~~m }

/-- MCOMMIT (R230). -/
def execMcommit (m : Code) (s : State) : Host.Outcome State Fault Refusal :=
  s.issue (tmaskIns 0xA2 m (s.warp.splitsPair m)) fun s =>
    if s.tileBusy m then .hold
    else
      let live := m &&& s.warp.ts
      let s : State := { s with warp := (s.warp.commit live).dropShadows live }
      .done ((s.wroteTiles live).portGroup m false)

/-- MDISCARD (R230). -/
def execMdiscard (m : Code) (s : State) : Host.Outcome State Fault Refusal :=
  s.issue (tmaskIns 0xA3 m (s.warp.splitsPair m)) fun s =>
    if s.tileBusy m then .hold
    else .done { s with warp := s.warp.dropShadows (m &&& s.warp.ts) }

/-- TZERO (R234). -/
def execTzero (m : Code) (s : State) : Host.Outcome State Fault Refusal :=
  s.issue (tmaskIns 0xA6 m false) fun s =>
    if s.tileBusy m then .hold
    else
      let s : State := { s with warp := { s.warp with tiles := (List.range 8).foldl (fun t n => if m.getLsbD n then tileRest t n else t) s.warp.tiles } }
      .done ((s.wroteTiles m).portGroup m false)

/-! Tile loads and stores. -/

/-- The parts of a lane's 256 bytes: the bytes up to the end of their first page and the rest (R232). -/
def rowParts (lane : Nat) (va : DWord) : List (Nat × DWord × Nat) :=
  let n := 4096 - va.toNat % 4096
  if 256 ≤ n then [(lane, va, 0)] else [(lane, va, n), (lane + 64, va + BitVec.ofNat 64 n, 256 - n)]

/-- Opens one lane's row: a fault of either page is the lane's one fault. -/
def State.openRow (s : State) (kind : OpKind) (lane : Nat) (va : DWord) : State × List LaneReq × List FaultLane :=
  let asid := s.asid
  let sys := s.sysReq
  let own := s.ownBlock
  let leader := s.ownLeader
  let (s, qs, fs) := (rowParts lane va).foldl (fun (r : State × List LaneReq × List FaultLane) p =>
    match r.1.openLane asid sys own leader kind p.1 p.2.1 with
    | (s, q, f) => (s, r.2.1 ++ (q.map fun q => { q with aux := BitVec.ofNat 128 p.2.2 }).toList, r.2.2 ++ f.toList)) (s, [], [])
  match fs with
  | f :: _ => (s, [], [{ f with lane := lane }])
  | [] => (s, qs, [])

/-- Opens the rows of the lanes of `m` in ascending order. -/
def State.openRows (s : State) (m : Mask) (kind : OpKind) (va : Nat → DWord) : State × List LaneReq × List FaultLane :=
  (lanesOf m).foldl (fun (r : State × List LaneReq × List FaultLane) l =>
    match r.1.openRow kind l (va l) with
    | (s, q, f) => (s, r.2.1 ++ q, r.2.2 ++ f)) (s, [], [])

/-- V and D of a tile that a load has written (R231). -/
def Warp.loadedTile (w : Warp) (t : Nat) (full : Bool) : Warp := { w with tv := setBit w.tv t true, td := setBit w.td t (!full) }

/-- The rows or columns of a tile that the lanes of `m` store, 64 words a lane. -/
def Warp.storedRows (w : Warp) (m : Mask) (t : Nat) (col : Bool) : SMap Word :=
  forLanes m (fun l d => (List.range 64).foldl (fun d j => wr d (64 * l + j) (if col then w.elem t j l else w.elem t l j)) d) []

/-- TLD and TST as they issue (R232). -/
def State.tileGroup (s : State) (load col : Bool) (t : Nat) (a b : Code) : Eff :=
  let va := s.memAddr a b
  let m := if load then s.active else s.doers
  let bad := misaligned m 16 va
  let kind : OpKind := if load then .tileLoad t col false else .tileStore t col false
  let full := m == BitVec.allOnes 64
  if bad ≠ 0 then .trap (misalignedTrap bad va)
  else if s.tileBusy (tileMask t 1) || (m != 0 && (s.slotsFull || (load && s.acquiring))) then .hold
  else if !load && (lanesOf m).any (fun l => (rowParts l (va l)).any fun p =>
      s.storeMeetsLoad (laneBit l) (if p.2.2 = 0 then 256 else p.2.2) (fun _ => p.2.1)) then .hold
  else
    let data := if load then [] else s.warp.storedRows m t col
    let (s', lanes, faults) := s.openRows m kind va
    let s' := if load && lanes.isEmpty then { s'.unclean s'.warp.uid (tileMask t 1) with warp := s'.warp.loadedTile t full }
      else if load then { s' with warp := { s'.warp with tf := s'.warp.tf ||| tileMask t 1 } } else s'
    s'.launchStore kind lanes faults data (if full then [(0, 1)] else []) (if faults.isEmpty then [] else [(2 ^ 20, 1)])

/-- The fields of TLD and TST (R218). -/
def tileIns (op t : Nat) (a b : Code) : Ins := { op := op, d := .tile t 1, a := offsetF a, b := .memk b }

def execTld (c : BitVec 1) (t : BitVec 3) (a b : Code) (s : State) : Host.Outcome State Fault Refusal :=
  s.issue (tileIns 0xA4 t.toNat a b) fun s => s.tileGroup true (c == 1) t.toNat a b

def execTst (c : BitVec 1) (t : BitVec 3) (a b : Code) (s : State) : Host.Outcome State Fault Refusal :=
  s.issue (tileIns 0xA5 t.toNat a b) fun s => s.tileGroup false (c == 1) t.toNat a b

/-- The requests of an SRAM tile move, which translate nothing. -/
def sramRows (m : Mask) (off : Nat → Nat) : List LaneReq :=
  (lanesOf m).map fun l => { lane := l, va := BitVec.ofNat 64 (off l), pa := 0, stage := .served, val := 0, aux := 0 }

/-- What TLD.S and TST.S share (R233): the move itself, made at issue, is `k` of the state and the lanes. -/
def State.sramTileGroup (s : State) (load col : Bool) (t : Nat) (a : Code) : Eff :=
  let off := s.sramOffset a
  let va (l : Nat) : DWord := BitVec.ofNat 64 (off l)
  let m := if load then s.active else s.doers
  let bad := misaligned m 16 va
  let out := s.sramOut m 256 off
  let full := m == BitVec.allOnes 64
  if bad ≠ 0 then .trap (misalignedTrap bad va)
  else if out ≠ 0 then .trap { code := 0x0A, mask := out, addr := ((lowest out).map va).getD 0, cause := 0 }
  else if s.tileBusy (tileMask t 1) || (m != 0 && s.slotsFull) then .hold
  else if load then
    let data : SMap Word := forLanes m (fun l d => (List.range 64).foldl (fun d j =>
      wr d (64 * l + j) (BitVec.ofNat 32 (s.sramRead (off l + 4 * j) 4))) d) []
    if m = 0 then .done ({ s.unclean s.warp.uid (tileMask t 1) with warp := s.warp.loadedTile t false })
    else
      let s := s.newOpWith (.tileLoad t col true) (sramRows m off) data (if full then [(0, 1)] else []) []
      .done { s with warp := { s.warp with tf := s.warp.tf ||| tileMask t 1 } }
  else
    let data := s.warp.storedRows m t col
    if m = 0 then .done s
    else
      let s := forLanes m (fun l s => s.sramWrite (off l) ((List.range 64).flatMap fun j => leBytes 4 (rd data (64 * l + j)).toNat)) s
      .done (s.newOpWith (.tileStore t col true) (sramRows m off) data (if full then [(0, 1)] else []) [])

/-- The fields of TLD.S and TST.S (R218). -/
def sramTileIns (op t : Nat) (a : Code) : Ins := { op := op, d := .tile t 1, a := offsetF a, b := .resv }

def execTldS (c : BitVec 1) (t : BitVec 3) (a : Code) (s : State) : Host.Outcome State Fault Refusal :=
  s.issue (sramTileIns 0xAA t.toNat a) fun s => s.sramTileGroup true (c == 1) t.toNat a

def execTstS (c : BitVec 1) (t : BitVec 3) (a : Code) (s : State) : Host.Outcome State Fault Refusal :=
  s.issue (sramTileIns 0xAB t.toNat a) fun s => s.sramTileGroup false (c == 1) t.toNat a

/-! Fill, move and convert. -/

/-- TFILL (R234): c is COL; under a 64-bit ETYPE the pair is written. -/
def execTfill (t : BitVec 3) (a : Code) (c : BitVec 1) (s : State) : Host.Outcome State Fault Refusal :=
  let n := if s.wide then 2 else 1
  s.issue { op := 0xA9, d := .tile t.toNat n, a := srcF a s.wide, b := .imm, bad := s.wide && t.toNat % 2 == 1 } fun s =>
    let m := tileMask t.toNat n
    if s.tileBusy m then .hold
    else
      let put (x : Nat) (i : Nat) (l : Nat) (ts : SMap Word) : SMap Word := (List.range 64).foldl (fun ts j =>
        wr ts (4096 * (t.toNat + i) + (if c = 1 then 64 * j + l else 64 * l + j)) (BitVec.ofNat 32 (x / 2 ^ (32 * i)))) ts
      let tiles := forLanes s.active (fun l ts =>
        let x := s.src a s.wide l
        if n = 2 then put x 1 l (put x 0 l ts) else put x 0 l ts) s.warp.tiles
      let s : State := { s with warp := { s.warp with tiles := tiles } }
      .done ((s.wroteTiles m).portGroup m false)

/-- Where TMOV's register `r` of lane `l` lies in the tile (R235). -/
def tmovIx (t : Nat) (tr : Bool) (g l r : Nat) : Nat := 4096 * t + (if tr then 64 * (8 * g + r) + l else 64 * l + 8 * g + r)

/-- The unstepped byte of a field, whose bits [7:3] are reserved in a tile field (R76, R218). -/
def State.baseByte (s : State) (f : Nat) (c : Code) : Nat := if s.grp.rep.isSome then s.grp.base f else c.toNat

/-- TMOV (R235): r is DIR, t T and g G. Which fields are tile fields goes by DIR of the unstepped word, and a step that changes
DIR is no operand (R220). -/
def execTmov (d a : Code) (r : BitVec 2) (t : BitVec 1) (g : BitVec 3) (s : State) : Host.Outcome State Fault Refusal :=
  let tf (c : Code) : Fld := .tile (c.toNat % 8) 1
  let dir := if s.grp.rep.isSome then s.grp.base 2 / 64 else r.toNat
  let ill := (decide (8 ≤ s.baseByte 0 d) && (dir == 1 || dir == 2)) || (decide (8 ≤ s.baseByte 1 a) && (dir == 0 || dir == 2))
  match r.toNat with
  | 0 =>
    s.issue { op := 0xA8, d := vecF d 8 8 false true, a := tf a, b := .low3, ill := ill } fun s =>
      let n := a.toNat % 8
      if s.tileBusy (tileMask n 1) then .hold
      else .done { s with warp := forLanes s.active (fun l w => (List.range 8).foldl (fun w i =>
        w.setV (d.toNat + i) l false (rd s.warp.tiles (tmovIx n (t == 1) g.toNat l i)).toNat) w) s.warp }
  | 1 =>
    s.issue { op := 0xA8, d := tf d, a := vecF a 8 8 true false, b := .low3, ill := ill } fun s =>
      let n := d.toNat % 8
      if s.tileBusy (tileMask n 1) then .hold
      else
        let tiles := forLanes s.active (fun l ts => (List.range 8).foldl (fun ts i =>
          wr ts (tmovIx n (t == 1) g.toNat l i) (rd s.warp.v ((a.toNat + i) * 64 + l))) ts) s.warp.tiles
        let s : State := { s with warp := { s.warp with tiles := tiles } }
        .done ((s.wroteTiles (tileMask n 1)).portGroup (tileMask n 1) false)
  | 2 =>
    s.issue { op := 0xA8, d := tf d, a := tf a, b := .low3, ill := ill, bad := t == 1 || g != 0 } fun s =>
      let n := d.toNat % 8
      let src := a.toNat % 8
      if s.tileBusy (tileMask n 1 ||| tileMask src 1) then .hold
      else
        let s : State := { s with warp := { s.warp with tiles := copyTile s.warp.tiles n s.warp.tiles src } }
        .done ((s.wroteTiles (tileMask n 1)).portGroup (tileMask n 1) false)
  | _ => s.issue { op := 0xA8, d := .stepped, a := .stepped, b := .low3, ill := ill, bad := true } fun s => .done s

/-- One element of TCVT (R236): `x` is the source's bits, `sc` the scale. -/
def tcvtElem (md : Mode) (from_ to_ : Nat) (sc : Fv) (x : Nat) : Nat :=
  let f (c : Nat) : Fmt := if c = 3 then fp64 else fp32
  let fpIn : Bool := from_ == 0 || from_ == 3
  let v : Fv := if fpIn then (f from_).input md x
    else Fv.ofDy (Dy.ofInt (if from_ = 1 then intValue 32 true x else crtValue (res24Canon x)))
  match to_ with
  | 1 => if fpIn then v.toInt 32 true md.rnd else if from_ = 1 then x else satInt 32 true false (crtValue (res24Canon x))
  | 2 => if from_ = 1 then res24Pack (res24Of (intValue 32 true x)) else res24Pack (res24Canon x)
  | c => (f c).round md (Fv.mul v sc)

/-- Source bits of an element: a pair's in FP64 (R22). -/
def Warp.elemBits (w : Warp) (t i j : Nat) (pair : Bool) : Nat :=
  (w.elem t i j).toNat + (if pair then 2 ^ 32 * (w.elem (t + 1) i j).toNat else 0)

/-- TCVT (R236): f is FROM, o TO. -/
def execTcvt (f o : BitVec 2) (d src : BitVec 3) (b : Code) (s : State) : Host.Outcome State Fault Refusal :=
  let n (c : BitVec 2) : Nat := if c = 3 then 2 else 1
  let fp (c : BitVec 2) : Bool := c == 0 || c == 3
  let bad := (fp f && o == 2) || (f == 3 && src.toNat % 2 == 1) || (o == 3 && d.toNat % 2 == 1) || (!fp o && b != 0xF5)
  s.issue { op := 0xA7, d := .tile d.toNat (n o), a := .tile src.toNat (n f), b := .opd b 0x1E 1 1 true false, bad := bad || (s.grp.rep.isSome && s.grp.step 2 != 0) } fun s =>
    let dm := tileMask d.toNat (n o)
    if s.tileBusy (dm ||| tileMask src.toNat (n f)) then .hold
    else
      let sc : Fv := if b = 0xF5 then .fin false 1 0 else fp32.input s.md (s.src b false 0)
      let val (i j : Nat) : Nat := tcvtElem s.md f.toNat o.toNat sc (s.warp.elemBits src.toNat i j (f == 3))
      let lo := setTile s.warp.tiles d.toNat fun i j => BitVec.ofNat 32 (val i j)
      let tiles := if o = 3 then setTile lo (d.toNat + 1) fun i j => BitVec.ofNat 32 (val i j / 2 ^ 32) else lo
      let s : State := { s with warp := { s.warp with tiles := tiles, tf := s.warp.tf ||| dm } }
      .done ((s.wroteTiles dm).portGroup dm true)

/-! Events. -/

/-- The accumulator an MMA writes: its elements, and both tiles of a pair (R225). -/
def Op.mmaTiles (o : Op) (x : BitVec 128) (t : Nat) (acc : Bool) (kx : Nat) (wm : BitVec 24) (old : SMap Word) : SMap Word :=
  let f := formatBlock x
  let i : MmaIn := { f := f, kx := kx, wm := wm, a := o.data, b := o.data2, sram := o.bytes }
  let prev (r c : Nat) : Nat := (rd old (4096 * t + 64 * r + c)).toNat +
    (if f.c = 3 then 2 ^ 32 * (rd old (4096 * (t + 1) + 64 * r + c)).toNat else 0)
  let val (r c : Nat) : Nat := i.element r c (if acc then some (prev r c) else none)
  let lo := setTile old t fun r c => BitVec.ofNat 32 (val r c)
  if f.c = 3 then setTile lo (t + 1) fun r c => BitVec.ofNat 32 (val r c / 2 ^ 32) else lo

/-- The tiles an operation keeps in flight. -/
def Op.flightTiles (o : Op) : Byte :=
  match o.kind with
  | .mma x t _ _ _ _ => tileMask t (formatBlock x).tiles
  | .tileLoad t _ _ => tileMask t 1
  | .port m true => m
  | _ => 0

/-- F cleared in the tiles of an operation that no other operation keeps in flight. -/
def State.clearFlight (s : State) (o : Op) : State :=
  let still := (s.ops.filter fun p => p.uid == o.uid && p.id != o.id).foldl (fun m p => m ||| p.flightTiles) (0 : Byte)
  s.onWarp o.uid fun w => { w with tf := w.tf &&& ~~~(o.flightTiles &&& ~~~still) }

/-- MMA_COMPLETION (R228): in program order among the MMAs of one tile (R70). -/
def execMmaCompletion (op : Nat) (s : State) : Host.Outcome State Fault Refusal :=
  .next (match s.opOf op with
    | none => s
    | some o => match o.kind with
      | .mma x t acc shadow kx wm =>
        let m := o.flightTiles
        let before := (s.ownEarlier o).any fun p => (match p.kind with
          | .mma _ _ _ _ _ _ => true
          | _ => false) && p.flightTiles &&& m != 0
        if before then s
        else
          let s := s.onWarp o.uid fun w =>
            match shadow with
            | some new => { w.copyShadows new with shadow := o.mmaTiles x t acc kx wm (w.copyShadows new).shadow }
            | none => { w with tiles := o.mmaTiles x t acc kx wm w.tiles }
          let s := if shadow.isSome then s else (s.unclean o.uid m).onWarp o.uid fun w => w.wroteTiles m
          (s.clearFlight o).endOp op
      | _ => s)

/-- The rows a tile load brought, written into the tile (R232). -/
def Op.loadTile (o : Op) (t : Nat) (col : Bool) (tiles : SMap Word) : SMap Word :=
  (o.lanes.filter fun l => l.stage == .served && decide (l.lane < 64)).foldl (fun ts l => (List.range 64).foldl (fun ts j =>
    wr ts (4096 * t + (if col then 64 * j + l.lane else 64 * l.lane + j)) (rd o.data (64 * l.lane + j))) ts) tiles

/-- TILE_MOVE_COMPLETION (R232, R233): every row is served or has posted its fault. -/
def execTileMoveCompletion (op : Nat) (s : State) : Host.Outcome State Fault Refusal :=
  .next (match s.opOf op with
    | none => s
    | some o =>
      let over_ := o.lanes.all fun l => l.stage == .served || l.stage == .done
      match o.kind with
      | .tileLoad t col _ =>
        if over_ then
          let s := (s.unclean o.uid (tileMask t 1)).onWarp o.uid fun w => { w with tiles := o.loadTile t col w.tiles }.loadedTile t (!o.data2.isEmpty)
          (s.clearFlight o).endOp op
        else s
      | .tileStore t _ _ =>
        if over_ then
          let clean := !o.data2.isEmpty && o.bytes.isEmpty
          (s.onWarp o.uid fun w => if clean then { w with td := setBit w.td t false } else w).endOp op
        else s
      | _ => s)

/-- TILE_PORT_COMPLETION (R436). -/
def execTilePortCompletion (op : Nat) (s : State) : Host.Outcome State Fault Refusal :=
  .next (match s.opOf op with
    | none => s
    | some o => match o.kind with
      | .port _ _ => (s.clearFlight o).endOp op
      | _ => s)

/-- SHADOW_GRANT (R229): the oldest request of the core for tiles, when it is an MMAS's and can be met; its tiles are
held for it until the MMAS replays. -/
def execShadowGrant (core : Nat) (s : State) : Host.Outcome State Fault Refusal :=
  .next (match s.acqWaiting core true with
    | [] => s
    | o :: _ => match o.kind, s.findWarp o.uid with
      | .shadowReq m, some w =>
        if s.canAcquire w (popByte m) true then
          let s := s.onOp o.id fun o => { o with data := [(0, 1)] }
          s.onWarp o.uid fun w => if (w.fragAt o.entry).wait = .shadow o.id then w.wakeFrag o.entry else w
        else s
      | _, _ => s)

end Sys2Proof.Machine
end

