-- ==== Sys2Proof/Machine/Render.lean ====
section
/-! DEFINITION. What follows the geometry warps of a render pass: commit and binning (R375–R377), replays of the bin
arena (R376), fragment warps (R379), depth, blend and retirement (R382, R383), and the completion of a launch (R335,
R384, R385, R391). -/

namespace Sys2Proof.Machine

/-! Commit. -/

/-- A free value drawn. -/
def State.countFree (s : State) : State := { s with freeCtr := s.freeCtr + 1 }

/-- Setup of one primitive, and its place among the binned ones (R375–R377, R384). -/
def Pass.commitPrim (p : Pass) (x : PrimOut) : Pass :=
  let p : Pass := { p with nextSeq := p.nextSeq + 1, primSub := p.primSub + 1 }
  match p.setup x.kind x.verts with
  | none => { p with primCull := p.primCull + 1 }
  | some (_, front) => { p with primBin := p.primBin + 1, prims := p.prims ++ [{ seq := p.nextSeq - 1, kind := x.kind, verts := x.verts, front := front, drawn := [] }] }

/-- The first place in the submission order from `n` on whose warp runs: a claimed workgroup has no warps (R343). -/
def Launch.skipClaimed (l : Launch) : Nat → Nat → Nat
  | 0, n => n
  | k + 1, n => if l.kd.warps ≠ 0 ∧ l.claimed.contains (n / l.kd.warps) then Launch.skipClaimed l k (n + 1) else n

/-! Bins. -/

/-- First and last column or row of the pixels of a span that lie in a bin. -/
def binSpan (x : Nat × Nat) (b : Nat) : Option (Nat × Nat) :=
  let lo := Max.max x.1 (64 * b)
  let hi := Min.min x.2 (64 * b + 63)
  if lo ≤ hi then some (lo, hi) else none

/-- The even corners of the quads of a primitive in a bin, in row-major order, that hold a covered pixel (R379). -/
def Pass.quadsIn (p : Pass) (b : BinPrim) (bx by_ : Nat) : List (Nat × Nat) :=
  match b.verts.mapM p.screen with
  | none => []
  | some vs =>
    let box := boxPixels vs
    match (p.span true box.1.1 box.1.2).bind (binSpan · bx), (p.span false box.2.1 box.2.2).bind (binSpan · by_) with
    | some xs, some ys =>
      let corners := (List.range (ys.2 / 2 + 1 - ys.1 / 2)).flatMap fun j => (List.range (xs.2 / 2 + 1 - xs.1 / 2)).map fun i => (2 * (xs.1 / 2 + i), 2 * (ys.1 / 2 + j))
      corners.filter fun c => (List.range 4).any fun k => p.coverage b.kind vs ((c.1 + k % 2 : Nat)) ((c.2 + k / 2 : Nat)) != 0
    | _, _ => []

/-- Bins in a column of the target. -/
def Pass.binsHigh (p : Pass) : Nat := (p.hm1 + 64) / 64

/-- How many quads of a primitive have been taken in a bin. -/
def BinPrim.taken (b : BinPrim) (bin : Nat) : Nat := ((b.drawn.find? fun e => e.1 == bin).map (·.2)).getD 0

/-- The quads of a bin that have not been taken, in PRIMSEQ order and then row-major order (R379). -/
def Pass.pending (p : Pass) (bx by_ : Nat) : List Quad :=
  (sortBy (·.seq) p.prims).flatMap fun b => ((p.quadsIn b bx by_).drop (b.taken (by_ * p.binsWide + bx))).map fun c => { prim := b.seq, px := c.1, py := c.2 }

/-- Whether every bin has been replayed with every primitive binned so far. -/
def Pass.allDrawn (p : Pass) : Bool :=
  (List.range p.binsHigh).all fun y => (List.range p.binsWide).all fun x => (p.pending x y).isEmpty

/-- BIN_ARENA_REPLAY (R376): the arena is full, every bin has been replayed with what it holds, and it is emptied. -/
def execBinArenaReplay (lid : Nat) (s : State) : Host.Outcome State Fault Refusal :=
  .next (match s.passOf lid with
    | some p => if p.binSize ≤ p.arena && p.allDrawn then s.onPass lid fun p => { p with arena := 0, replays := p.replays + 1 } else s
    | none => s)

/-! Targets in memory (R383, R386). -/

/-- The address of a sample's texel in a bin-tiled target of `b` bytes a texel (R386). -/
def Pass.texelAddr (p : Pass) (base b px py sample : Nat) : DWord :=
  BitVec.ofNat 64 (base + ((py / 64 * p.binsWide + px / 64) * 4096 + py % 64 * 64 + px % 64) * p.samples * b + sample * b)

/-- The cluster whose blend unit owns a pixel's bin (R386). -/
def State.owner (s : State) (px py : Nat) : Option Nat := some (s.binOwner (px / 64) (py / 64))

/-- Where an access of the blend unit goes: to memory, to a peer's page, where a read gives free values and a write takes
nothing here (log entry 14), or nowhere, after its fault. -/
inductive Aim where
  | home (pa : Nat)
  | peer
  | lost
deriving DecidableEq, Repr

/-- The record of a dropped access (R383): charged to the launch's region, and to no core. -/
def State.agentFault (s : State) (lid code cause : Nat) (va : DWord) : State :=
  s.postFault 0 { code := code, kind := 1, core := 0xFFFF, slot := 0xFF, cause := cause, pc := 0, lanes := 0, addr := va, aux := 0, lid := lid, rcb := (s.region lid).rcb }

/-- Translation of an access of the blend unit of cluster `by_` (R301, R383), or of one that is no cluster's; none while it waits for a page, a fill or a copy engine. -/
def State.aim (s : State) (by_ : Option Nat) (l : Launch) (va : DWord) (n : Nat) (acc : Acc) : State × Option Aim :=
  match s.agentBy by_ 0 l.asid va acc false with
  | (s, .ok place _) =>
    if placePeer place then (s, some .peer)
    else if s.bytesOwned (placePa place) n then (s, none)
    else (s, some (.home (placePa place)))
  | (s, .fault code cause _) => (s.agentFault l.lid code cause va, some .lost)
  | (s, _) => (s, none)

/-- Whether a list of accesses can be made now, with what asking does (the wait for a page or a block, R297, R310); the records of
dropped accesses come when they are made. -/
def State.canReach (s : State) (by_ : Option Nat) (l : Launch) (acc : Acc) : List (DWord × Nat) → State × Bool
  | [] => (s, true)
  | (va, n) :: rest =>
    if s.agentRefused 0 l.asid va acc then State.canReach s by_ l acc rest
    else match s.agentBy by_ 0 l.asid va acc false with
      | (s, .ok place _) => if !placePeer place && s.bytesOwned (placePa place) n then (s, false) else State.canReach s by_ l acc rest
      | (s, .fault _ _ _) => State.canReach s by_ l acc rest
      | (s, _) => (s, false)

/-- Reads a target's texel; what cannot be read is a free value. -/
def State.readTexel (s : State) (a : Aim) (n : Nat) : State × Nat :=
  match a with
  | .home pa => let s := s.mergeBytes pa n; (s, s.memRead pa n)
  | _ => ({ s with freeCtr := s.freeCtr + n }, leValue (s.freeBytes n))

/-- Writes a target's texel (R383). -/
def State.writeTexel (s : State) (a : Aim) (n x : Nat) : State :=
  match a with
  | .home pa => s.homeWrite none pa (leBytes n x)
  | _ => s

/-! The bin arena. -/

/-- A range of a context's space as pieces within pages; `fuel` bounds the pages. -/
def pagePieces : Nat → Nat → Nat → List (DWord × Nat)
  | 0, _, _ => []
  | fuel + 1, va, n =>
    if n = 0 then []
    else
      let m := Min.min n (4096 - va % 4096)
      (BitVec.ofNat 64 va, m) :: pagePieces fuel (va + m) (n - m)

/-- Vertex data stored in the bin arena (R376): its form there is not stated, so its bytes are free values (log entry 9). -/
def State.storeArena (s : State) (l : Launch) (pieces : List (DWord × Nat)) : State :=
  pieces.foldl (fun s e => match s.aim none l e.1 e.2 .w with
    | (s, some (.home pa)) => { (s.homeWrite none pa (s.freeBytes e.2)) with freeCtr := s.freeCtr + e.2 }
    | (s, _) => s) s

/-- PRIMITIVE_COMMIT (R375): the next warp of the submission order has exited, and the vertex data of the primitives that setup
keeps goes into the bin arena. A full arena is replayed first (R376); how many bytes a primitive takes of it is a free value (log
entry 9). -/
def execPrimitiveCommit (lid : Nat) (s : State) : Host.Outcome State Fault Refusal :=
  .next (match s.launchOf lid, s.passOf lid with
    | some l, some p =>
      if p.binSize ≤ p.arena then s
      else
        let n := l.skipClaimed (l.claimed.length * l.kd.warps) p.committed
        match p.waiting.find? (fun e => l.warpOrder e.1 e.2.1 == n) with
        | none => s
        | some e =>
          let q : Pass := e.2.2.2.foldl Pass.commitPrim { p with committed := n + 1, waiting := p.waiting.filter (fun x => l.warpOrder x.1 x.2.1 != n), geoInv := p.geoInv + e.2.2.1 }
          let m := Min.min ((q.primBin - p.primBin) * (s.freeValue.toNat % 2 ^ 16)) (p.binSize - p.arena)
          let pieces := pagePieces (m / 4096 + 2) (p.binMem + p.arena) m
          (match s.canReach none l .w pieces with
            | (s, false) => s
            | (s, true) => ((s.storeArena l pieces).onPass lid fun _ => { q with arena := p.arena + m }).countFree)
    | _, _ => s)

/-! Depth. -/

/-- DFUNC (R374): the new depth against the stored one; no order holds with a NaN. -/
def depthPasses (func new old : Nat) : Bool :=
  let lt := Fv.lt false (f32Value new) (f32Value old)
  let gt := Fv.lt false (f32Value old) (f32Value new)
  let nan := (f32Value new).isNan || (f32Value old).isNan
  let eq := !lt && !gt && !nan
  match func with
  | 0 => false
  | 1 => lt
  | 2 => eq
  | 3 => lt || eq
  | 4 => gt
  | 5 => !eq
  | 6 => gt || eq
  | _ => true

/-- An exported depth clamped to the depth range (R382). -/
def Pass.clampDepth (p : Pass) (z : Nat) : Nat :=
  let lo := if f32Le p.znear p.zfar then p.znear else p.zfar
  let hi := if f32Le p.znear p.zfar then p.zfar else p.znear
  if (f32Value z).isNan then z else if Fv.lt false (f32Value z) (f32Value lo) then lo else if Fv.lt false (f32Value hi) (f32Value z) then hi else z

/-- Accesses to the depth target: W where the pass writes depth. -/
def Pass.depthAcc (p : Pass) : Acc := if p.dwrite then .w else .r

/-- Whether a pass touches its depth target. -/
def Pass.usesDepth (p : Pass) : Bool := p.dtest || p.dwrite

/-- Steps 1 and 2 of R382 for one sample with its depth. A test that is made fails on a NaN. -/
def State.depthSample (s : State) (l : Launch) (p : Pass) (px py sample z : Nat) : State × Bool :=
  if !p.usesDepth then (s, true)
  else
    match s.aim (s.owner px py) l (p.texelAddr p.depthBase 4 px py sample) 4 p.depthAcc with
    | (s, none) => (s, true)
    | (s, some a) =>
      let r := s.readTexel a 4
      let s := if p.dtest then r.1 else s
      let ok := !p.dtest || (!(f32Value z).isNan && depthPasses p.dfunc z r.2)
      (if ok && p.dwrite then s.writeTexel a 4 z else s, ok)

/-- Steps 1 and 2 of R382 for the samples of a pixel: the mask of those that pass. -/
def State.depthPixel (s : State) (l : Launch) (p : Pass) (px py : Nat) (cover : Byte) (z : Nat → Nat) : State × Byte :=
  ((List.range p.samples).filter fun i => cover.getLsbD i).foldl (fun (r : State × Byte) i =>
    match r.1.depthSample l p px py i (z i) with
    | (s, ok) => (s, setBit r.2 i ok)) (s, 0)

/-- The depth accesses of a pixel. -/
def Pass.depthReach (p : Pass) (px py : Nat) (cover : Byte) : List (DWord × Nat) :=
  if p.usesDepth then ((List.range p.samples).filter fun i => cover.getLsbD i).map fun i => (p.texelAddr p.depthBase 4 px py i, 4) else []

/-! Fragment warps. -/

/-- The primitive of a number. -/
def Pass.prim (p : Pass) (seq : Nat) : Option BinPrim := p.prims.find? fun b => b.seq == seq

/-- The screen vertices of a primitive that setup kept. -/
def Pass.screens (p : Pass) (b : BinPrim) : List Screen := (b.verts.mapM p.screen).getD []

/-- The pixel of a quad's lane. -/
def Quad.pixel (q : Quad) (i : Nat) : Nat × Nat := (q.px + i % 2, q.py + i / 2 % 2)

/-- The coverage of a quad's lane (R378). -/
def Pass.quadCover (p : Pass) (q : Quad) (i : Nat) : Byte := match p.prim q.prim with
  | some b => p.coverage b.kind (p.screens b) (q.pixel i).1 (q.pixel i).2
  | none => 0

/-- The plane depth of a sample of a pixel (R378). -/
def Pass.planeDepth (p : Pass) (seq : Nat) (px py sample : Nat) : Nat := match p.prim seq with
  | some b =>
    let at_ := sampleAt p.samples sample px py
    (depthAt b.kind (p.screens b) at_.1 at_.2).getD 0
  | none => 0

/-- A quad taken for a fragment warp: per lane, the coverage of R378 and the samples of it that still count; a lane of which none
counts is a helper lane. -/
abbrev TakenQuad := Quad × List (Byte × Byte)

/-- The early depth test of a quad (R382), lane by lane: none while it waits. -/
def State.earlyQuad (s : State) (l : Launch) (p : Pass) (q : Quad) : State × Option TakenQuad :=
  let lanes := (List.range 4).map fun i => (i, p.quadCover q i)
  if !p.earlyZ then (s, some (q, lanes.map fun e => (e.2, e.2)))
  else match s.canReach (s.owner q.px q.py) l p.depthAcc (lanes.flatMap fun e => p.depthReach (q.pixel e.1).1 (q.pixel e.1).2 e.2) with
    | (s, false) => (s, none)
    | (s, true) =>
      let r := lanes.foldl (fun (r : State × List (Byte × Byte)) e =>
        match r.1.depthPixel l p (q.pixel e.1).1 (q.pixel e.1).2 e.2 (p.planeDepth q.prim (q.pixel e.1).1 (q.pixel e.1).2) with
        | (s, m) => (s, r.2 ++ [(e.2, m)])) (s, [])
      (r.1, some (q, r.2))

/-- A quad struck off the bin's list. -/
def Pass.take (p : Pass) (q : Quad) (bin : Nat) : Pass :=
  { p with prims := p.prims.map fun b => if b.seq = q.prim then { b with drawn := (bin, b.taken bin + 1) :: b.drawn.filter (fun e => e.1 != bin) } else b }

/-- Takes quads for one fragment warp: at most 16 that are shaded. -/
def State.takeQuads (s : State) (l : Launch) (bin : Nat) : List Quad → List TakenQuad → State × List TakenQuad
  | [], got => (s, got)
  | q :: qs, got =>
    if 16 ≤ got.length then (s, got)
    else match s.passOf l.lid with
      | none => (s, got)
      | some p => match s.earlyQuad l p q with
        | (s, none) => (s, got)
        | (s, some t) =>
          let s := s.onPass l.lid fun p => p.take q bin
          State.takeQuads s l bin qs (if t.2.any fun e => e.2 != 0 then got ++ [t] else got)

/-- The fragment kernel of a pass (R374), fixed with it. -/
def Pass.kernel (p : Pass) : KernelDesc := kdOf ((List.range 64).map fun i => rd p.desc (256 + i))

/-- A fragment warp at its start (R43, R379). -/
def fragmentWarp (l : Launch) (kd : KernelDesc) (block : DWord) (uid core slot clock : Nat) (quads : List Quad) (cover : SMap Byte)
    (helper : Mask) : Warp :=
  let live := maskOf fun i => decide (i / 4 < quads.length)
  let w := startWarp { l with params := l.params.take kd.nparam } kd .fragment block uid (2 ^ 40 + uid) 0 core slot clock
  { w with frag := { w.frag with mask := live }, startLive := live, quads := quads, cover := cover, helper := live &&& helper }

/-- A fragment warp launched on a core of its bin's cluster (R379); `uid` is the old number for a replay (R381). -/
def State.launchFragments (s : State) (l : Launch) (kd : KernelDesc) (uid core base : Nat) (quads : List Quad) (cover : SMap Byte)
    (helper : Mask) : State :=
  let s := s.clusterAcquire l.lid (clusterOf core)
  let s := s.freshSram core base kd.sram l.asid.toNat
  let taken := s.slotsHeld core
  match pickSlots (emptiest taken) 1 0 taken with
  | [] => s
  | slot :: _ =>
    let (s, block) := s.takeBlock l.lid
    let w := fragmentWarp l kd block uid core slot s.clock quads cover helper
    { s with warps := s.warps ++ [w], wgs := s.wgs ++ [startWg l.lid (2 ^ 40 + uid) core base kd.sram s.clock [uid]] }

/-- What the shaded lanes of a new fragment warp enter into the scoreboard (R382): helper lanes never do. -/
def fragRecs (uid : Nat) (ts : List TakenQuad) : List FragRec :=
  ts.zipIdx.flatMap fun t => (t.1.2.zipIdx.filter fun e => e.1.2 != 0).map fun e =>
    { px := (t.1.1.pixel e.2).1, py := (t.1.1.pixel e.2).2, seq := t.1.1.prim, cover := e.1.2, uid := uid, lane := 4 * t.2 + e.2, complete := false, killed := false, exports := [] }

/-- FRAGMENT_WARP_LAUNCH (R379): the cluster that owns the bin places a replay of a flushed warp of the bin, or a warp of
its next quads, where a core has what the fragment kernel needs and the warp's arrival counter is ready (R33). -/
def execFragmentWarpLaunch (lid binx biny : Nat) (s : State) : Host.Outcome State Fault Refusal :=
  .next (match s.launchOf lid, s.passOf lid with
    | some l, some p =>
      let kd := p.kernel
      let c := s.binOwner binx biny
      let s := s.readyBlocks lid 1
      if l.killed || l.complete || s.updating || !bit s.readyc c || !s.withinBudget l kd.needs || !s.blocksReady lid 1 then s
      else match s.leafPick c kd.coreNeeds with
        | none => s
        | some (core, base) =>
          let here (w : Warp) : Bool := match w.quads with
            | q :: _ => q.px / 64 == binx && q.py / 64 == biny
            | [] => false
          (match p.reruns.find? here with
            | some w =>
              let s := s.onPass lid fun p => { p with reruns := p.reruns.filter fun x => x.uid != w.uid }
              s.launchFragments l kd w.uid core base w.quads w.cover (w.helper &&& ~~~w.killed)
            | none =>
              match s.takeQuads l (biny * p.binsWide + binx) (p.pending binx biny) [] with
              | (s, []) => s
              | (s, ts) =>
                let uid := s.nextUid + 1
                let cover := ts.zipIdx.foldl (fun (m : SMap Byte) t => t.1.2.zipIdx.foldl (fun m e => wr m (4 * t.2 + e.2) e.1.1) m) []
                let s := ({ s with nextUid := uid } : State).onPass lid fun p => { p with frags := p.frags ++ fragRecs uid ts }
                let helper := maskOf fun i => ((ts[i / 4]?).bind fun t => t.2[i % 4]?).any fun e => e.2 == 0
                s.launchFragments l kd uid core base (ts.map (·.1)) cover helper)
    | _, _ => s)

/-! Retirement. -/

/-- A blended channel, exact and scaled by the channel's denominator (R382): `d` is the stored value times it, `src` the
exported value, `a` the exported alpha, clamped to [0, 1]. -/
def blendChannel (blend den : Nat) (src a d : Fv) : Fv :=
  let scaled := Fv.mul src (.fin false den 0)
  let one : Fv := .fin false 1 0
  let a := if Fv.lt false a (.fin false 0 0) then .fin false 0 0 else if Fv.lt false one a then one else a
  match blend with
  | 0 => scaled
  | 1 => Fv.sum 0 [Fv.mul scaled a, Fv.mul d (Fv.add 0 one a.neg)]
  | 2 => Fv.add 0 scaled d
  | 3 => Fv.min scaled d
  | _ => Fv.max scaled d

/-- A channel's code for an exact value scaled by its denominator (R388). -/
def Channel.write (c : Channel) (v : Fv) : Nat :=
  if c.unorm then
    let top := 2 ^ c.n - 1
    match v with
    | .nan => 0
    | .inf neg => if neg then 0 else top
    | .fin s m e => let x := (Fv.fin s m e).dy.toIntRnd 0
      if x < 0 then 0 else Min.min x.toNat top
  else (if c.n = 16 then fp16 else fp32).round Mode.home v

/-- A texel after the blend of a fragment's export under WMASK (R382). -/
def blendTexel (fmt blend wmask old : Nat) (vals : List Word) : Nat :=
  let v (i : Nat) : Fv := f32Value ((vals[i]?).getD 0).toNat
  (texelChannels fmt).zipIdx.foldl (fun t e =>
    if wmask.testBit e.2 then
      let d := (e.1.value old).v
      let den := if e.1.unorm then 2 ^ e.1.n - 1 else 1
      t - t / 2 ^ e.1.lo % 2 ^ e.1.n * 2 ^ e.1.lo + e.1.write (blendChannel blend den (v e.2) (v 3) d) * 2 ^ e.1.lo
    else t) old

/-- A field of render target `r`. -/
def Pass.target (p : Pass) (r off n : Nat) : Nat := p.field (128 + 16 * r + off) n

/-- The render targets that a fragment exports to. -/
def Pass.colours (p : Pass) (f : FragRec) : List (Nat × List Word) :=
  (List.range p.nrt).filterMap fun r => (f.exports.find? fun e => e.tgt == r).map fun e => (r, e.vals)

/-- The colour accesses of a fragment. -/
def Pass.colourReach (p : Pass) (f : FragRec) : List (DWord × Nat) :=
  (p.colours f).flatMap fun c => ((List.range p.samples).filter fun i => f.cover.getLsbD i).map fun i =>
    (p.texelAddr (p.target c.1 0 8) (texelBytes (p.target c.1 8 1)) f.px f.py i, texelBytes (p.target c.1 8 1))

/-- Step 3 of R382 for one passing sample of one target. -/
def State.colourSample (s : State) (l : Launch) (p : Pass) (f : FragRec) (c : Nat × List Word) (sample : Nat) : State :=
  let n := texelBytes (p.target c.1 8 1)
  match s.aim (s.owner f.px f.py) l (p.texelAddr (p.target c.1 0 8) n f.px f.py sample) n .w with
  | (s, none) => s
  | (s, some a) => match s.readTexel a n with
    | (s, old) => s.writeTexel a n (blendTexel (p.target c.1 8 1) (p.target c.1 9 1) (p.target c.1 10 1) old c.2)

/-- The depth of a sample at retirement (R382): the exported depth, clamped, or the plane's. -/
def Pass.fragDepth (p : Pass) (f : FragRec) (sample : Nat) : Nat :=
  match f.exports.find? (fun e => e.tgt == 8) with
  | some e => p.clampDepth ((e.vals[0]?).getD 0).toNat
  | none => p.planeDepth f.seq f.px f.py sample

/-- Steps 1 and 2 of R382 at a fragment's retirement: the samples that pass. -/
def State.fragTest (s : State) (l : Launch) (p : Pass) (f : FragRec) : State × Byte :=
  if p.earlyZ then (s, f.cover) else s.depthPixel l p f.px f.py f.cover (p.fragDepth f)

/-- The retirement of a fragment that has completed and was not killed (R382). -/
def State.retireFrag (s : State) (l : Launch) (p : Pass) (f : FragRec) : State :=
  let r := s.fragTest l p f
  let passed := (List.range p.samples).filter fun i => r.2.getLsbD i
  let s := (p.colours f).foldl (fun s c => passed.foldl (fun s i => s.colourSample l p f c i) s) r.1
  s.onPass l.lid fun p => { p with occ := p.occ + passed.length }

/-- FRAGMENT_RETIRE (R382): the fragment of the lowest PRIMSEQ at a pixel, once its lane has completed. -/
def execFragmentRetire (lid px py : Nat) (s : State) : Host.Outcome State Fault Refusal :=
  .next (match s.launchOf lid, s.passOf lid with
    | some l, some p =>
      (match leastBy FragRec.seq (p.frags.filter fun f => f.px == px && f.py == py) with
        | none => s
        | some f =>
          let gone (s : State) : State := s.onPass lid fun p => { p with frags := p.frags.filter fun g => !(g.px == px && g.py == py && g.seq == f.seq) }
          if !f.complete then s
          else if f.killed then gone s
          else match s.canReach (s.owner px py) l p.depthAcc (if p.earlyZ then [] else p.depthReach px py f.cover) with
            | (s, false) => s
            | (s, true) => match s.canReach (s.owner px py) l .w (p.colourReach { f with cover := (s.fragTest l p f).2 }) with
              | (s, false) => s
              | (s, true) => gone (s.retireFrag l p f))
    | _, _ => s)

/-! Completion of a launch. -/

/-- The statistics record (R385). -/
def Pass.statsBytes (p : Pass) (clock : Nat) : List Byte :=
  [p.geoInv, p.primSub, p.primCull, p.primBin, p.fragInv, p.occ, p.replays, clock].flatMap fun n => leBytes 8 n

/-- Whether a pass has nothing left to commit, draw or retire; a killed launch's fragments are discarded (R360, R383). -/
def Pass.over (p : Pass) (l : Launch) : Bool :=
  l.killed || (p.waiting.isEmpty && p.reruns.isEmpty && p.frags.isEmpty && p.allDrawn &&
    decide (l.gx * l.gy * l.gz * l.kd.warps ≤ l.skipClaimed (l.claimed.length * l.kd.warps) p.committed))

/-- Whether a launch can complete (R335): every workgroup has exited and everything its warps stored is registered. -/
def State.launchOver (s : State) (l : Launch) : Bool :=
  !l.complete && l.unplaced.isEmpty && s.idleLaunch l.lid &&
  (!s.ops.any fun o => o.launch == l.lid && o.kind.writes) &&
  (!l.geometry || (s.passOf l.lid).any fun p => p.over l)

/-- The statistics record written (R385): false while its page is waited for. -/
def State.writeStats (s : State) (l : Launch) : State × Bool :=
  match s.passOf l.lid with
  | none => (s, true)
  | some p =>
    if p.stats = 0 then (s, true)
    else match s.aim none l (BitVec.ofNat 64 p.stats) 64 .w with
      | (s, none) => (s, false)
      | (s, some (.home pa)) => (s.homeWrite none pa (p.statsBytes s.clock), true)
      | (s, some _) => (s, true)

/-- The deadline-miss counter of a launch whose deadline has passed (R391). -/
def State.missAddr (s : State) (l : Launch) : DWord :=
  match l.deadline, s.passOf l.lid with
  | some d, some p => if d < s.clock then BitVec.ofNat 64 p.dmiss else 0
  | _, _ => 0

/-- Whether the counter at an address can be reached or refused now. -/
def State.counterReady (s : State) (asid : BitVec 16) (va : DWord) : State × Bool :=
  if va = 0 then (s, true)
  else match s.agentCounter asid va .rmw with
    | (s, .wait) => (s, false)
    | (s, _) => (s, true)

/-- LAUNCH_COMPLETION (R335, R385, R391): the statistics record, then the DONE step as a release of everything, then the
deadline-miss counter; nothing is done while a page of one of them is waited for. -/
def execLaunchCompletion (lid : Nat) (s : State) : Host.Outcome State Fault Refusal :=
  .next (match s.launchOf lid with
    | none => s
    | some l =>
      if !s.launchOver l then s
      else
        let miss := s.missAddr l
        let rcb := (s.region lid).rcb
        match s.counterReady l.asid l.done with
        | (s, false) => s
        | (s, true) => match s.counterReady l.asid miss with
          | (s, false) => s
          | (s, true) => match s.writeStats l with
            | (s, false) => s
            | (s, true) =>
              let s := (s.stepDone l.asid l.path l.done lid rcb).1
              let s := (s.stepDone l.asid l.path miss lid rcb).1
              let s := s.onLaunch lid fun l => { l with complete := true }
              { s with passes := s.passes.filter fun p => p.launch != lid })

end Sys2Proof.Machine
end

