-- ==== Sys2Proof/Machine/RvExt.lean ====
section
/-! DEFINITION. Words of the service cores beyond RV64I, M and A that need no register of their own: the compressed words with Zcb, as
the words they stand for, and the bit manipulation of Zba, Zbb and Zbs with Zicond, from the RISC-V manual (log entry 56). -/

namespace Sys2Proof.Machine

/-! Compressed words. -/

/-- A word in I-type form. -/
def rvWordI (op f3 rd rs1 imm : Nat) : Word := BitVec.ofNat 32 (imm % 4096 * 2 ^ 20 + rs1 * 2 ^ 15 + f3 * 2 ^ 12 + rd * 2 ^ 7 + op)
/-- A word in S-type form. -/
def rvWordS (op f3 rs1 rs2 imm : Nat) : Word :=
  BitVec.ofNat 32 (imm / 32 % 128 * 2 ^ 25 + rs2 * 2 ^ 20 + rs1 * 2 ^ 15 + f3 * 2 ^ 12 + imm % 32 * 2 ^ 7 + op)
/-- A word in R-type form. -/
def rvWordR (op f3 f7 rd rs1 rs2 : Nat) : Word := BitVec.ofNat 32 (f7 * 2 ^ 25 + rs2 * 2 ^ 20 + rs1 * 2 ^ 15 + f3 * 2 ^ 12 + rd * 2 ^ 7 + op)
/-- A branch against x0. -/
def rvWordB (f3 rs1 imm : Nat) : Word :=
  BitVec.ofNat 32 (imm / 4096 % 2 * 2 ^ 31 + imm / 32 % 64 * 2 ^ 25 + rs1 * 2 ^ 15 + f3 * 2 ^ 12 + imm / 2 % 16 * 2 ^ 8 + imm / 2048 % 2 * 2 ^ 7 + 0x63)
/-- A jump that keeps no link. -/
def rvWordJ (imm : Nat) : Word :=
  BitVec.ofNat 32 (imm / 2 ^ 20 % 2 * 2 ^ 31 + imm / 2 % 1024 * 2 ^ 21 + imm / 2048 % 2 * 2 ^ 20 + imm / 4096 % 256 * 2 ^ 12 + 0x6F)

/-- A number whose parts are fields of a compressed word, each with its place in the number. -/
def rvPick (h : Word) (parts : List (Nat × Nat × Nat)) : Nat := parts.foldl (fun n p => n + field h p.1 p.2.1 * 2 ^ p.2.2) 0

/-- The low `n` bits of a number as a signed value, in 32 bits. -/
def rvSext (n x : Nat) : Nat := if x < 2 ^ (n - 1) then x else x + 2 ^ 32 - 2 ^ n

/-- Quadrant 0: loads and stores of x8–x15. -/
def rvc0 (h : Word) : Option Word :=
  let rs1 := 8 + field h 7 3
  let rd := 8 + field h 2 3
  let w := rvPick h [(10, 3, 3), (6, 1, 2), (5, 1, 6)]
  let d := rvPick h [(10, 3, 3), (5, 2, 6)]
  let b := rvPick h [(6, 1, 0), (5, 1, 1)]
  let hw := rvPick h [(5, 1, 1)]
  match field h 13 3 with
  | 0 =>
    let imm := rvPick h [(11, 2, 4), (7, 4, 6), (6, 1, 2), (5, 1, 3)]
    if imm = 0 then none else some (rvWordI 0x13 0 rd 2 imm)
  | 2 => some (rvWordI 0x03 2 rd rs1 w)
  | 3 => some (rvWordI 0x03 3 rd rs1 d)
  | 4 => (match field h 10 3 with
    | 0 => some (rvWordI 0x03 4 rd rs1 b)
    | 1 => some (rvWordI 0x03 (if bit h 6 then 1 else 5) rd rs1 hw)
    | 2 => some (rvWordS 0x23 0 rs1 rd b)
    | 3 => if bit h 6 then none else some (rvWordS 0x23 1 rs1 rd hw)
    | _ => none)
  | 6 => some (rvWordS 0x23 2 rs1 rd w)
  | 7 => some (rvWordS 0x23 3 rs1 rd d)
  | _ => none

/-- The words of quadrant 1 that compute on x8–x15. -/
def rvcAlu (h : Word) : Option Word :=
  let rd := 8 + field h 7 3
  let rs2 := 8 + field h 2 3
  let shamt := rvPick h [(2, 5, 0), (12, 1, 5)]
  match field h 10 2 with
  | 0 => some (rvWordI 0x13 5 rd rd shamt)
  | 1 => some (rvWordI 0x13 5 rd rd (0x400 + shamt))
  | 2 => some (rvWordI 0x13 7 rd rd (rvSext 6 shamt))
  | _ => match 4 * field h 12 1 + field h 5 2 with
    | 0 => some (rvWordR 0x33 0 0x20 rd rd rs2)
    | 1 => some (rvWordR 0x33 4 0 rd rd rs2)
    | 2 => some (rvWordR 0x33 6 0 rd rd rs2)
    | 3 => some (rvWordR 0x33 7 0 rd rd rs2)
    | 4 => some (rvWordR 0x3B 0 0x20 rd rd rs2)
    | 5 => some (rvWordR 0x3B 0 0 rd rd rs2)
    | 6 => some (rvWordR 0x33 0 1 rd rd rs2)
    | _ => match field h 2 3 with
      | 0 => some (rvWordI 0x13 7 rd rd 0xFF)
      | 1 => some (rvWordI 0x13 1 rd rd 0x604)
      | 2 => some (rvWordR 0x3B 4 4 rd rd 0)
      | 3 => some (rvWordI 0x13 1 rd rd 0x605)
      | 4 => some (rvWordR 0x3B 0 4 rd rd 0)
      | 5 => some (rvWordI 0x13 4 rd rd 0xFFF)
      | _ => none

/-- Quadrant 1: immediates, jumps and branches. -/
def rvc1 (h : Word) : Option Word :=
  let rd := field h 7 5
  let imm := rvSext 6 (rvPick h [(2, 5, 0), (12, 1, 5)])
  let to_ := rvSext 9 (rvPick h [(12, 1, 8), (10, 2, 3), (5, 2, 6), (3, 2, 1), (2, 1, 5)])
  match field h 13 3 with
  | 0 => some (rvWordI 0x13 0 rd rd imm)
  | 1 => if rd = 0 then none else some (rvWordI 0x1B 0 rd rd imm)
  | 2 => some (rvWordI 0x13 0 rd 0 imm)
  | 3 =>
    if imm = 0 then none
    else if rd = 2 then some (rvWordI 0x13 0 2 2 (rvSext 10 (rvPick h [(12, 1, 9), (6, 1, 4), (5, 1, 6), (3, 2, 7), (2, 1, 5)])))
    else some (BitVec.ofNat 32 (imm % 2 ^ 20 * 2 ^ 12 + rd * 2 ^ 7 + 0x37))
  | 4 => rvcAlu h
  | 5 => some (rvWordJ (rvSext 12 (rvPick h [(12, 1, 11), (11, 1, 4), (9, 2, 8), (8, 1, 10), (7, 1, 6), (6, 1, 7), (3, 3, 1), (2, 1, 5)])))
  | 6 => some (rvWordB 0 (8 + field h 7 3) to_)
  | _ => some (rvWordB 1 (8 + field h 7 3) to_)

/-- Quadrant 2: the stack pointer's loads and stores, and moves and jumps of any register. -/
def rvc2 (h : Word) : Option Word :=
  let rd := field h 7 5
  let rs2 := field h 2 5
  match field h 13 3 with
  | 0 => some (rvWordI 0x13 1 rd rd (rvPick h [(2, 5, 0), (12, 1, 5)]))
  | 2 => if rd = 0 then none else some (rvWordI 0x03 2 rd 2 (rvPick h [(12, 1, 5), (4, 3, 2), (2, 2, 6)]))
  | 3 => if rd = 0 then none else some (rvWordI 0x03 3 rd 2 (rvPick h [(12, 1, 5), (5, 2, 3), (2, 3, 6)]))
  | 4 =>
    if rs2 ≠ 0 then some (rvWordR 0x33 0 0 rd (if bit h 12 then rd else 0) rs2)
    else if rd ≠ 0 then some (rvWordI 0x67 0 (if bit h 12 then 1 else 0) rd 0)
    else if bit h 12 then some 0x00100073
    else none
  | 6 => some (rvWordS 0x23 2 2 rs2 (rvPick h [(9, 4, 2), (7, 2, 6)]))
  | 7 => some (rvWordS 0x23 3 2 rs2 (rvPick h [(10, 3, 3), (7, 3, 6)]))
  | _ => none

/-- The word that a compressed one stands for: none for a floating-point or a reserved one. -/
def rvc (h : Word) : Option Word :=
  match field h 0 2 with
  | 0 => rvc0 h
  | 1 => rvc1 h
  | 2 => rvc2 h
  | _ => none

/-! Bit manipulation. -/

/-- The zero bits above the highest set bit. -/
def rvClz {n : Nat} (a : BitVec n) : Nat := n - (((List.range n).filter fun i => bit a i).foldl (fun _ i => i + 1) 0)
/-- The zero bits below the lowest set bit. -/
def rvCtz {n : Nat} (a : BitVec n) : Nat := (((List.range n).find? fun i => bit a i).getD n)
/-- The set bits. -/
def rvCpop {n : Nat} (a : BitVec n) : Nat := ((List.range n).filter fun i => bit a i).length
/-- Rotations. -/
def rvRol {n : Nat} (a : BitVec n) (k : Nat) : BitVec n := a.rotateLeft (k % n)
def rvRor {n : Nat} (a : BitVec n) (k : Nat) : BitVec n := a.rotateRight (k % n)

/-- A value made of the bytes of another. -/
def rvBytes (a : DWord) (f : List Byte → List Byte) : DWord := BitVec.ofNat 64 (leValue (f (leBytes 8 a.toNat)))

/-- Operations of OP by funct7 and funct3. -/
def rvBits (f7 f3 : Nat) (a b : DWord) : Option DWord :=
  let one : DWord := 1 <<< (b.toNat % 64)
  match f7, f3 with
  | 0x10, 2 => some ((a <<< 1) + b)
  | 0x10, 4 => some ((a <<< 2) + b)
  | 0x10, 6 => some ((a <<< 3) + b)
  | 0x20, 7 => some (a &&& ~~~b)
  | 0x20, 6 => some (a ||| ~~~b)
  | 0x20, 4 => some (~~~(a ^^^ b))
  | 0x05, 4 => some (if a.slt b then a else b)
  | 0x05, 5 => some (if a < b then a else b)
  | 0x05, 6 => some (if a.slt b then b else a)
  | 0x05, 7 => some (if a < b then b else a)
  | 0x30, 1 => some (rvRol a (b.toNat % 64))
  | 0x30, 5 => some (rvRor a (b.toNat % 64))
  | 0x24, 1 => some (a &&& ~~~one)
  | 0x24, 5 => some ((a >>> (b.toNat % 64)) &&& 1)
  | 0x34, 1 => some (a ^^^ one)
  | 0x14, 1 => some (a ||| one)
  | 0x07, 5 => some (if b = 0 then 0 else a)
  | 0x07, 7 => some (if b = 0 then a else 0)
  | _, _ => none

/-- Operations of OP-IMM by funct3 and the 12-bit immediate. -/
def rvBitsImm (f3 imm : Nat) (a : DWord) : Option DWord :=
  let b : DWord := BitVec.ofNat 64 (imm % 64)
  match f3, imm with
  | 1, 0x600 => some (BitVec.ofNat 64 (rvClz a))
  | 1, 0x601 => some (BitVec.ofNat 64 (rvCtz a))
  | 1, 0x602 => some (BitVec.ofNat 64 (rvCpop a))
  | 1, 0x604 => some ((a.setWidth 8).signExtend 64)
  | 1, 0x605 => some ((a.setWidth 16).signExtend 64)
  | 5, 0x287 => some (rvBytes a fun bs => bs.map fun x => if x = 0 then 0 else 0xFF)
  | 5, 0x6B8 => some (rvBytes a List.reverse)
  | _, _ => match f3, imm / 64 with
    | 1, 0x12 => rvBits 0x24 1 a b
    | 1, 0x1A => rvBits 0x34 1 a b
    | 1, 0x0A => rvBits 0x14 1 a b
    | 5, 0x12 => rvBits 0x24 5 a b
    | 5, 0x18 => rvBits 0x30 5 a b
    | _, _ => none

/-- Operations of OP-32; `r` is the field of rs2. -/
def rvBitsW (f7 f3 r : Nat) (a b : DWord) : Option DWord :=
  let za : DWord := (a.setWidth 32).setWidth 64
  let lo (x : DWord) : Word := x.setWidth 32
  match f7, f3 with
  | 0x04, 0 => some (za + b)
  | 0x04, 4 => if r = 0 then some ((a.setWidth 16).setWidth 64) else none
  | 0x10, 2 => some ((za <<< 1) + b)
  | 0x10, 4 => some ((za <<< 2) + b)
  | 0x10, 6 => some ((za <<< 3) + b)
  | 0x30, 1 => some ((rvRol (lo a) (b.toNat % 32)).signExtend 64)
  | 0x30, 5 => some ((rvRor (lo a) (b.toNat % 32)).signExtend 64)
  | _, _ => none

/-- Operations of OP-IMM-32 by funct3 and the 12-bit immediate. -/
def rvBitsImmW (f3 imm : Nat) (a : DWord) : Option DWord :=
  let lo : Word := a.setWidth 32
  match f3, imm with
  | 1, 0x600 => some (BitVec.ofNat 64 (rvClz lo))
  | 1, 0x601 => some (BitVec.ofNat 64 (rvCtz lo))
  | 1, 0x602 => some (BitVec.ofNat 64 (rvCpop lo))
  | _, _ =>
    if f3 = 1 ∧ imm / 64 = 2 then some ((lo.setWidth 64 : DWord) <<< (imm % 64))
    else if f3 = 5 ∧ imm / 32 = 0x30 then some ((rvRor lo (imm % 32)).signExtend 64)
    else none

end Sys2Proof.Machine
end

