-- ==== Sys2Proof/Machine/Service.lean ====
section
/-! DEFINITION. Service cores: their memory (R392), their custom-0 instructions (R348–R351), and their fetch. -/

namespace Sys2Proof.Machine

/-- Service cores of the part (R1): DEVCAP.SVCN. -/
def State.svcCount (s : State) : Nat := field s.devcap 0 8

/-- A service core; one that has not been written holds what reset leaves (log entry 3). -/
def State.svc (s : State) (c : Nat) : Svc :=
  (SMap.find c s.svcs).getD { x := [], pc := 0, priv := 3, asid := 0, waiting := false, epc := 0, cause := 0, watch := none, resv := none }

def State.onSvc (s : State) (c : Nat) (f : Svc → Svc) : State := { s with svcs := SMap.insert c (f (s.svc c)) s.svcs }

/-- A service core runs from the moment its die's bit is set (R409, R410): four a die. -/
def State.svcReady (s : State) (c : Nat) : Bool := decide (c < s.svcCount) && bit s.readyf (8 + c / 4)

/-- A register of a service core; x0 reads zero. -/
def Svc.reg (v : Svc) (r : BitVec 5) : DWord := if r = 0 then 0 else rd v.x r.toNat

/-- Writes a register; x0 discards it (R351). -/
def Svc.setReg (v : Svc) (r : BitVec 5) (x : DWord) : Svc := if r = 0 then v else { v with x := wr v.x r.toNat x }

/-- An exception or interrupt of a service core: epc and cause. Where the handler lies and its privilege, S or M, are
state that the manual does not give: free values (log entry 3). -/
def State.svcTrap (s : State) (c : Nat) (cause : DWord) : State :=
  let h := s.freeValue
  { (s.onSvc c fun v => { v with epc := v.pc, cause := cause, pc := h, priv := (if bit (Config.free (s.freeCtr + 1)) 0 then 3 else 1), waiting := false, watch := none, resv := none }) with freeCtr := s.freeCtr + 2 }

/-- Exceptions of the RISC-V privileged architecture that R348–R351 name. -/
def illegalInstruction : DWord := 2
def loadMisaligned : DWord := 4
def loadAccessFault : DWord := 5
def loadPageFault : DWord := 13

/-- What a service core's access gives: a value, an exception, or a wait. -/
inductive SvcGot (α : Type) where
  | ok (x : α)
  | trap (cause : DWord)
  | wait
deriving DecidableEq, Repr

/-- Whether a core's addresses are physical: in M-mode, for an ASID that no context has. M-mode code reaches a context's memory through its
mappings, bound by R, W and X (R392; DEDUCED, log entry 3). -/
def State.svcBare (s : State) (c : Nat) : Bool := (s.svc c).priv == 3 && (s.rootOf (s.svc c).asid).isNone

/-- The place that a service core's address names (R392): S-mode and M-mode are not bound by USER;
a page that is not there is a page fault, `page`, which Tregrim resolves, and what no memory backs an access fault; a write of a
copy-on-write page waits for Tregrim (R305). -/
def State.svcReach (s : State) (c : Nat) (va : DWord) (acc : Acc) (page access : DWord) : State × SvcGot Nat :=
  let v := s.svc c
  if s.svcBare c then (if s.inDram va.toNat then (s, .ok va.toNat) else (s, .trap access))
  else match s.viaWalker.translateIn v.asid va acc (v.priv != 0) none with
    | (s, .ok place _) => if placePeer place then (s, .trap access) else (s, .ok place)
    | (s, .cow) => (s, .wait)
    | (s, _) => (s, .trap page)

/-- A coherent load of a service core (R392): `n` bytes within a page, once no engine owns their lines (R185). -/
def State.svcLoad (s : State) (c : Nat) (va : DWord) (n : Nat) : State × SvcGot Nat :=
  match s.svcReach c va .r loadPageFault loadAccessFault with
  | (s, .ok place) =>
    if s.bytesOwned (placePa place) n then (s, .wait) else
    let s := s.mergeBytes (placePa place) n
    (s, .ok (s.memRead (placePa place) n))
  | (s, .trap e) => (s, .trap e)
  | (s, .wait) => (s, .wait)

/-- Eight-byte values loaded one after another. -/
def State.svcLoads (s : State) (c : Nat) (va : DWord) : Nat → State × SvcGot (List DWord)
  | 0 => (s, .ok [])
  | n + 1 => match State.svcLoads s c va n with
    | (s, .ok xs) => (match s.svcLoad c (va + BitVec.ofNat 64 (8 * n)) 8 with
      | (s, .ok x) => (s, .ok (xs ++ [BitVec.ofNat 64 x]))
      | (s, .trap e) => (s, .trap e)
      | (s, .wait) => (s, .wait))
    | r => r

/-- An instruction of a service core has completed. -/
def State.svcDone (s : State) (c : Nat) (r : BitVec 5) (x : DWord) : State :=
  s.onSvc c fun v => { (v.setReg r x) with pc := v.pc + 4, waiting := false, watch := none }

/-- Whether a region's RCB lies in a context (R349): its memory can be read there, and its path, where it is well formed,
ends in a root of that context. -/
def State.rcbInContext (s : State) (asid : BitVec 16) (rcb : DWord) : Bool :=
  match s.rcbPath asid 16 rcb.toNat with
  | some path => (path.getLast?).any fun e => recField e.2 16 2 == asid.toNat
  | none => (s.reachAs (some asid) rcb.toNat .r true).isSome

/-- The launch that a spawn record asks for (R349). -/
def State.spawnReq (s : State) (asid : BitVec 16) (bs : List Byte) (ks : List DWord) : LaunchReq :=
  { asid := asid, root := ((s.ctxs.find? fun c => c.asid == asid).map (·.rootRcb)).getD 0, kd := BitVec.ofNat 64 (recField bs 0 8), rcb := BitVec.ofNat 64 (recField bs 8 8), gx := recField bs 24 4, gy := 1, gz := 1, gang := false, persist := false, geometry := false, initial := 0, params := 0, given := some ks, done := 0, queue := none, hint := 0, join := BitVec.ofNat 64 (recField bs 16 8), leader := none, handoff := none }

/-- The submission of a spawn record that has passed its own checks (R349), to a front end of the core's die, which is a
free choice among the ready four (log entry 9). -/
def State.submitSpawn (s : State) (c : Nat) (rd_ : BitVec 5) (q : LaunchReq) : State :=
  let f := 4 * (c / 4) + s.freeValue.toNat % 4
  if !s.feReady f then s
  else match s.agentRead q.asid false 1 q.kd 64 with
    | (s, .wait) => s
    | (s, .bad _ _) => s.svcDone c rd_ 3
    | (s, .ok kb) =>
      if !kdOk kb || q.kd.toNat % 64 != 0 || recField kb 30 1 != 1 then s.svcDone c rd_ 3
      else match s.resolve q with
        | (s, .wait) => s
        | (s, .reject cause) => (s.postReject q cause 0).svcDone c rd_ 4
        | (s, .ok kd path ps desc) => match s.accept f q kd path ps desc with
          | (s, lid) => s.svcDone c rd_ (BitVec.ofNat 64 lid)

/-- PSV.SPAWN (R348, R349). -/
def execPsvSpawn (rd_ r1 r2 : BitVec 5) (s : State) : Host.Outcome State Fault Refusal :=
  let c := s.svcIx
  let v := s.svc c
  let at_ := v.reg r1
  let who := v.reg r2
  .next (
    if v.priv = 0 then s.svcTrap c illegalInstruction
    else if at_.toNat % 64 ≠ 0 then s.svcTrap c loadMisaligned
    else match s.svcLoads c at_ 8 with
      | (s, .trap e) => s.svcTrap c e
      | (s, .wait) => s
      | (s, .ok head) =>
        let bs := head.flatMap fun x => leBytes 8 x.toNat
        let nk := recField bs 28 1
        let nw := recField bs 24 4
        if !recZero bs 29 64 || nw == 0 || decide (65536 < nw) || decide (48 < nk) then s.svcDone c rd_ 1
        else match s.svcLoads c (at_ + 64) nk with
          | (s, .trap e) => s.svcTrap c e
          | (s, .wait) => s
          | (s, .ok ks) =>
            let asid : BitVec 16 := who.extractLsb' 0 16
            if field who 16 48 != 0 || !(s.ctxs.any fun x => x.asid == asid) || !s.rcbInContext asid (BitVec.ofNat 64 (recField bs 8 8)) then s.svcDone c rd_ 2
            else s.submitSpawn c rd_ (s.spawnReq asid bs ks))

/-- PSV.CWAIT (R351): while the target is not met the core waits at the instruction. -/
def execPsvCwait (rd_ r1 r2 : BitVec 5) (s : State) : Host.Outcome State Fault Refusal :=
  let c := s.svcIx
  let v := s.svc c
  let at_ := v.reg r1
  .next (
    if at_.toNat % 8 ≠ 0 then s.svcTrap c loadMisaligned
    else match s.svcReach c at_ .r loadPageFault loadAccessFault with
      | (s, .trap e) => s.svcTrap c e
      | (s, .wait) => s
      | (s, .ok place) =>
        if (counterTrap place 1 at_).isSome then s.svcTrap c loadAccessFault
        else if s.bytesOwned (placePa place) 8 then s
        else
          let s := s.mergeBytes (placePa place) 8
          let x := s.memQ (placePa place)
          if v.reg r2 ≤ x then s.svcDone c rd_ x else s.onSvc c fun v => { v with waiting := true, watch := some (placePa place) })

/-- SERVICE_CORE_INTERRUPT (R351): epc names the instruction that has not completed. -/
def execServiceCoreInterrupt (core : Nat) (cause : DWord) (s : State) : Host.Outcome State Fault Refusal :=
  .next (if s.svcReady core then s.svcTrap core cause else s)

/-! A service core's turn. -/

/-- What a service core fetches. -/
inductive SvcFetch where
  | word (w : Word)
  | trap (cause : DWord)
  | hole (pa : Nat)
  | wait
deriving DecidableEq, Repr

/-- One half of an instruction fetched. -/
def State.svcHalf (s : State) (c : Nat) (va : DWord) : State × SvcFetch :=
  match s.svcReach c va .x 12 1 with
  | (s, .ok place) =>
    if s.bytesOwned (placePa place) 2 then (s, .wait)
    else
      let s := s.mergeBytes (placePa place) 2
      (s, .word (BitVec.ofNat 32 (s.memRead (placePa place) 2)))
  | (s, .trap e) => (s, if s.svcBare c then .hole va.toNat else .trap e)
  | (s, .wait) => (s, .wait)

/-- The instruction at a service core's pc: two bytes, or four where the first two say so. -/
def State.svcFetch (s : State) (c : Nat) : State × SvcFetch :=
  let pc := (s.svc c).pc
  if pc.toNat % 2 ≠ 0 then (s, .trap 0)
  else match s.svcHalf c pc with
    | (s, .word lo) => if field lo 0 2 ≠ 3 then (s, .word lo) else (match s.svcHalf c (pc + 2) with
      | (s, .word hi) => (s, .word (lo ||| (hi <<< 16)))
      | r => r)
    | r => r

end Sys2Proof.Machine
end

