-- ==== Sys2Proof/Machine/Rv64.lean ====
section
/-! DEFINITION. The instructions of a service core that need its integer registers alone: RV64I, M, A and C, bit manipulation and
`fence.i`, from the RISC-V manual, which this manual names and does not restate (R290, R392; log entry 56); and its accesses to the
control spaces (R393, R422). -/

namespace Sys2Proof.Machine

/-! Immediates. -/

def rvImmI (w : Word) : DWord := (w.extractLsb' 20 12).signExtend 64
def rvImmS (w : Word) : DWord := (w.extractLsb' 25 7 ++ w.extractLsb' 7 5).signExtend 64
def rvImmB (w : Word) : DWord := (w.extractLsb' 31 1 ++ w.extractLsb' 7 1 ++ w.extractLsb' 25 6 ++ w.extractLsb' 8 4 ++ (0 : BitVec 1)).signExtend 64
def rvImmU (w : Word) : DWord := (w.extractLsb' 12 20 ++ (0 : BitVec 12)).signExtend 64
def rvImmJ (w : Word) : DWord := (w.extractLsb' 31 1 ++ w.extractLsb' 12 8 ++ w.extractLsb' 20 1 ++ w.extractLsb' 21 10 ++ (0 : BitVec 1)).signExtend 64

/-! Integer operations. -/

/-- The operations of OP and OP-IMM; `alt` selects SUB and SRA. -/
def rvAlu (f3 : Nat) (alt : Bool) (a b : DWord) : DWord :=
  let n := b.toNat % 64
  match f3 with
  | 0 => if alt then a - b else a + b
  | 1 => a <<< n
  | 2 => if a.slt b then 1 else 0
  | 3 => if a < b then 1 else 0
  | 4 => a ^^^ b
  | 5 => if alt then a.sshiftRight n else a >>> n
  | 6 => a ||| b
  | _ => a &&& b

/-- Those of OP-32 and OP-IMM-32. -/
def rvAluW (f3 : Nat) (alt : Bool) (a b : Word) : Option Word :=
  let n := b.toNat % 32
  match f3 with
  | 0 => some (if alt then a - b else a + b)
  | 1 => some (a <<< n)
  | 5 => some (if alt then a.sshiftRight n else a >>> n)
  | _ => none

/-- Division and remainder: by zero all ones and the dividend. -/
def rvDiv {w : Nat} (f3 : Nat) (a b : BitVec w) : BitVec w :=
  match f3 with
  | 4 => if b = 0 then BitVec.allOnes w else a.sdiv b
  | 5 => if b = 0 then BitVec.allOnes w else a.udiv b
  | 6 => if b = 0 then a else a.srem b
  | _ => if b = 0 then a else a.umod b

/-- The M operations of OP. -/
def rvMul (f3 : Nat) (a b : DWord) : DWord :=
  match f3 with
  | 0 => a * b
  | 1 => BitVec.ofInt 64 (a.toInt * b.toInt / 2 ^ 64)
  | 2 => BitVec.ofInt 64 (a.toInt * (b.toNat : Int) / 2 ^ 64)
  | 3 => BitVec.ofNat 64 (a.toNat * b.toNat / 2 ^ 64)
  | _ => rvDiv f3 a b

/-- The M operations of OP-32. -/
def rvMulW (f3 : Nat) (a b : Word) : Option Word :=
  match f3 with
  | 0 => some (a * b)
  | 1 => none
  | 2 => none
  | 3 => none
  | _ => some (rvDiv f3 a b)

/-- The result of a word that only computes one. -/
def rvResult (w : Word) (pc a b : DWord) : Option DWord :=
  let f3 := field w 12 3
  let f7 := field w 25 7
  let lo (x : DWord) : Word := x.setWidth 32
  let wide (x : Option Word) : Option DWord := x.map (·.signExtend 64)
  match field w 0 7 with
  | 0x37 => some (rvImmU w)
  | 0x17 => some (pc + rvImmU w)
  | 0x13 => if f3 = 1 then (if f7 / 2 = 0 then some (rvAlu 1 false a (rvImmI w)) else rvBitsImm 1 (field w 20 12) a)
    else if f3 = 5 then (if f7 / 2 = 0 ∨ f7 / 2 = 16 then some (rvAlu 5 (f7 / 2 == 16) a (rvImmI w)) else rvBitsImm 5 (field w 20 12) a)
    else some (rvAlu f3 false a (rvImmI w))
  | 0x1B => if f3 = 0 then wide (rvAluW 0 false (lo a) (lo (rvImmI w)))
    else if f7 = 0 ∨ f7 = 32 ∧ f3 = 5 then wide (rvAluW f3 (f7 == 32) (lo a) (lo (rvImmI w)))
    else rvBitsImmW f3 (field w 20 12) a
  | 0x33 => if f7 = 1 then some (rvMul f3 a b)
    else if f7 = 0 ∨ f7 = 32 ∧ (f3 = 0 ∨ f3 = 5) then some (rvAlu f3 (f7 == 32) a b)
    else rvBits f7 f3 a b
  | 0x3B => if f7 = 1 then wide (rvMulW f3 (lo a) (lo b))
    else if f7 = 0 ∨ f7 = 32 ∧ (f3 = 0 ∨ f3 = 5) then wide (rvAluW f3 (f7 == 32) (lo a) (lo b))
    else rvBitsW f7 f3 (field w 20 5) a b
  | _ => none

/-- Whether a branch is taken. -/
def rvTaken (f3 : Nat) (a b : DWord) : Option Bool :=
  match f3 with
  | 0 => some (a == b)
  | 1 => some (a != b)
  | 4 => some (a.slt b)
  | 5 => some (!a.slt b)
  | 6 => some (decide (a < b))
  | 7 => some (decide (b ≤ a))
  | _ => none

/-- An instruction of `n` bytes has completed. -/
def State.rvDone (s : State) (c n : Nat) (r : BitVec 5) (x : DWord) : State :=
  s.onSvc c fun v => { (v.setReg r x) with pc := v.pc + BitVec.ofNat 64 n, waiting := false, watch := none }

/-! Memory. -/

def storeMisaligned : DWord := 6
def storeAccessFault : DWord := 7
def storePageFault : DWord := 15

/-- Bytes loaded from pieces of pages. -/
def State.svcLoadPieces (s : State) (c : Nat) : List (DWord × Nat) → State × SvcGot (List Byte)
  | [] => (s, .ok [])
  | (va, n) :: rest => match s.svcLoad c va n with
    | (s, .ok x) => (match State.svcLoadPieces s c rest with
      | (s, .ok bs) => (s, .ok (leBytes n x ++ bs))
      | r => r)
    | (s, .trap e) => (s, .trap e)
    | (s, .wait) => (s, .wait)

/-- The places of a store, or what keeps it. -/
def State.svcPlaces (s : State) (c : Nat) : List (DWord × Nat) → State × SvcGot (List (Nat × Nat))
  | [] => (s, .ok [])
  | (va, n) :: rest => match s.svcReach c va .w storePageFault storeAccessFault with
    | (s, .ok place) =>
      if s.bytesOwned (placePa place) n then (s, .wait)
      else (match State.svcPlaces s c rest with
        | (s, .ok ps) => (s, .ok ((placePa place, n) :: ps))
        | r => r)
    | (s, .trap e) => (s, .trap e)
    | (s, .wait) => (s, .wait)

/-- Bytes stored at places one after another: registered at their homes, as from a cluster of the core's own (R276, R392). -/
def State.svcPut (s : State) : List (Nat × Nat) → List Byte → State
  | [], _ => s
  | (pa, n) :: rest, bs => State.svcPut (s.homeWrite none pa (bs.take n)) rest (bs.drop n)

/-- A load's value. -/
def rvLoaded (f3 x : Nat) : DWord :=
  match f3 with
  | 0 => (BitVec.ofNat 8 x).signExtend 64
  | 1 => (BitVec.ofNat 16 x).signExtend 64
  | 2 => (BitVec.ofNat 32 x).signExtend 64
  | _ => BitVec.ofNat 64 x

/-- The place in a control space that an address names (R393, R422): in M-mode a physical address, in S-mode through a valid leaf with the
right whose PA lies there, on the core's own page tables (DEDUCED, log entry 3). -/
def State.svcControl (s : State) (c : Nat) (va : DWord) (acc : Acc) : Option Nat :=
  let v := s.svc c
  let here (pa : Nat) : Option Nat := if 0x800000000000 ≤ pa ∧ pa < 0x800200000000 then some pa else none
  if v.priv = 3 then here va.toNat
  else if v.priv = 1 ∧ field va 52 12 = 0 then (s.rootOf v.asid).bind fun root => match s.descend va.toNat 4 root with
    | .leaf l =>
      if eV l.entry && !ePeer l.entry && !eQs l.entry && (rightsCheck l.entry acc true).isNone then here (l.frame + va.toNat % l.bytes) else none
    | _ => none
  else none

/-- Whether an access lies within the capability registers, a write of which is ignored and raises no fault (R4). -/
def capRegs (pa n : Nat) : Bool := decide (0x800000000000 ≤ pa) && decide (pa + n ≤ 0x800000000018)

/-- A load. In a control space it is of 8 aligned bytes. -/
def State.rvLoad (s : State) (c len : Nat) (w : Word) (va : DWord) : Option State :=
  let f3 := field w 12 3
  let n := 2 ^ (f3 % 4)
  if f3 = 7 then none
  else if let some pa := s.svcControl c va .r then
    some (if n = 8 ∧ pa % 8 = 0 then s.rvDone c len (w.extractLsb' 7 5) (s.spaceRead pa) else s.svcTrap c loadAccessFault)
  else match s.svcLoadPieces c (pagePieces 2 va.toNat n) with
    | (s, .ok bs) => some (s.rvDone c len (w.extractLsb' 7 5) (rvLoaded f3 (leValue bs)))
    | (s, .trap e) => some (s.svcTrap c e)
    | (s, .wait) => some s

/-- A store. In a control space it is of 8 aligned bytes, and of any to the capability registers, which ignore it (R4). -/
def State.rvStore (s : State) (c len : Nat) (w : Word) (va x : DWord) : Option State :=
  let f3 := field w 12 3
  let n := 2 ^ f3
  if 3 < f3 then none
  else if let some pa := s.svcControl c va .w then
    some (if capRegs pa n then s.rvDone c len 0 0
      else if n = 8 ∧ pa % 8 = 0 then (s.spaceWrite (some c) pa x).rvDone c len 0 0
      else s.svcTrap c storeAccessFault)
  else match s.svcPlaces c (pagePieces 2 va.toNat n) with
    | (s, .ok ps) => some ((s.svcPut ps (leBytes n x.toNat)).rvDone c len 0 0)
    | (s, .trap e) => some (s.svcTrap c e)
    | (s, .wait) => some s

/-- What an AMO leaves, for values of `n` bits. -/
def rvAmo {n : Nat} (f5 : Nat) (old x : BitVec n) : Option (BitVec n) :=
  match f5 with
  | 0 => some (old + x)
  | 1 => some x
  | 4 => some (old ^^^ x)
  | 8 => some (old ||| x)
  | 12 => some (old &&& x)
  | 16 => some (if old.slt x then old else x)
  | 20 => some (if old.slt x then x else old)
  | 24 => some (if old < x then old else x)
  | 28 => some (if old < x then x else old)
  | _ => none

/-- The place and the value of an atomic's bytes at their home (R185, R267). -/
def State.svcAtomic (s : State) (c : Nat) (va : DWord) (n : Nat) (acc : Acc) (page access : DWord) (k : State → Nat → Nat → State) : State :=
  match s.svcReach c va acc page access with
  | (s, .ok place) =>
    if s.bytesOwned (placePa place) n then s
    else
      let s := s.mergeBytes (placePa place) n
      k s (placePa place) (s.memRead (placePa place) n)
  | (s, .trap e) => s.svcTrap c e
  | (s, .wait) => s

/-- An SC or AMO on the capability registers (R4): the write is ignored. An AMO reads the register, and an SC has no reservation there. -/
def State.capAtomic (s : State) (c pa n : Nat) (d : BitVec 5) (f3 f5 : Nat) : State :=
  let x := (s.spaceRead (pa / 8 * 8)).toNat / 2 ^ (8 * (pa % 8)) % 2 ^ (8 * n)
  (s.svcDone c d (if f5 = 3 then 1 else rvLoaded f3 x)).onSvc c fun v => if f5 = 3 then { v with resv := none } else v

/-- LR, SC and the AMOs (R392): `f3` 2 for a word and 3 for a doubleword. An SC succeeds where its core's reservation of these bytes
still stands. -/
def State.rvAtomic (s : State) (c : Nat) (w : Word) (va x : DWord) : Option State :=
  let f3 := field w 12 3
  let f5 := field w 27 5
  let n := 2 ^ f3
  let d : BitVec 5 := w.extractLsb' 7 5
  let known := (rvAmo f5 (0 : Word) 0).isSome || f5 == 3 || (f5 == 2 && field w 20 5 == 0)
  if (f3 ≠ 2 ∧ f3 ≠ 3) ∨ !known then none
  else if va.toNat % n ≠ 0 then some (s.svcTrap c (if f5 = 2 then loadMisaligned else storeMisaligned))
  else if let some pa := (if f5 = 2 then none else (s.svcControl c va .rmw).filter fun pa => capRegs pa n) then some (s.capAtomic c pa n d f3 f5)
  else if f5 = 2 then some (s.svcAtomic c va n .r loadPageFault loadAccessFault fun s pa old =>
    (s.svcDone c d (rvLoaded f3 old)).onSvc c fun v => { v with resv := some (pa, n, old) })
  else if f5 = 3 then some (s.svcAtomic c va n .rmw storePageFault storeAccessFault fun s pa old =>
    let ok := (s.svc c).resv == some (pa, n, old)
    let s := if ok then s.homeWrite none pa (leBytes n x.toNat) else s
    (s.svcDone c d (if ok then 0 else 1)).onSvc c fun v => { v with resv := none })
  else some (s.svcAtomic c va n .rmw storePageFault storeAccessFault fun s pa old =>
    let new : Nat := if f3 = 2 then ((rvAmo f5 (BitVec.ofNat 32 old) (x.setWidth 32)).getD 0).toNat else ((rvAmo f5 (BitVec.ofNat 64 old) x).getD 0).toNat
    (s.homeWrite none pa (leBytes n new)).svcDone c d (rvLoaded f3 old))

/-- A jump: rd takes the address that follows. -/
def State.rvJump (s : State) (c len : Nat) (w : Word) (dest : DWord) : State :=
  let link := (s.svc c).pc + BitVec.ofNat 64 len
  s.onSvc c fun v => { (v.setReg (w.extractLsb' 7 5) link) with pc := dest, waiting := false }

/-- A 4-byte word, which stands at a pc that it leaves by `len` bytes: none for one that is not modelled. A `fence` orders nothing that
is not in order here, since every access of the core is made at its home, in order (R392). -/
def State.rvWord (s : State) (c len : Nat) (w : Word) : Option State :=
  let v := s.svc c
  let a := v.reg (w.extractLsb' 15 5)
  let b := v.reg (w.extractLsb' 20 5)
  let f3 := field w 12 3
  match field w 0 7 with
  | 0x03 => s.rvLoad c len w (a + rvImmI w)
  | 0x23 => s.rvStore c len w (a + rvImmS w) b
  | 0x2F => s.rvAtomic c w a b
  | 0x63 => (rvTaken f3 a b).map fun t => s.onSvc c fun v => { v with pc := v.pc + (if t then rvImmB w else BitVec.ofNat 64 len), waiting := false }
  | 0x6F => some (s.rvJump c len w (v.pc + rvImmJ w))
  | 0x67 => if f3 = 0 then some (s.rvJump c len w ((a + rvImmI w) &&& ~~~1)) else none
  | 0x0F => if f3 ≤ 1 then some (s.rvDone c len 0 0) else none
  | 0x73 => if w = 0x00000073 then some (s.svcTrap c (if v.priv = 0 then 8 else if v.priv = 1 then 9 else 11))
    else if w = 0x00100073 then some (s.svcTrap c 3)
    else none
  | _ => (rvResult w v.pc a b).map fun x => s.rvDone c len (w.extractLsb' 7 5) x

/-- A word of a service core outside custom-0: none where it needs a register that this manual does not give, or is reserved. The
compressed word of zeros is defined to be illegal. -/
def State.rv64 (s : State) (c : Nat) (w : Word) : Option State :=
  if field w 0 2 = 3 then s.rvWord c 4 w
  else if field w 0 16 = 0 then some (s.svcTrap c illegalInstruction)
  else (rvc w).bind fun x => s.rvWord c 2 x

end Sys2Proof.Machine
end

