-- ==== Sys2Proof/Machine/Tregrim.lean ====
section
/-! DEFINITION. Tregrim's services (R394–R400, R432) and the creation of a context (R320, R443). Tregrim's own choices,
addresses, frames and the answers of the network, are arguments of the event; one that does not give the stated result
changes nothing. -/

namespace Sys2Proof.Machine

/-! Calls. -/

/-- Runs a service for a call that has not been executed and that no earlier call of its context with its token goes
before (R257). -/
def State.onCall (s : State) (c nr : Nat) (k : State → Call → State) : State :=
  match s.calls.find? (fun x => x.id == c) with
  | none => s
  | some x =>
    let before := (s.calls.takeWhile fun y => y.id != c).any fun y => y.asid == x.asid && y.token == x.token && y.result.isNone
    if x.nr = nr ∧ x.result.isNone ∧ !before then k s x else s

/-- The result of a call (R394, R397). -/
def State.answer (s : State) (c : Call) (r : DWord) : State :=
  { s with calls := s.calls.map fun x => if x.id = c.id then { x with result := some r } else x }

def Call.arg (c : Call) (i : Nat) : DWord := (c.args[i]?).getD 0
def Call.num (c : Call) (i : Nat) : Nat := (c.arg i).toNat

/-- Arguments from `i` on that are not named are reserved (R395). -/
def Call.clean (c : Call) (i : Nat) : Bool := (c.args.drop i).all (· == 0)

/-- A service that Tregrim performs itself (R308, R315, R317), as a call that nobody made: no record has its number. -/
def State.ownCall (s : State) (nr : Nat) (asid : BitVec 16) (arg : DWord) : Call :=
  { id := s.calls.foldl (fun n x => Max.max n x.id) 0 + 1, asid := asid, callId := 0, nr := nr, args := [arg], token := 0, result := none, subs := [] }

/-- A service with one argument that a call asks for, or that Tregrim performs itself for a context and an argument. -/
def State.onOwn (s : State) (c : Asker DWord) (nr : Nat) (k : State → Call → State) : State := match c with
  | .call c => s.onCall c nr k
  | .own asid arg => k s (s.ownCall nr asid arg)

/-- A failed call's code. -/
def isFailure (r : DWord) : Bool := bit r 63

/-- What a fault on an access that a call names gives (R396). -/
def accessCode (code cause : Nat) : DWord := if code = 0x20 ∧ cause = 4 then noRights else badArg

/-- A read of what a call names, under the rights of a warp (R396): the failure is the call's. -/
def State.callRead (s : State) (c : Call) (va : DWord) (n : Nat) (k : State → List Byte → State) : State :=
  match s.agentRead c.asid false (n / 4096 + 2) va n with
  | (s, .ok bs) => k s bs
  | (s, .wait) => s
  | (s, .bad code cause) => s.answer c (accessCode code cause)

/-! Mappings. -/

/-- The 4 KiB pages of a range. -/
def pagesOf (lo hi : Nat) : List Nat := (List.range ((hi + 4095) / 4096 - lo / 4096)).map fun i => (lo / 4096 + i) * 4096

/-- Whether nothing is mapped at an address. -/
def State.isMiss (s : State) (asid : BitVec 16) (va : Nat) : Bool := s.walk asid va == .miss

/-- Whether a range lies in the canonical addresses (R300). -/
def canonicalRange (lo n : Nat) : Bool := decide (lo + n ≤ 2 ^ 52)

/-- The distinct leaves of a range. -/
def State.leavesIn (s : State) (asid : BitVec 16) (lo hi : Nat) : List Leaf :=
  (pagesOf lo hi).foldl (fun ls va => match s.walkLeaf asid va with
    | some l => if ls.contains l then ls else ls ++ [l]
    | none => ls) []

/-- A range mapped by a plan of entries (R288, R303, R410): entries that were invalid, so that every page of the range has
a leaf that satisfies `ok`, zeroed. -/
def State.mapRange (s : State) (asid : BitVec 16) (lo hi : Nat) (plan : List (Nat × DWord)) (ok : Leaf → Bool) : Option State :=
  if (plan.all fun e => !eV (s.memQ e.1)) && (pagesOf lo hi).all (s.isMiss asid) then
    match s.planned asid plan fun va l shared => ok l && !shared && decide (va - va % l.bytes < hi) && decide (lo < va + l.bytes) with
    | some t => if (pagesOf lo hi).all fun va => (t.walkLeaf asid va).isSome then some t else none
    | none => none
  else none

/-- A range unmapped by a plan that clears V in exactly its leaves, with the shootdown (R303): none while an access
translated through them is outstanding. -/
def State.unmapRange (s : State) (asid : BitVec 16) (lo hi : Nat) (plan : List (Nat × DWord)) : Option State :=
  let ls := s.leavesIn asid lo hi
  let exact := ls.all (fun l => plan.any fun e => e.1 == l.at_) && plan.all fun e => !eV e.2 && ls.any fun l => l.at_ == e.1
  if s.planOk asid plan && exact && !(ls.any fun l => s.rangeBusy l.frame l.bytes) then some ((s.writePlan plan).shootRange asid lo hi) else none

/-- Bytes stored at addresses of a context through its leaves, whatever their rights; `fuel` bounds the pages. -/
def State.putVa (s : State) (asid : BitVec 16) : Nat → Nat → List Byte → State
  | 0, _, _ => s
  | fuel + 1, va, bs =>
    if bs.isEmpty then s
    else
      let n := 4096 - va % 4096
      let s := match s.walkLeaf asid va with
        | some l => s.homeWrite none (placePa (l.place va)) (bs.take n)
        | none => s
      State.putVa s asid fuel (va + n) (bs.drop n)

/-! Memory services. -/

/-- HOMEID and page size under R298. -/
def State.homeOk (s : State) (home homeId pageLog2 : Nat) : Bool :=
  match home with
  | 1 => decide (homeId < field s.devcap 8 8) && decide (pageLog2 ≤ 16)
  | 2 => decide (homeId < 256) && s.diePresent (homeId / 64) && decide (pageLog2 ≤ 21)
  | _ => homeId == 0

/-- Bytes that live allocations pin in a pin area or slice. -/
def State.pinned (s : State) (home homeId : Nat) : Nat :=
  (s.treg.allocs.filter fun a => a.home == home && a.homeId == homeId).foldl (fun n a => n + a.bytes) 0

/-- The end of the highest workgroup allocation of a core. -/
def State.sramEnd (s : State) (core : Nat) : Nat :=
  (s.wgs.filter fun g => g.core == core && g.onCore).foldl (fun m g => Max.max m (g.sramBase + g.sramSize)) 0

/-- Whether a pin area or slice can hold `n` more bytes (R298). -/
def State.pinFits (s : State) (home homeId n : Nat) : Bool :=
  match home with
  | 1 => decide (s.pinned 1 homeId + n ≤ 2 ^ 17) && decide (s.sramEnd homeId + s.pinned 1 homeId + n ≤ 393216)
  | 2 => decide (s.pinned 2 homeId + n ≤ 2 ^ 19)
  | _ => true

def State.withTreg (s : State) (f : Treg → Treg) : State := { s with treg := f s.treg }

/-- MEMALLOC (R395): `base` is Tregrim's choice, or NOMEM. -/
def execMemalloc (c : Nat) (base : DWord) (plan : List (Nat × DWord)) (s : State) : Host.Outcome State Fault Refusal :=
  .next (s.onCall c 0x01 fun s x =>
    let pl := x.num 1
    let home := x.num 2 % 4
    let homeId := x.num 3
    let n := (x.num 0 + 2 ^ pl - 1) / 2 ^ pl * 2 ^ pl
    if !x.clean 4 || x.num 0 == 0 || !([12, 16, 21, 30].contains pl) || x.arg 2 &&& ~~~0x73 != 0 || !s.homeOk home homeId pl then s.answer x badArg
    else if base = noMem || !s.pinFits home homeId n then s.answer x noMem
    else
      let lo := base.toNat
      let a : Alloc := { asid := x.asid, base := base, bytes := n, pageLog2 := pl, home := home, homeId := homeId, rights := (x.arg 2).extractLsb' 4 3 }
      let free := canonicalRange lo n && lo % 2 ^ pl == 0 && !(s.treg.allocs.any fun b => b.asid == x.asid && overlap lo n b.base.toNat b.bytes)
      if !free then s
      else if home = 0 ∨ home = 3 then
        (if plan.isEmpty && (pagesOf lo (lo + n)).all (s.isMiss x.asid) then (s.withTreg fun t => { t with allocs := t.allocs ++ [a] }).answer x base else s)
      else match s.mapRange x.asid lo (lo + n) plan a.allows with
        | some s => (s.withTreg fun t => { t with allocs := t.allocs ++ [a] }).answer x base
        | none => s)

/-- What is left of an allocation without [lo, hi). -/
def Alloc.without (asid : BitVec 16) (lo hi : Nat) (a : Alloc) : List Alloc :=
  let b := a.base.toNat
  if a.asid != asid || !overlap lo (hi - lo) b a.bytes then [a]
  else (if b < lo then [{ a with bytes := lo - b }] else []) ++
    (if hi < b + a.bytes then [{ a with base := BitVec.ofNat 64 hi, bytes := b + a.bytes - hi }] else [])

/-- Why a range of allocations cannot be freed or changed (R395): it must start and end on page boundaries of the
allocations it covers, and each of its pages must belong to one. -/
def State.rangeRefused (s : State) (asid : BitVec 16) (lo n : Nat) : Option DWord :=
  if n = 0 ∨ !canonicalRange lo n ∨ lo % 4096 ≠ 0 ∨ n % 4096 ≠ 0 then some badArg
  else if (pagesOf lo (lo + n)).any fun va => (s.allocOf asid va).isNone then some notFound
  else if ((s.allocOf asid lo).any fun a => lo % 2 ^ a.pageLog2 != 0) || ((s.allocOf asid (lo + n - 1)).any fun a => (lo + n) % 2 ^ a.pageLog2 != 0) then some badArg
  else none

/-- MEMFREE (R395). -/
def execMemfree (c : Nat) (plan : List (Nat × DWord)) (s : State) : Host.Outcome State Fault Refusal :=
  .next (s.onCall c 0x02 fun s x =>
    let lo := x.num 0
    let n := x.num 1
    if !x.clean 2 then s.answer x badArg
    else match s.rangeRefused x.asid lo n with
      | some r => s.answer x r
      | none =>
        if s.lent x.asid lo (lo + n) then s.answer x busyObject
        else match s.unmapRange x.asid lo (lo + n) plan with
          | some s => (s.withTreg fun t => { t with allocs := t.allocs.flatMap (Alloc.without x.asid lo (lo + n)) }).answer x 0
          | none => s)

/-- A leaf with new rights (R395): W stands as COW where a copy-on-write or a lend holds the page (`held`), and goes with both. -/
def reright (rights : BitVec 3) (held : Bool) (old new : DWord) : Bool :=
  let same (lo n : Nat) : Bool := field old lo n == field new lo n
  eR new == rights.getLsbD 0 && eX new == rights.getLsbD 2 && (eW new || eCow new) == rights.getLsbD 1 && !(eW new && eCow new) &&
  (!rights.getLsbD 1 || eCow new == (eCow old || held)) && same 0 2 && same 5 55 && same 61 3

/-- Whether a leaf without W gets it back as COW alone (R399): its page is lent, or another mapping of its frame is left. -/
def State.leafHeld (s : State) (asid : BitVec 16) (va : Nat) (l : Leaf) : Bool :=
  !eW l.entry && (s.lent asid (va / l.bytes * l.bytes) (va / l.bytes * l.bytes + l.bytes) || s.mappedBeside asid l l.frame l.bytes)

/-- MEMPROTECT (R395): the mapped pages get their rights by `plan`, with the shootdown before the reply. -/
def execMemprotect (c : Nat) (plan : List (Nat × DWord)) (s : State) : Host.Outcome State Fault Refusal :=
  .next (s.onCall c 0x03 fun s x =>
    let lo := x.num 0
    let n := x.num 1
    let hi := lo + n
    if !x.clean 3 || decide (8 ≤ x.num 2) then s.answer x badArg
    else match s.rangeRefused x.asid lo n with
      | some r => s.answer x r
      | none =>
        let rights : BitVec 3 := BitVec.ofNat 3 (x.num 2)
        let ls := s.leavesIn x.asid lo hi
        let held (l : Leaf) : Bool := (pagesOf lo hi).any fun va => s.walkLeaf x.asid va == some l && s.leafHeld x.asid va l
        let exact := ls.all (fun l => plan.any fun e => e.1 == l.at_ && reright rights (held l) l.entry e.2) && plan.all fun e => ls.any fun l => l.at_ == e.1
        if !s.planOk x.asid plan || !exact || ls.any fun l => s.rangeBusy l.frame l.bytes then s
        else
          let s := (s.writePlan plan).shootRange x.asid lo hi
          let mid (a : Alloc) : List Alloc :=
            let b := Max.max lo a.base.toNat
            let e := Min.min hi (a.base.toNat + a.bytes)
            if a.asid = x.asid ∧ b < e then a.without x.asid lo hi ++ [{ a with base := BitVec.ofNat 64 b, bytes := e - b, rights := rights }] else [a]
          (s.withTreg fun t => { t with allocs := t.allocs.flatMap mid }).answer x 0)

/-! Quickset services. -/

/-- A declaration record (R308). -/
def qregionOf (asid : BitVec 16) (bs : List Byte) : Option QRegion :=
  let f := recField bs
  let blk := f 1 1
  let page := f 4 1
  if f 0 1 = 1 ∧ 12 ≤ blk ∧ blk ≤ 21 ∧ 1 ≤ f 2 1 ∧ f 2 1 ≤ 4 ∧ f 3 1 < 32 ∧ [12, 16, 21].contains page ∧ page ≤ blk ∧ recZero bs 5 8 ∧
      f 8 8 % 2 ^ blk = 0 ∧ f 16 8 ≠ 0 ∧ f 16 8 % 2 ^ blk = 0 ∧ f 16 8 ≤ 2 ^ 40 ∧ canonicalRange (f 8 8) (f 16 8) ∧ recZero bs 48 64 then
    some { asid := asid, blkLog2 := blk, maxDepth := f 2 1, reclaim := (f 3 1).testBit 4, rights := BitVec.ofNat 4 (f 3 1), pageLog2 := page, base := BitVec.ofNat 64 (f 8 8), size := f 16 8, genKd := BitVec.ofNat 64 (f 24 8), genParam := BitVec.ofNat 64 (f 32 8), genRcb := BitVec.ofNat 64 (f 40 8) }
  else none

/-- A leaf of a declared region, EMPTY (R308). -/
def QRegion.leafOk (r : QRegion) (l : Leaf) : Bool :=
  let e := l.entry
  l.bytes == 2 ^ r.pageLog2 && eQs e && eFill e == 0 && ePa e == 0 && eHome e == 0 && eHomeId e == 0 && !eCow e && !eShared e && !ePeer e &&
  eR e == r.rights.getLsbD 0 && eW e == r.rights.getLsbD 1 && eX e == r.rights.getLsbD 2 && eUser e == r.rights.getLsbD 3

/-- A region declared by a record (R308): `plan` writes the tables and the leaves, none when memory for them is exhausted; `stock`
goes to the pools (R310). A descriptor that breaks R327 otherwise is accepted: its generators cannot be launched (R311). -/
def State.declare (s : State) (x : Call) (stock : List Nat) (plan : List (Nat × DWord)) (bs : List Byte) : State :=
  match qregionOf x.asid bs with
  | none => s.answer x badArg
  | some r => s.callRead x r.genKd 64 fun s kb =>
    if recField kb 24 2 * recField kb 26 2 * recField kb 28 2 != 64 then s.answer x badArg
    else if !(pagesOf r.base.toNat (r.base.toNat + r.size)).all (s.isMiss x.asid) then s.answer x busyObject
    else match s.regionPath x.asid r.genRcb.toNat with
      | none => s.answer x notFound
      | some _ =>
        if plan.isEmpty then s.answer x noMem
        else match s.mapRange x.asid r.base.toNat (r.base.toNat + r.size) plan r.leafOk with
          | some t => ((({ t with regions := t.regions ++ [r] } : State).stock stock).answer x 0)
          | none => s

/-- QSDECLARE (R308, R395), on a call, or by Tregrim itself for a context with the record given. -/
def execQsdeclare (c : Asker (List Byte)) (stock : List Nat) (plan : List (Nat × DWord)) (s : State) : Host.Outcome State Fault Refusal :=
  .next (match c with
    | .own asid bs => if bs.length = 64 then s.declare (s.ownCall 0x10 asid 0) stock plan bs else s
    | .call c => s.onCall c 0x10 fun s x =>
      if !x.clean 1 then s.answer x badArg
      else s.callRead x (x.arg 0) 64 fun s bs => s.declare x stock plan bs)

/-- The leader entry of the block of an address, and its region. -/
def State.leaderAt (s : State) (asid : BitVec 16) (va : Nat) : Option (QRegion × Nat × Nat) :=
  match s.regionOf asid va, s.rootOf asid with
  | some r, some root => match s.descend (r.blockOf va) 4 root with
    | .leaf l => some (r, r.blockOf va, l.at_)
    | _ => none
  | _, _ => none

/-- QSREARM (R317), on a call or by Tregrim itself: FAILED becomes EMPTY with its PA field cleared, in one update of the leader. -/
def execQsrearm (c : Asker DWord) (s : State) : Host.Outcome State Fault Refusal :=
  .next (s.onOwn c 0x11 fun s x =>
    if !x.clean 1 then s.answer x badArg
    else match s.leaderAt x.asid (x.num 0) with
      | some (_, _, leader) => if eFill (s.memQ leader) = 3 then (s.setFill leader 0 (some 0)).answer x 0 else s.answer x notFound
      | none => s.answer x notFound)

/-- The blocks of a region by their leader entries. -/
def State.leadersOf (s : State) (r : QRegion) : List Nat :=
  (List.range (r.size / r.blockBytes)).filterMap fun i => (s.leaderAt r.asid (r.base.toNat + i * r.blockBytes)).map fun e => e.2.2

/-- QSWITHDRAW (R318), on a call or by Tregrim itself: FILLING blocks fail with 0xFFFD and their generators end; then every leaf is unmapped and shot
down, once no access translated through it is outstanding. The backing of its FILLED blocks goes to no pool (DESIGN CHOICE, log entry
76). -/
def execQswithdraw (c : Asker DWord) (s : State) : Host.Outcome State Fault Refusal :=
  .next (s.onOwn c 0x12 fun s x =>
    if !x.clean 1 then s.answer x badArg
    else match s.regions.find? (fun r => r.asid == x.asid && r.base == x.arg 0) with
      | none => s.answer x notFound
      | some r =>
        let leaders := s.leadersOf r
        let filling := s.fills.filter fun f => leaders.contains f.leader
        let s := filling.foldl (fun s f =>
          let s := s.failBlock f.leader 0xFFFD
          match f.launch with
          | some lid => s.dropLaunchWarps lid
          | none => s) s
        let lo := r.base.toNat
        let ls := s.leavesIn x.asid lo (lo + r.size)
        if ls.any fun l => s.rangeBusy (ePa l.entry) l.bytes then s
        else
          let s := (s.writePlan (ls.map fun l => (l.at_, 0))).shootRange x.asid lo (lo + r.size)
          ({ s with regions := s.regions.filter (fun q => !(q.asid == r.asid && q.base == r.base)), filledOrder := s.filledOrder.filter fun l => !leaders.contains l } : State).answer x 0)

/-- QSEVICT (R315), on a call or by Tregrim itself. -/
def execQsevict (c : Asker DWord) (s : State) : Host.Outcome State Fault Refusal :=
  .next (s.onOwn c 0x13 fun s x =>
    if !x.clean 1 then s.answer x badArg
    else match s.leaderAt x.asid (x.num 0) with
      | none => s.answer x notFound
      | some (r, b, leader) =>
        if eFill (s.memQ leader) ≠ 2 then s.answer x 0
        else
          let t := s.evict r b leader
          if eFill (t.memQ leader) = 2 then s else t.answer x 0)

/-! Linking. -/

/-- The next multiple of 64 (R325). -/
def up64 (n : Nat) : Nat := (n + 63) / 64 * 64

/-- The parts of a kernel image (R325). -/
structure KImage where
  nkd : Nat
  codeAlign : Nat
  constAlign : Nat
  code : List Byte
  const : List Byte
  rels : List (List Byte)
  kds : List Byte
  syms : List (List Byte)
deriving DecidableEq, Repr

/-- Records of `n` bytes each. -/
def chunks (n : Nat) : Nat → List Byte → List (List Byte)
  | 0, _ => []
  | k + 1, bs => bs.take n :: chunks n k (bs.drop n)

/-- Whether a number is a power of two up to 4,096 (R103). -/
def alignOk (lo n : Nat) : Bool := (List.range 13).any fun i => n == 2 ^ i && decide (lo ≤ n)

/-- An image of well-formed layout whose length is that of the bytes given (R325). -/
def imageOfBytes (bs : List Byte) : Option KImage :=
  let f := recField bs
  let codeSz := f 8 4
  let constSz := f 12 4
  let nrel := f 16 4
  let nsym := f 20 4
  let constAt := up64 (64 + codeSz)
  let relAt := up64 (constAt + constSz)
  let kdAt := up64 (relAt + 16 * nrel)
  let symAt := up64 (kdAt + 64 * f 6 2)
  if f 0 4 = 0x4B565350 ∧ f 4 2 = 1 ∧ 1 ≤ f 6 2 ∧ codeSz % 4 = 0 ∧ recZero bs 32 64 ∧ alignOk 4 (f 24 4) ∧ alignOk 1 (f 28 4) ∧ bs.length = symAt + 32 * nsym then
    some { nkd := f 6 2, codeAlign := f 24 4, constAlign := f 28 4, code := (bs.drop 64).take codeSz, const := (bs.drop constAt).take constSz, rels := chunks 16 nrel (bs.drop relAt), kds := (bs.drop kdAt).take (64 * f 6 2), syms := chunks 32 nsym (bs.drop symAt) }
  else none

/-- Bytes of a section (R326). -/
def KImage.sect (i : KImage) (n : Nat) : List Byte := match n with
  | 0 => i.code
  | 1 => i.const
  | _ => i.kds

/-- A well-formed relocation record (R326). -/
def KImage.relOk (i : KImage) (r : List Byte) : Bool :=
  recField r 0 4 % 8 == 0 && decide (recField r 4 1 ≤ 2) && decide (recField r 5 1 ≤ 1) && recField r 6 1 == 1 && recZero r 7 8 &&
  decide (recField r 0 4 + 8 ≤ (i.sect (recField r 4 1)).length) && decide (recField r 8 8 ≤ (i.sect (recField r 5 1)).length)

/-- A well-formed symbol record (R326). -/
def KImage.symOk (i : KImage) (r : List Byte) : Bool :=
  decide (recField r 24 1 ≤ 2) && recZero r 25 28 && decide (recField r 28 4 ≤ (i.sect (recField r 24 1)).length)

/-- An 8-byte word put into a section. -/
def patch (bs : List Byte) (off x : Nat) : List Byte := bs.take off ++ leBytes 8 x ++ bs.drop (off + 8)

/-- One relocation applied, for bases of the code and the constants (R326). -/
def KImage.relocate (code const : Nat) (i : KImage) (r : List Byte) : KImage :=
  let off := recField r 0 4
  let x := ((if recField r 5 1 = 0 then code else const) + recField r 8 8) % 2 ^ 64
  match recField r 4 1 with
  | 0 => { i with code := patch i.code off x }
  | 1 => { i with const := patch i.const off x }
  | _ => { i with kds := patch i.kds off x }

/-- The rights of a linked page (R432). -/
def linkedLeaf (code : Bool) (l : Leaf) : Bool :=
  eR l.entry && eUser l.entry && !eW l.entry && !eCow l.entry && eX l.entry == code && !eQs l.entry && !ePeer l.entry

/-- Whether a new leaf belongs to one of the parts of an image, each with its kind, address and bytes (R432). -/
def partLeaf (parts : List (Bool × Nat × List Byte)) (va : Nat) (l : Leaf) : Bool :=
  parts.any fun p => linkedLeaf p.1 l && unpinned l && overlap va l.bytes p.2.1 p.2.2.length

/-- The pages of the parts of an image, each with its kind. -/
def partPages (parts : List (Bool × Nat × List Byte)) : List (Bool × Nat) :=
  parts.flatMap fun p => if p.2.2.isEmpty then [] else (pagesOf p.2.1 (p.2.1 + p.2.2.length)).map fun va => (p.1, va)

/-- Whether every page of the parts of an image is mapped with the rights of its kind (R432). -/
def State.partsMapped (s : State) (asid : BitVec 16) (parts : List (Bool × Nat × List Byte)) : Bool :=
  (partPages parts).all fun e => (s.walkLeaf asid e.2).any (linkedLeaf e.1)

/-- The parts of an image mapped by a plan and stored (R432), in addresses of no live allocation. -/
def State.linkParts (s : State) (asid : BitVec 16) (parts : List (Bool × Nat × List Byte)) (plan : List (Nat × DWord)) : Option State :=
  if (partPages parts).all fun e => s.isMiss asid e.2 && (s.allocOf asid e.2).isNone then
    match s.planned asid plan fun va l shared => !shared && partLeaf parts va l with
    | some t =>
      if t.partsMapped asid parts then
        some (parts.foldl (fun t p => t.putVa asid (p.2.2.length / 4096 + 2) p.2.1 p.2.2) t)
      else none
    | none => none
  else none

/-- Whether an image is what R325 to R327 state, its descriptors as relocated. -/
def KImage.ok (i : KImage) : Bool :=
  i.rels.all i.relOk && i.syms.all i.symOk && (chunks 64 i.nkd (i.rels.foldl (KImage.relocate 0 0) i).kds).all kdOk

/-- LINK (R395, R432): the bases are Tregrim's choice; `kd` may be NOMEM. -/
def execLink (c : Nat) (code const kd : DWord) (plan : List (Nat × DWord)) (s : State) : Host.Outcome State Fault Refusal :=
  .next (s.onCall c 0x20 fun s x =>
    if !x.clean 2 || decide (x.num 1 < 64) then s.answer x badArg
    else s.callRead x (x.arg 0) (x.num 1) fun s bs =>
      match imageOfBytes bs with
      | none => s.answer x badArg
      | some i =>
        let cb := code.toNat
        let db := const.toNat
        let kb := kd.toNat
        let placed := canonicalRange cb i.code.length && canonicalRange db i.const.length && canonicalRange kb i.kds.length &&
          cb % i.codeAlign == 0 && db % i.constAlign == 0 && kb % 64 == 0 && !overlap cb i.code.length kb i.kds.length
        if !i.ok then s.answer x badArg
        else if kd = noMem then s.answer x noMem
        else if !placed || plan.any fun e => eV (s.memQ e.1) then s
        else
          let i := i.rels.foldl (KImage.relocate cb db) i
          match s.linkParts x.asid [(true, cb, i.code), (false, db, i.const), (true, kb, i.kds)] plan with
          | some t => t.answer x kd
          | none => s)

/-- The entry that an address selects at a level, of a table at a level above. -/
def State.entryAt (s : State) (va target : Nat) : Nat → Nat → Option Nat
  | 0, _ => none
  | level + 1, table =>
    let a := table + 8 * tableIndex (level + 1) va
    if level + 1 = target then some a
    else
      let e := s.memQ a
      if eV e && !bit e 7 then State.entryAt s va target level (ePa e) else none

/-- Whether a group of pages can be registered as a shared set (R307): its leaves have SHARED set and W clear, of memory that any
context may be given. -/
def State.setOk (s : State) (k : SharedSet) : Bool :=
  (k.level == 3 || k.level == 2) && !k.tables.isEmpty && !(s.treg.sets.any fun y => y.id == k.id) &&
  k.tables.all fun t => t % 4096 == 0 && s.inDram t && (s.leavesFrom (k.level - 1) t 0 true).all fun e =>
    eShared e.2.1.entry && !eW e.2.1.entry && !eQs e.2.1.entry && unpinned e.2.1 && s.leafSound e.2.1

/-- Registers a set with Tregrim (R307): its id, the level of the linking entries and its tables; one that cannot be changes
nothing. -/
def State.registerSet (s : State) (k : DWord × Nat × List Nat) : State :=
  let set : SharedSet := { id := k.1, level := k.2.1, tables := k.2.2 }
  if s.setOk set then s.withTreg fun t => { t with sets := t.sets ++ [set] } else s

/-- The address span of a linking entry (R307). -/
def SharedSet.span (k : SharedSet) : Nat := if k.level = 3 then 2 ^ 30 else 2 ^ 21

/-- Whether a set is linked at a base. -/
def State.linked (s : State) (root : Nat) (k : SharedSet) (base : Nat) : Bool :=
  k.tables.zipIdx.all fun e => (s.entryAt (base + k.span * e.2) k.level 4 root).any fun a =>
    s.memQ a == setBit (setField (1 : DWord) 12 36 (e.1 / 4096)) 59 true

/-- SHAREMAP (R307, R395): `plan` links the set's tables, one entry for each. -/
def execSharemap (c : Nat) (plan : LinkPlan) (s : State) : Host.Outcome State Fault Refusal :=
  let s := plan.register.foldl State.registerSet s
  let plan := plan.tables
  .next (s.onCall c 0x21 fun s x =>
    match s.treg.sets.find? (fun y => y.id == x.arg 0), s.rootOf x.asid with
    | none, _ => s.answer x (if x.clean 2 then notFound else badArg)
    | some _, none => s
    | some set, some root =>
      let span := set.span
      let base := x.num 1
      if !x.clean 2 || base % span != 0 || !canonicalRange base (span * set.tables.length) then s.answer x badArg
      else if set.tables.zipIdx.any fun e => ((s.entryAt (base + span * e.2) set.level 4 root).any fun a => eV (s.memQ a)) then s.answer x busyObject
      else if plan.isEmpty then s.answer x noMem
      else if plan.all fun e => !eV (s.memQ e.1) then
        match s.planned x.asid plan fun _ _ shared => shared with
        | some t => if t.linked root set base then t.answer x 0 else s
        | none => s
      else s)

/-! Queues. -/

/-- Commits a copy of a QCB with new contents (R330). -/
def State.qcbCommit (s : State) (q : Nat) (bs : List Byte) : State :=
  let sel := s.memRead (s.qcb q) 8
  let s := s.homeWrite none (s.qcb q + 64 + 64 * ((sel + 1) % 2)) bs
  s.homeWrite none (s.qcb q) (leBytes 8 ((2 * (sel / 2 + 1) + (sel + 1) % 2) % 2 ^ 64))

/-- Whether QCTR is good (R331): aligned, on a page with HOME 00 or 11 and with R, W and USER. -/
def State.qctrOk (s : State) (asid : BitVec 16) (va : DWord) : Bool :=
  va.toNat % 16 == 0 && (match s.walkLeaf asid va.toNat with
    | some l => (eHome l.entry == 0 || eHome l.entry == 3) && !ePeer l.entry && eR l.entry && eW l.entry && eUser l.entry
    | none => false)

/-- Whether a leaf can hold a queue's ring: the context's program writes it (R329). -/
def ringLeaf (l : Leaf) : Bool := eR l.entry && eW l.entry && eUser l.entry && !eQs l.entry && !ePeer l.entry && unpinned l

/-- A queue's first copy (R329): idle, with QUANTUM, which no argument gives, a free value (log entry 9); launches of a queue of that
number before are no hand-offs of it (R371). -/
def State.openQueue (s : State) (q : Nat) (ring : DWord) (asid : BitVec 16) (lg prio : Nat) (root ctr : DWord) : State :=
  let copy := leBytes 8 ring.toNat ++ leBytes 2 asid.toNat ++ leBytes 1 lg ++ leBytes 1 (prio + 8) ++ leBytes 2 0 ++ leBytes 2 (s.freeValue.toNat % 2 ^ 16) ++
    leBytes 8 root.toNat ++ leBytes 16 0 ++ leBytes 8 ctr.toNat ++ leBytes 16 0
  let old (l : Launch) : Launch := if l.handoff.any fun h => h.1 == q then { l with handoff := none } else l
  let s : State := { s.countFree with launches := s.launches.map old }
  (s.homeWrite none (s.qcb q + 8) (leBytes 16 0)).qcbCommit q copy

/-- QCREATE (R395): queue `q` and the ring's address are Tregrim's choice, 1,024 or more when no queue is free. -/
def execQcreate (c q : Nat) (ring : DWord) (plan : List (Nat × DWord)) (s : State) : Host.Outcome State Fault Refusal :=
  .next (s.onCall c 0x30 fun s x =>
    let lg := x.num 0
    let ctr := x.arg 3
    if !x.clean 4 || decide (lg < 6) || decide (16 < lg) || decide (7 < x.num 1) || x.num 2 % 256 != 0 then s.answer x badArg
    else match s.agentCounter x.asid ctr .rmw with
      | (s, .wait) => s
      | (s, .bad _ _) => s.answer x badArg
      | (s, .ok _) => s.callRead x ctr 16 fun s pair =>
        if !s.qctrOk x.asid ctr || !recZero pair 0 16 then s.answer x badArg
        else match s.regionPath x.asid (x.num 2) with
          | none => s.answer x notFound
          | some path =>
            let lo := ring.toNat
            let n := 64 * 2 ^ lg
            if path.length ≠ 1 then s.answer x badArg
            else if s.qbase = 0 ∨ 1024 ≤ q then s.answer x noMem
            else if s.qEnabled q || lo % 4096 != 0 || !canonicalRange lo n || (pagesOf lo (lo + n)).any fun va => (s.allocOf x.asid va).isSome then s
            else
              match s.mapRange x.asid lo (lo + n) plan ringLeaf with
              | none => s
              | some s => (s.openQueue q ring x.asid lg (x.num 1) (x.arg 2) ctr).answer x (BitVec.ofNat 64 q))

/-- QDESTROY (R395): HEAD must equal the producers' TAIL. -/
def execQdestroy (c : Nat) (s : State) : Host.Outcome State Fault Refusal :=
  .next (s.onCall c 0x31 fun s x =>
    let q := x.num 0
    if !x.clean 1 then s.answer x badArg
    else if decide (1024 ≤ q) || !s.qEnabled q || s.qAsid q != x.asid then s.answer x notFound
    else
      let drop (s : State) (tail : Nat) : State :=
        if s.qHead q ≠ tail then s.answer x busyObject
        else
          let old := (List.range 64).map fun i => s.memByte (s.qCopy q + i)
          (s.qcbCommit q (old.take 11 ++ leBytes 1 (s.qPrio q) ++ old.drop 12)).answer x 0
      match s.agentCounter x.asid (s.qQctr q) .r with
      | (s, .wait) => s
      | (s, .ok pa) => let s := s.mergeBytes pa 8; drop s (s.memRead pa 8)
      | (s, .bad _ _) => drop s (s.qSeen q))

/-! Sockets. What the network answers is the event's argument: a result that R394 and R395 allow. -/

/-- A socket of the calling context. -/
def State.sockOf (s : State) (c : Call) : Option Sock := s.treg.socks.find? fun k => k.asid == c.asid && k.id == c.arg 0

/-- Whether a failure is one that a socket call can meet: WOULDBLOCK only on a non-blocking socket (R394). -/
def sockFailure (k : Sock) (r : DWord) : Bool :=
  isFailure r && [badArg, noMem, busyObject, unreach].contains r || (r == wouldBlock && k.nonblocking)

/-- A socket number that is not in use in the context. -/
def State.freshSock (s : State) (c : Call) (r : DWord) : Bool := !isFailure r && !(s.treg.socks.any fun k => k.asid == c.asid && k.id == r)

def State.addSock (s : State) (k : Sock) : State := s.withTreg fun t => { t with socks := t.socks ++ [k] }

/-- SOCKET (R395). -/
def execSocket (c : Nat) (r : DWord) (s : State) : Host.Outcome State Fault Refusal :=
  .next (s.onCall c 0x40 fun s x =>
    if !x.clean 2 || decide (1 < x.num 0) || decide (1 < x.num 1) then s.answer x badArg
    else if r = noMem then s.answer x noMem
    else if s.freshSock x r then (s.addSock { id := r, asid := x.asid, udp := x.num 0 == 1, nonblocking := x.num 1 == 1 }).answer x r
    else s)

/-- A call on a socket whose success is `ok`. -/
def State.sockCall (s : State) (x : Call) (named : Nat) (r : DWord) (ok : State → Sock → State) : State :=
  if !x.clean named then s.answer x badArg
  else match s.sockOf x with
    | none => s.answer x notFound
    | some k => if sockFailure k r then s.answer x r else ok s k

/-- BIND and CONNECT with their address record (R395): family 2 or 10. -/
def State.sockAddress (s : State) (x : Call) (r : DWord) : State :=
  s.sockCall x 2 r fun s _ => s.callRead x (x.arg 1) 32 fun s bs =>
    if !([2, 10].contains (recField bs 0 2)) then s.answer x badArg
    else if r = 0 then s.answer x 0 else s

/-- BIND (R395). -/
def execBind (c : Nat) (r : DWord) (s : State) : Host.Outcome State Fault Refusal := .next (s.onCall c 0x41 fun s x => s.sockAddress x r)

/-- CONNECT (R395). -/
def execConnect (c : Nat) (r : DWord) (s : State) : Host.Outcome State Fault Refusal := .next (s.onCall c 0x42 fun s x => s.sockAddress x r)

/-- LISTEN (R395). -/
def execListen (c : Nat) (r : DWord) (s : State) : Host.Outcome State Fault Refusal :=
  .next (s.onCall c 0x43 fun s x => s.sockCall x 2 r fun s _ => if r = 0 then s.answer x 0 else s)

/-- ACCEPT (R395): the new socket blocks as the listening one does. -/
def execAccept (c : Nat) (r : DWord) (s : State) : Host.Outcome State Fault Refusal :=
  .next (s.onCall c 0x44 fun s x => s.sockCall x 1 r fun s k =>
    if s.freshSock x r then (s.addSock { k with id := r }).answer x r else s)

/-- CLOSE (R395). -/
def execClose (c : Nat) (s : State) : Host.Outcome State Fault Refusal :=
  .next (s.onCall c 0x48 fun s x =>
    if !x.clean 1 then s.answer x badArg
    else match s.sockOf x with
      | none => s.answer x notFound
      | some k => (s.withTreg fun t => { t with socks := t.socks.filter fun y => !(y.asid == k.asid && y.id == k.id) }).answer x 0)

/-! Lending. -/

/-- The MAC address of an Ethernet port (R430): consecutive, port 0 with the lower. -/
def State.portMac (s : State) (port : Nat) : BitVec 48 := s.mac + BitVec.ofNat 48 port

/-- Bytes that leave through an Ethernet port, from its MAC address; which port is a free choice of Tregrim's (log entry 9). -/
def State.transmit (s : State) (bs : List Byte) : State :=
  let port := s.freeValue.toNat % 2
  { s with freeCtr := s.freeCtr + 1, outbox := s.outbox ++ [{ kind := 0x45, error := false, bytes := (leBytes 6 (s.portMac port).toNat).reverse ++ bs }] }

/-- A leaf lent (R398). -/
def lendLeaf (e : DWord) : DWord := setBit (setBit e 60 true) 3 false

/-- A leaf that had no W, at the end of its last lend. -/
def unlentLeaf (e : DWord) : DWord := setBit e 60 false

/-- The leaves of a range of a context, each once, by the first address of its page. -/
def State.leafPages (s : State) (asid : BitVec 16) (lo hi : Nat) : List (Nat × Leaf) :=
  (pagesOf lo hi).foldl (fun ls va => match s.walkLeaf asid va with
    | some l => if ls.any fun e => e.1 == va / l.bytes * l.bytes then ls else ls ++ [(va / l.bytes * l.bytes, l)]
    | none => ls) []

/-- The leaves of a range that a lend makes copy-on-write (R398), by their addresses: those in tables of the context's own that were
not copy-on-write, or that another lend has made so; `w` gives those that had W. -/
def State.lendTakes (s : State) (asid : BitVec 16) (w : Bool) (ls : List (Nat × Leaf)) : List Nat :=
  (ls.filter fun e => (s.treg.lends.any fun l => l.asid == asid && (if w then l.taken else l.added).contains e.1) ||
    (s.privateLeaf asid e.2 && !eCow e.2.entry && eW e.2.entry == w)).map (·.1)

/-- Leaves lent, with the shootdown (R398). -/
def State.lendPages (s : State) (asid : BitVec 16) (ls : List (Nat × Leaf)) : State :=
  ls.foldl (fun s e => State.shootRange (if s.privateLeaf asid e.2 then s.rewriteLeaf e.2 e.2.frame lendLeaf else s) asid e.1 (e.1 + e.2.bytes)) s

/-- SEND (R398): `r` bytes are accepted. A page of a quickset region cannot be COW (R296), so it is not lent. -/
def execSend (c : Nat) (r : DWord) (s : State) : Host.Outcome State Fault Refusal :=
  .next (s.onCall c 0x45 fun s x =>
    let n := x.num 2
    if n = 0 ∨ 2 ^ 24 < n ∨ x.num 3 % 8 ≠ 0 ∨ 1 < x.num 4 then s.answer x badArg
    else s.sockCall x 5 r fun s _ => s.callRead x (x.arg 1) n fun s bs =>
      let lo := x.num 1
      let vpns := (pagesOf lo (lo + n)).map (· / 4096)
      let ls := s.leavesIn x.asid (lo / 4096 * 4096) (lo + n)
      if n < r.toNat then s
      else if x.num 4 = 1 then (s.transmit (bs.take r.toNat)).answer x r
      else if ls.any fun l => eQs l.entry then s.answer x badArg
      else if ls.any fun l => s.rangeBusy l.frame l.bytes then s
      else
        let ps := s.leafPages x.asid lo (lo + n)
        let new : Lend := { id := s.nextOp, asid := x.asid, vpns := vpns, taken := s.lendTakes x.asid true ps, added := s.lendTakes x.asid false ps, counter := x.arg 3 }
        let s := (s.lendPages x.asid ps).withTreg fun t => { t with lends := t.lends ++ [new] }
        (({ s with nextOp := s.nextOp + 1 } : State).transmit (bs.take r.toNat)).answer x r)

/-- The end of a lend for the leaf at an address, where no other lend holds it and copy-on-write has not replaced its page (R398): W
is restored where the leaf had it, or where MEMPROTECT has given it since (R395), and else COW goes. What waits for the page goes on. -/
def State.unlend (s : State) (asid : BitVec 16) (w : Bool) (va : Nat) : State :=
  if s.treg.lends.any fun l => l.asid == asid && (l.taken ++ l.added).contains va then s
  else match s.walkLeaf asid va with
    | some l =>
      let gives := w || (s.allocOf asid va).any fun a => a.rights.getLsbD 1
      if eCow l.entry && !eW l.entry && !eShared l.entry && !(gives && s.mappedBeside asid l l.frame l.bytes) then
        let s := (s.rewriteLeaf l l.frame (if gives then ownLeaf else unlentLeaf)).shootRange asid va (va + l.bytes)
        (List.range (l.bytes / 4096)).foldl (fun s i => s.releasePage asid (va / 4096 + i)) s
      else s
    | none => s

/-- SEND_LEND_END (R398): the lend ends, and then the counter is stepped. -/
def execSendLendEnd (lend : Nat) (s : State) : Host.Outcome State Fault Refusal :=
  .next (match s.treg.lends.find? (fun l => l.id == lend) with
    | none => s
    | some l =>
      let finish (s : State) : State :=
        let s := s.withTreg fun t => { t with lends := t.lends.filter fun k => k.id != lend }
        l.added.foldl (fun s va => s.unlend l.asid false va) (l.taken.foldl (fun s va => s.unlend l.asid true va) s)
      if l.counter = 0 then finish s
      else match s.agentCounter l.asid l.counter .rmw with
        | (s, .wait) => s
        | (s, .bad _ _) => finish s
        | (s, .ok pa) => ((finish s).counterAdd pa 1).1)

/-- RECV (R400): the bytes received are mapped read-only at `base`, and base and length go into the record. -/
def execRecv (c : Nat) (r base : DWord) (bytes : List Byte) (plan : List (Nat × DWord)) (s : State) : Host.Outcome State Fault Refusal :=
  .next (s.onCall c 0x46 fun s x =>
    s.sockCall x 3 r fun s _ =>
      let lo := base.toNat
      let n := bytes.length
      match s.reachRange 0 x.asid .w 2 (x.arg 2) 16 with
      | (s, .wait) => s
      | (s, .fault code cause _) => s.answer x (accessCode code cause)
      | (s, .ok places) =>
        if places.any fun p => placePeer p.1 then s.answer x badArg
        else if s.piecesOwned places then s
        else if (pagesOf lo (lo + n)).any fun va => (s.allocOf x.asid va).isSome then s
        else if r.toNat ≠ n ∨ x.num 1 < n ∨ lo % 2 ^ 16 ≠ 0 ∨ !canonicalRange lo n then s
        else
          let readOnly (l : Leaf) : Bool := eR l.entry && eUser l.entry && !eW l.entry && !eCow l.entry && !eX l.entry && !eQs l.entry && !ePeer l.entry && unpinned l
          let mapped := if n = 0 then (if plan.isEmpty then some s else none) else s.mapRange x.asid lo (lo + n) plan readOnly
          match mapped with
          | none => s
          | some s =>
            let s := s.putVa x.asid (n / 4096 + 2) lo bytes
            let s := s.writePieces places (leBytes 8 lo ++ leBytes 8 n)
            let s := if n = 0 then s else s.withTreg fun t => { t with recvs := t.recvs ++ [(x.asid, base, n)] }
            s.answer x r)

/-- RETURN (R400): the range is unmapped. -/
def execReturnRange (c : Nat) (plan : List (Nat × DWord)) (s : State) : Host.Outcome State Fault Refusal :=
  .next (s.onCall c 0x47 fun s x =>
    if !x.clean 1 then s.answer x badArg
    else match s.treg.recvs.find? (fun e => e.1 == x.asid && e.2.1 == x.arg 0) with
      | none => s.answer x notFound
      | some (_, base, n) => match s.unmapRange x.asid base.toNat (base.toNat + n) plan with
        | some s => (s.withTreg fun t => { t with recvs := t.recvs.filter fun e => !(e.1 == x.asid && e.2.1 == base) }).answer x 0
        | none => s)

/-! Contexts. -/

/-- Whether an ASID is on Tregrim's free list (R304): no context has it, and no translation of it is left. -/
def State.asidFree (s : State) (asid : BitVec 16) : Bool := !(s.ctxs.any fun c => c.asid == asid) && !(s.tlb.any fun t => t.asid == asid)

/-- Whether a root RCB is what R443 states: well formed, alone on its path, with the context's own PTROOT and ASID. -/
def State.rootRcbOk (s : State) (asid : BitVec 16) (root : Nat) (rcb : DWord) : Bool :=
  match s.rcbPath asid 16 rcb.toNat with
  | some [e] => recField e.2 8 8 == root && recField e.2 16 2 == asid.toNat
  | _ => false

/-- The queue of a new context can be made (R329, R331, R395). -/
def State.ctxQueueOk (s : State) (asid : BitVec 16) (p : CtxPlan) : Bool := match p.queue with
  | none => false
  | some (q, ring, lg, prio, ctr) =>
    s.qbase != 0 && decide (q < 1024) && !s.qEnabled q && decide (6 ≤ lg) && decide (lg ≤ 16) && decide (prio ≤ 7) && ring.toNat % 4096 == 0 &&
    canonicalRange ring.toNat (64 * 2 ^ lg) && s.qctrOk asid ctr && ((pagesOf ring.toNat (ring.toNat + 64 * 2 ^ lg)).all fun va => (s.walkLeaf asid va).any ringLeaf)

/-- A leaf that a context may have at its creation (R320): of a linked set, of a bound image, the root RCB's, or the queue's; no private
page is mapped. -/
def ctxLeafOk (p : CtxPlan) (rcb : DWord) (va : Nat) (l : Leaf) (shared : Bool) : Bool :=
  let holds (a : DWord) (n : Nat) : Bool := overlap va l.bytes a.toNat n
  shared || partLeaf p.images va l ||
  (l.bytes == 4096 && unpinned l && !eQs l.entry && !ePeer l.entry && (holds rcb 256 || p.queue.any fun q => holds q.2.1 (64 * 2 ^ q.2.2.1) || holds q.2.2.2.2 16))

/-- Whether a new context is what its creation states (R320, R443): every SHARED non-leaf belongs to a set linked at its base (R307). -/
def State.ctxMade (s : State) (asid : BitVec 16) (root : Nat) (rcb : DWord) (p : CtxPlan) : Bool :=
  let sets := p.sets.filterMap fun e => (s.treg.sets.find? fun k => k.id == e.1).map fun k => (k, e.2.toNat)
  let spans (va : Nat) : Bool := sets.any fun e => decide (e.2 ≤ va) && decide (va < e.2 + e.1.span * e.1.tables.length)
  sets.length == p.sets.length && (sets.all fun e => e.2 % e.1.span == 0 && s.linked root e.1 e.2) &&
  ((s.allLeaves asid).all fun e => !e.2.2 || spans e.1) && s.rootRcbOk asid root rcb && s.ctxQueueOk asid p && s.partsMapped asid p.images

/-- CONTEXT_CREATE (R320): an ASID of the free list, a zeroed root table, and by `p`, in 8-byte stores, the page tables with the
links of shared sets (R307); the bytes of the root RCB are values of Tregrim's choice (R443). -/
def execContextCreate (asid : BitVec 16) (root : Nat) (rcb : DWord) (p : CtxPlan) (s : State) : Host.Outcome State Fault Refusal :=
  let s := p.register.foldl State.registerSet s
  .next (if !s.asidFree asid || root % 65536 != 0 || !s.inDram root || !s.inDram (root + 65535) || !s.dramReady root || p.rcbBytes.length != 256 then s
    else
      let t := s.zeroRange root 65536
      let t : State := { t with ctxs := t.ctxs ++ [{ asid := asid, ptroot := root, rootRcb := rcb }] }
      match t.planned asid p.tables (ctxLeafOk p rcb) with
      | none => s
      | some t =>
        let t := p.images.foldl (fun t e => t.putVa asid (e.2.2.length / 4096 + 2) e.2.1 e.2.2) (t.putVa asid 2 rcb.toNat p.rcbBytes)
        if t.ctxMade asid root rcb p then
          (match p.queue with
            | some (q, ring, lg, prio, ctr) => t.openQueue q ring asid lg prio rcb ctr
            | none => t)
        else s)

end Sys2Proof.Machine
end

