-- ==== Sys2Proof/Machine/Dispatch.lean ====
section
/-! DEFINITION. Which meaning each instruction and event has: one arm per constructor, each one direct call. -/

namespace Sys2Proof.Machine

def exec (i : Instr) (s : State) : Host.Outcome State Fault Refusal :=
  match i with
  | .nop => Sys2Proof.Machine.execNop s
  | .mode w => Sys2Proof.Machine.execMode w s
  | .guard g => Sys2Proof.Machine.execGuard g s
  | .bra o => Sys2Proof.Machine.execBra o s
  | .brx d a b => Sys2Proof.Machine.execBrx d a b s
  | .call o => Sys2Proof.Machine.execCall o s
  | .ret => Sys2Proof.Machine.execRet s
  | .join o => Sys2Proof.Machine.execJoin o s
  | .exit => Sys2Proof.Machine.execExit s
  | .yield => Sys2Proof.Machine.execYield s
  | .bkpt id => Sys2Proof.Machine.execBkpt id s
  | .trap c => Sys2Proof.Machine.execTrap c s
  | .add d a b => Sys2Proof.Machine.execAdd d a b s
  | .sub d a b => Sys2Proof.Machine.execSub d a b s
  | .mul d a b => Sys2Proof.Machine.execMul d a b s
  | .mulh d a b => Sys2Proof.Machine.execMulh d a b s
  | .mac d a b => Sys2Proof.Machine.execMac d a b s
  | .min d a b => Sys2Proof.Machine.execMin d a b s
  | .max d a b => Sys2Proof.Machine.execMax d a b s
  | .abs d a => Sys2Proof.Machine.execAbs d a s
  | .neg d a => Sys2Proof.Machine.execNeg d a s
  | .cmp c n p a b => Sys2Proof.Machine.execCmp c n p a b s
  | .dot4 d a b => Sys2Proof.Machine.execDot4 d a b s
  | .addx d a b => Sys2Proof.Machine.execAddx d a b s
  | .sel n d a b => Sys2Proof.Machine.execSel n d a b s
  | .div d a b => Sys2Proof.Machine.execDiv d a b s
  | .rcp d a => Sys2Proof.Machine.execRcp d a s
  | .rsq d a => Sys2Proof.Machine.execRsq d a s
  | .sqrt d a => Sys2Proof.Machine.execSqrt d a s
  | .exp2 d a => Sys2Proof.Machine.execExp2 d a s
  | .log2 d a => Sys2Proof.Machine.execLog2 d a s
  | .sin d a => Sys2Proof.Machine.execSin d a s
  | .cos d a => Sys2Proof.Machine.execCos d a s
  | .rint d a => Sys2Proof.Machine.execRint d a s
  | .classify d a => Sys2Proof.Machine.execClassify d a s
  | .scale d a b => Sys2Proof.Machine.execScale d a b s
  | .and d a b => Sys2Proof.Machine.execAnd d a b s
  | .or d a b => Sys2Proof.Machine.execOr d a b s
  | .xor d a b => Sys2Proof.Machine.execXor d a b s
  | .not d a => Sys2Proof.Machine.execNot d a s
  | .shl d a b => Sys2Proof.Machine.execShl d a b s
  | .shr d a b => Sys2Proof.Machine.execShr d a b s
  | .rot d a b => Sys2Proof.Machine.execRot d a b s
  | .bfx d a b => Sys2Proof.Machine.execBfx d a b s
  | .bfi d a b => Sys2Proof.Machine.execBfi d a b s
  | .popc d a => Sys2Proof.Machine.execPopc d a s
  | .clz d a => Sys2Proof.Machine.execClz d a s
  | .brev d a => Sys2Proof.Machine.execBrev d a s
  | .perm d a b => Sys2Proof.Machine.execPerm d a b s
  | .hash d a b => Sys2Proof.Machine.execHash d a b s
  | .cvt d a r h t => Sys2Proof.Machine.execCvt d a r h t s
  | .shflPick d a b => Sys2Proof.Machine.execShflPick d a b s
  | .shflLow d a b => Sys2Proof.Machine.execShflLow d a b s
  | .shflHigh d a b => Sys2Proof.Machine.execShflHigh d a b s
  | .shflFlip d a b => Sys2Proof.Machine.execShflFlip d a b s
  | .voteAny p n q => Sys2Proof.Machine.execVoteAny p n q s
  | .voteAll p n q => Sys2Proof.Machine.execVoteAll p n q s
  | .voteBallot d n q => Sys2Proof.Machine.execVoteBallot d n q s
  | .matchLanes d a l p => Sys2Proof.Machine.execMatchLanes d a l p s
  | .redux d a o => Sys2Proof.Machine.execRedux d a o s
  | .scan d a e o => Sys2Proof.Machine.execScan d a e o s
  | .elect p => Sys2Proof.Machine.execElect p s
  | .kget d a f => Sys2Proof.Machine.execKget d a f s
  | .sreg d sel => Sys2Proof.Machine.execSreg d sel s
  | .kadd d a b => Sys2Proof.Machine.execKadd d a b s
  | .ksub d a b => Sys2Proof.Machine.execKsub d a b s
  | .kmul d a b => Sys2Proof.Machine.execKmul d a b s
  | .kand d a b => Sys2Proof.Machine.execKand d a b s
  | .kor d a b => Sys2Proof.Machine.execKor d a b s
  | .kxor d a b => Sys2Proof.Machine.execKxor d a b s
  | .kshl d a b => Sys2Proof.Machine.execKshl d a b s
  | .kshr d a b => Sys2Proof.Machine.execKshr d a b s
  | .kmov d a => Sys2Proof.Machine.execKmov d a s
  | .kcmp c p a b => Sys2Proof.Machine.execKcmp c p a b s
  | .ksel d a b => Sys2Proof.Machine.execKsel d a b s
  | .kld d a b => Sys2Proof.Machine.execKld d a b s
  | .ld8 d a b => Sys2Proof.Machine.execLd8 d a b s
  | .ld16 d a b => Sys2Proof.Machine.execLd16 d a b s
  | .ld d a b => Sys2Proof.Machine.execLd d a b s
  | .ldq d a b => Sys2Proof.Machine.execLdq d a b s
  | .st8 d a b => Sys2Proof.Machine.execSt8 d a b s
  | .st16 d a b => Sys2Proof.Machine.execSt16 d a b s
  | .st d a b => Sys2Proof.Machine.execSt d a b s
  | .stq d a b => Sys2Proof.Machine.execStq d a b s
  | .ldnc d a b => Sys2Proof.Machine.execLdnc d a b s
  | .lda d a b => Sys2Proof.Machine.execLda d a b s
  | .stl d a b => Sys2Proof.Machine.execStl d a b s
  | .lds d a z => Sys2Proof.Machine.execLds d a z s
  | .sts d a z => Sys2Proof.Machine.execSts d a z s
  | .fence t im sr gl rel acq => Sys2Proof.Machine.execFence t im sr gl rel acq s
  | .ifence => Sys2Proof.Machine.execIfence s
  | .pref l a b => Sys2Proof.Machine.execPref l a b s
  | .atom d a o => Sys2Proof.Machine.execAtom d a o s
  | .red d a o => Sys2Proof.Machine.execRed d a o s
  | .atoms d a o => Sys2Proof.Machine.execAtoms d a o s
  | .mcas d a p => Sys2Proof.Machine.execMcas d a p s
  | .filldone => Sys2Proof.Machine.execFilldone s
  | .fillfail c => Sys2Proof.Machine.execFillfail c s
  | .cadd d a b => Sys2Proof.Machine.execCadd d a b s
  | .cwait d a b => Sys2Proof.Machine.execCwait d a b s
  | .bar c n => Sys2Proof.Machine.execBar c n s
  | .gbar n => Sys2Proof.Machine.execGbar n s
  | .cpy a => Sys2Proof.Machine.execCpy a s
  | .cpyY a b => Sys2Proof.Machine.execCpyY a b s
  | .getx a => Sys2Proof.Machine.execGetx a s
  | .putx a => Sys2Proof.Machine.execPutx a s
  | .rwr d a b => Sys2Proof.Machine.execRwr d a b s
  | .fetchw a => Sys2Proof.Machine.execFetchw a s
  | .racq t p n => Sys2Proof.Machine.execRacq t p n s
  | .rrel n => Sys2Proof.Machine.execRrel n s
  | .tacq t p n => Sys2Proof.Machine.execTacq t p n s
  | .trel n => Sys2Proof.Machine.execTrel n s
  | .sysc d a b => Sys2Proof.Machine.execSysc d a b s
  | .mma c f t a b => Sys2Proof.Machine.execMma c f t a b s
  | .mmas c f t a b => Sys2Proof.Machine.execMmas c f t a b s
  | .mcommit m => Sys2Proof.Machine.execMcommit m s
  | .mdiscard m => Sys2Proof.Machine.execMdiscard m s
  | .tld c t a b => Sys2Proof.Machine.execTld c t a b s
  | .tst c t a b => Sys2Proof.Machine.execTst c t a b s
  | .tzero m => Sys2Proof.Machine.execTzero m s
  | .tcvt f o d src b => Sys2Proof.Machine.execTcvt f o d src b s
  | .tmov d a r t g => Sys2Proof.Machine.execTmov d a r t g s
  | .tfill t a c => Sys2Proof.Machine.execTfill t a c s
  | .tldS c t a => Sys2Proof.Machine.execTldS c t a s
  | .tstS c t a => Sys2Proof.Machine.execTstS c t a s
  | .tex d a b => Sys2Proof.Machine.execTex d a b s
  | .texn d a b => Sys2Proof.Machine.execTexn d a b s
  | .texq d a b => Sys2Proof.Machine.execTexq d a b s
  | .trace q a b => Sys2Proof.Machine.execTrace q a b s
  | .trres d q => Sys2Proof.Machine.execTrres d q s
  | .prim a => Sys2Proof.Machine.execPrim a s
  | .attr d w interp n => Sys2Proof.Machine.execAttr d w interp n s
  | .expf t a n => Sys2Proof.Machine.execExpf t a n s
  | .kill => Sys2Proof.Machine.execKill s
  | .csrr d c => Sys2Proof.Machine.execCsrr d c s
  | .csrw d c => Sys2Proof.Machine.execCsrw d c s
  | .rett => Sys2Proof.Machine.execRett s
  | .tlbi a b => Sys2Proof.Machine.execTlbi a b s
  | .vget d a b => Sys2Proof.Machine.execVget d a b s
  | .vset d a b => Sys2Proof.Machine.execVset d a b s
  | .park => Sys2Proof.Machine.execPark s
  | .wake d a => Sys2Proof.Machine.execWake d a s
  | .upcall svc => Sys2Proof.Machine.execUpcall svc s
  | .psvSpawn rd r1 r2 => Sys2Proof.Machine.execPsvSpawn rd r1 r2 s
  | .psvCwait rd r1 r2 => Sys2Proof.Machine.execPsvCwait rd r1 r2 s
  | .latchChainForceOff w => Sys2Proof.Machine.execLatchChainForceOff w s
  | .loadDataReturn op lane => Sys2Proof.Machine.execLoadDataReturn op lane s
  | .storeRegistration op lane => Sys2Proof.Machine.execStoreRegistration op lane s
  | .homeRequestService op lane => Sys2Proof.Machine.execHomeRequestService op lane s
  | .redPartialUpdate op lane => Sys2Proof.Machine.execRedPartialUpdate op lane s
  | .mcasLaneEvent op lane => Sys2Proof.Machine.execMcasLaneEvent op lane s
  | .generatorLaunch leader stock => Sys2Proof.Machine.execGeneratorLaunch leader stock s
  | .fillWaiterRetry op lane => Sys2Proof.Machine.execFillWaiterRetry op lane s
  | .pressureReclaim die => Sys2Proof.Machine.execPressureReclaim die s
  | .pageWalk asid va acc => Sys2Proof.Machine.execPageWalk asid va acc s
  | .translationMissResolve asid va plan => Sys2Proof.Machine.execTranslationMissResolve asid va plan s
  | .copyOnWrite asid va page plan => Sys2Proof.Machine.execCopyOnWrite asid va page plan s
  | .watchWake w e => Sys2Proof.Machine.execWatchWake w e s
  | .watchPoll w e => Sys2Proof.Machine.execWatchPoll w e s
  | .barTimeout lid wg grid n => Sys2Proof.Machine.execBarTimeout lid wg grid n s
  | .copyEngineCopy job => Sys2Proof.Machine.execCopyEngineCopy job s
  | .copyCompletion job => Sys2Proof.Machine.execCopyCompletion job s
  | .transferSourceRead x foreign reply => Sys2Proof.Machine.execTransferSourceRead x foreign reply s
  | .transferLanding x dev foreign reply => Sys2Proof.Machine.execTransferLanding x dev foreign reply s
  | .transferConfirm x => Sys2Proof.Machine.execTransferConfirm x s
  | .peerTimeout x lane => Sys2Proof.Machine.execPeerTimeout x lane s
  | .peerPageAccess op lane reply => Sys2Proof.Machine.execPeerPageAccess op lane reply s
  | .rwrLanding x => Sys2Proof.Machine.execRwrLanding x s
  | .fetchwReply lid wg => Sys2Proof.Machine.execFetchwReply lid wg s
  | .syscReply op lane => Sys2Proof.Machine.execSyscReply op lane s
  | .syscResubmit op lane => Sys2Proof.Machine.execSyscResubmit op lane s
  | .upcallReply w => Sys2Proof.Machine.execUpcallReply w s
  | .textureResult op => Sys2Proof.Machine.execTextureResult op s
  | .rayTraversalEnd w slot lane => Sys2Proof.Machine.execRayTraversalEnd w slot lane s
  | .mmaCompletion op => Sys2Proof.Machine.execMmaCompletion op s
  | .tileMoveCompletion op => Sys2Proof.Machine.execTileMoveCompletion op s
  | .tilePortCompletion op => Sys2Proof.Machine.execTilePortCompletion op s
  | .acquisitionGrant core => Sys2Proof.Machine.execAcquisitionGrant core s
  | .shadowGrant core => Sys2Proof.Machine.execShadowGrant core s
  | .primitiveCommit lid => Sys2Proof.Machine.execPrimitiveCommit lid s
  | .binArenaReplay lid => Sys2Proof.Machine.execBinArenaReplay lid s
  | .fragmentWarpLaunch lid binx biny => Sys2Proof.Machine.execFragmentWarpLaunch lid binx biny s
  | .fragmentRetire lid px py => Sys2Proof.Machine.execFragmentRetire lid px py s
  | .tailWake q => Sys2Proof.Machine.execTailWake q s
  | .launchPacket q => Sys2Proof.Machine.execLaunchPacket q s
  | .twoStageLaunch q => Sys2Proof.Machine.execTwoStageLaunch q s
  | .prologueRepeat q => Sys2Proof.Machine.execPrologueRepeat q s
  | .prologueGroupLimit fe => Sys2Proof.Machine.execPrologueGroupLimit fe s
  | .signal q => Sys2Proof.Machine.execSignal q s
  | .wait q => Sys2Proof.Machine.execWait q s
  | .waitMet q => Sys2Proof.Machine.execWaitMet q s
  | .writesignalStore q => Sys2Proof.Machine.execWritesignalStore q s
  | .writesignalSignal q => Sys2Proof.Machine.execWritesignalSignal q s
  | .quantumExpiry fe => Sys2Proof.Machine.execQuantumExpiry fe s
  | .frontEndWatchdog fe => Sys2Proof.Machine.execFrontEndWatchdog fe s
  | .launchCompletion lid => Sys2Proof.Machine.execLaunchCompletion lid s
  | .place lid => Sys2Proof.Machine.execPlace lid s
  | .placeReply cluster => Sys2Proof.Machine.execPlaceReply cluster s
  | .hawthornTakeover => Sys2Proof.Machine.execHawthornTakeover s
  | .preemptionRequest lid wg => Sys2Proof.Machine.execPreemptionRequest lid wg s
  | .preemptStopped lid wg => Sys2Proof.Machine.execPreemptStopped lid wg s
  | .drainBoundExpiry lid wg => Sys2Proof.Machine.execDrainBoundExpiry lid wg s
  | .workgroupSave lid wg area => Sys2Proof.Machine.execWorkgroupSave lid wg area s
  | .workgroupFlush lid wg => Sys2Proof.Machine.execWorkgroupFlush lid wg s
  | .savedImageReplyWrite lid wg wi lane => Sys2Proof.Machine.execSavedImageReplyWrite lid wg wi lane s
  | .workgroupRestore lid wg => Sys2Proof.Machine.execWorkgroupRestore lid wg s
  | .debugRelease w => Sys2Proof.Machine.execDebugRelease w s
  | .contextCreate asid root rcb plan => Sys2Proof.Machine.execContextCreate asid root rcb plan s
  | .memalloc c base plan => Sys2Proof.Machine.execMemalloc c base plan s
  | .memfree c plan => Sys2Proof.Machine.execMemfree c plan s
  | .memprotect c plan => Sys2Proof.Machine.execMemprotect c plan s
  | .qsdeclare c stock plan => Sys2Proof.Machine.execQsdeclare c stock plan s
  | .qsrearm c => Sys2Proof.Machine.execQsrearm c s
  | .qswithdraw c => Sys2Proof.Machine.execQswithdraw c s
  | .qsevict c => Sys2Proof.Machine.execQsevict c s
  | .link c code const kd plan => Sys2Proof.Machine.execLink c code const kd plan s
  | .sharemap c plan => Sys2Proof.Machine.execSharemap c plan s
  | .qcreate c q ring plan => Sys2Proof.Machine.execQcreate c q ring plan s
  | .qdestroy c => Sys2Proof.Machine.execQdestroy c s
  | .socket c r => Sys2Proof.Machine.execSocket c r s
  | .bind c r => Sys2Proof.Machine.execBind c r s
  | .connect c r => Sys2Proof.Machine.execConnect c r s
  | .listen c r => Sys2Proof.Machine.execListen c r s
  | .accept c r => Sys2Proof.Machine.execAccept c r s
  | .send c r => Sys2Proof.Machine.execSend c r s
  | .recv c r base bytes plan => Sys2Proof.Machine.execRecv c r base bytes plan s
  | .returnRange c plan => Sys2Proof.Machine.execReturnRange c plan s
  | .close c => Sys2Proof.Machine.execClose c s
  | .sendLendEnd lend => Sys2Proof.Machine.execSendLendEnd lend s
  | .deviceRegisterWrite host addr v => Sys2Proof.Machine.execDeviceRegisterWrite host addr v s
  | .pwrcapWrite v => Sys2Proof.Machine.execPwrcapWrite v s
  | .updctlGo v verdict => Sys2Proof.Machine.execUpdctlGo v verdict s
  | .updateReset => Sys2Proof.Machine.execUpdateReset s
  | .captureCtlWrite m v => Sys2Proof.Machine.execCaptureCtlWrite m v s
  | .captureSample src inst v => Sys2Proof.Machine.execCaptureSample src inst v s
  | .windowEntryWrite w j v => Sys2Proof.Machine.execWindowEntryWrite w j v s
  | .hostApertureRead off len => Sys2Proof.Machine.execHostApertureRead off len s
  | .hostApertureWrite off bytes => Sys2Proof.Machine.execHostApertureWrite off bytes s
  | .islandClockControl island mhz => Sys2Proof.Machine.execIslandClockControl island mhz s
  | .reset => Sys2Proof.Machine.execReset s
  | .dramWipeDone die => Sys2Proof.Machine.execDramWipeDone die s
  | .getVersion => Sys2Proof.Machine.execGetVersion s
  | .getCapabilities => Sys2Proof.Machine.execGetCapabilities s
  | .negotiateAlgorithms mldsa shake => Sys2Proof.Machine.execNegotiateAlgorithms mldsa shake s
  | .getDigests => Sys2Proof.Machine.execGetDigests s
  | .getCertificate off len => Sys2Proof.Machine.execGetCertificate off len s
  | .challenge nonce => Sys2Proof.Machine.execChallenge nonce s
  | .getMeasurements idx => Sys2Proof.Machine.execGetMeasurements idx s
  | .lifeCycleChange owner vendor target => Sys2Proof.Machine.execLifeCycleChange owner vendor target s
  | .i3cSensorRead sensor => Sys2Proof.Machine.execI3cSensorRead sensor s
  | .illegalOp w => Sys2Proof.Machine.execIllegalOp w s
  | .queueRestart q => Sys2Proof.Machine.execQueueRestart q s
  | .linkTraining port up => Sys2Proof.Machine.execLinkTraining port up s
  | .serviceCoreInterrupt core cause => Sys2Proof.Machine.execServiceCoreInterrupt core cause s

end Sys2Proof.Machine
end

