-- ==== Sys2Proof/Machine/Turns.lean ====
section
/-! DEFINITION. The turns of the agents: a partition (R345), a front end's prologue (R338), a service core (R348), or an
event; the choice of a turn where the agenda gives none; and the placing of one instruction for the next step. -/

namespace Sys2Proof.Machine

/-- What an issue leaves, a held group aside. -/
def keepHeld (s : State) (uid e : Nat) (r : Host.Outcome State Fault Refusal) : Host.Outcome State Fault Refusal :=
  match r with
  | .next t => if t.stalled then .next (s.heldBack uid e t.grp) else .next t
  | r => r

/-- Issues the group of the fragment or handler in front (R81–R88, R357). -/
def State.runGroup (s : State) : Host.Outcome State Fault Refusal :=
  match s.pendingTrap with
  | some t => .next (s.parkedGroup.clearWait.takeTrap t)
  | none =>
    match s.nextGroup with
    | (t, .ok g) =>
      let t := t.openGroup g
      if t.grp.over then .next { t with warp := { t.warp with frag := { t.warp.frag with pc := t.nextPc, repcnt := 0, group := none } } }
      else exec t.grp.instr t
    | (t, .bad g) => exec (.illegalOp g.word) (t.openGroup g)
    | (t, .park w) => .next (t.parkGroup w t.fragMask)
    | (t, .trap i) => .next (t.takeTrap i)
    | (t, .held) => .next t.hold
    | (t, .gone) => .next t

/-- Whether the group of the fragment in entry `e` would be held at issue. -/
def State.wouldHold (s : State) (w : Warp) (e : Nat) : Bool :=
  match ((s.onWarp w.uid fun _ => w).select w.uid e true).runGroup with
  | .next t => t.stalled
  | _ => false

/-- Whether a warp that a hold forced off its slot still lacks what its group was held for (R91): the group is tried on
open latches. -/
def State.offSlot (s : State) (w : Warp) : Bool :=
  match w.heldGrp with
  | none => false
  | some h =>
    let t := s.select w.uid h.entry true
    h.off && (match exec h.grp.instr { t with
        grp := h.grp, warp := { t.warp with latValid := 0xF, frag := { t.warp.frag with lrpc := some h.grp.pc } } } with
      | .next t => t.stalled
      | _ => false)

/-- Whether a warp has a ready fragment: one whose group would not be held (R345). -/
def State.ready (s : State) (w : Warp) : Bool :=
  match w.parkMarked.pick s.wouldHold 128 with
  | (w', some e) => !s.wouldHold w' e
  | (_, none) => true

/-- The warps from which a partition takes its group (R91, R345). The only warp that may issue is not tried first. -/
def State.offers (s : State) (p : Nat) : List Warp :=
  match (s.candidates p).filter fun w => !s.offSlot w with
  | [] => []
  | [w] => [w]
  | ws => ws.filter fun w => w.chainOpen || s.ready w

/-- A partition's turn (R345). -/
def State.runPartition (s : State) (p : Nat) : Host.Outcome State Fault Refusal :=
  let ws := s.offers p
  let s := s.ages p ws
  match s.choose p ws with
  | none => .next (if (s.candidates p).isEmpty then s else s.hold)
  | some w =>
    match w.parkMarked.pick s.wouldHold 128 with
    | (w', none) => .next (s.onWarp w.uid fun _ => w')
    | (w', some e) => keepHeld s w.uid e ((s.onWarp w.uid fun _ => w').select w.uid e true).runGroup

/-- Counts a prologue's group once it has issued, and ends the prologue beyond its limit (R338). -/
def countIssued (fe : Nat) (r : Host.Outcome State Fault Refusal) : Host.Outcome State Fault Refusal :=
  match r with
  | .next t => .next (if t.stalled then t else (t.countPrologue fe).groupLimit fe)
  | r => r

/-- A front end's turn: its prologue issues one group (R338). -/
def State.runPrologue (s : State) (fe : Nat) : Host.Outcome State Fault Refusal :=
  match s.allWarps.find? (fun w => w.kind == .prologue fe && w.canIssue w.fragIx && w.frag.state != .trapped) with
  | none => .next s
  | some w => countIssued fe (keepHeld s w.uid w.fragIx (s.select w.uid w.fragIx false).runGroup)

/-- A service core's turn (R348): a custom-0 word that is no instruction is illegal; any other word is RV64's, of which Rv64.lean
holds the base. A core whose write of a window has not completed goes no further (R426). -/
def State.runSvc (s : State) (c : Nat) : Host.Outcome State Fault Refusal :=
  if !s.svcReady c || s.windowWrites.any fun w => w.svc == some c then .next s
  else match s.svcFetch c with
    | (s, .trap cause) => .next (s.svcTrap c cause)
    | (_, .hole pa) => .fault (.noMemory pa)
    | (s, .wait) => .next s
    | (s, .word w) =>
      if field w 0 7 ≠ 0x0B then (match s.rv64 c w with
        | some t => .next t
        | none => .refused (.rv64Base w))
      else match decodePsv w with
        | some i => exec i { s with svcIx := c }
        | none => .next (s.svcTrap c illegalInstruction)

/-- Runs a turn. Only an event, which no word encodes, stands in the agenda by itself. -/
def State.run (s : State) (t : Turn) : Host.Outcome State Fault Refusal :=
  match t with
  | .part p => s.runPartition p
  | .prologue fe => s.runPrologue fe
  | .svc c => s.runSvc c
  | .event e => if (encode e).isNone then exec e s else .next s

/-! What acts when the agenda is empty: a schedule of the model's own (log entry 2). -/

/-- The next event of one lane of an operation. -/
def Op.laneEvent (o : Op) (l : LaneReq) : List Instr :=
  match l.stage with
  | .request => (match o.kind with
    | .mcas _ _ => [.mcasLaneEvent o.id l.lane]
    | .store _ _ => [.storeRegistration o.id l.lane]
    | .tileStore _ _ _ => [.storeRegistration o.id l.lane]
    | .red _ _ _ => [.redPartialUpdate o.id l.lane]
    | _ => [.homeRequestService o.id l.lane, .loadDataReturn o.id l.lane])
  | .served => (match o.kind with
    | .sysc _ => [.syscReply o.id l.lane]
    | .mcas _ _ => [.storeRegistration o.id l.lane]
    | _ => if o.kind.returns then [.loadDataReturn o.id l.lane] else [])
  | .retry _ => [.fillWaiterRetry o.id l.lane]
  | _ => []

/-- The next events of an operation. -/
def Op.events (o : Op) : List Instr :=
  (o.lanes.flatMap o.laneEvent) ++ (match o.kind with
    | .mma _ _ _ _ _ _ => [.mmaCompletion o.id]
    | .tileLoad _ _ _ => [.tileMoveCompletion o.id]
    | .tileStore _ _ _ => [.tileMoveCompletion o.id]
    | .port _ _ => [.tilePortCompletion o.id]
    | .tex _ _ _ => [.textureResult o.id]
    | .acquireRegs _ _ _ => [.acquisitionGrant o.core]
    | .acquireTiles _ _ _ => [.acquisitionGrant o.core]
    | .shadowReq _ => [.shadowGrant o.core]
    | _ => [])

/-- The events that a warp waits for. -/
def Warp.events (w : Warp) : List Instr :=
  (w.live.filterMap fun e => match e.2.wait with
    | .cwait _ _ _ _ => some (.watchWake w.uid e.1)
    | _ => none) ++
  (match w.solo with
    | some h => (match h.wait with
      | .cwait _ _ _ _ => [.watchWake w.uid 64]
      | .upcall _ => [.upcallReply w.uid]
      | _ => [])
    | none => []) ++
  (if w.heldGrp.any (fun h => !h.off) then [Instr.latchChainForceOff w.uid] else []) ++
  (w.rays.filter fun r => r.2.running && r.2.parked.isNone).map fun r => .rayTraversalEnd w.uid (r.1 / 64) (r.1 % 64)

/-- The events that a workgroup waits for. -/
def Wg.events (g : Wg) : List Instr :=
  let fetched : List Instr := if g.fetch.isEmpty then [] else [.fetchwReply g.launch g.idx]
  match g.pre with
  | .stopping => fetched ++ [.preemptStopped g.launch g.idx]
  | .flushing => fetched ++ [.workgroupFlush g.launch g.idx]
  | .saved => fetched ++ [.workgroupRestore g.launch g.idx]
  | _ => fetched

/-- The events of the copy engines, the port and the fills. -/
def State.moverEvents (s : State) : List Instr :=
  let copies : List Instr := s.copyJobs.flatMap fun j => [.copyEngineCopy j.id, .copyCompletion j.id]
  let writes : List Instr := s.rwrs.map fun r => .rwrLanding r.id
  let fills : List Instr := s.fills.map fun f => .generatorLaunch f.leader []
  let transfers : List Instr := s.xfers.flatMap fun x =>
    [.transferSourceRead x.id none .here, .transferLanding x.id s.selfId none .here, .transferConfirm x.id]
  copies ++ writes ++ fills ++ transfers

/-- The events of a render pass. -/
def Pass.events (p : Pass) : List Instr :=
  let bins : List (Nat × Nat) := (List.range p.binsHigh).flatMap fun y => (List.range p.binsWide).map fun x => (x, y)
  let launched : List Instr := bins.map fun e => .fragmentWarpLaunch p.launch e.1 e.2
  let retired : List Instr := p.frags.map fun f => .fragmentRetire p.launch f.px f.py
  .primitiveCommit p.launch :: .binArenaReplay p.launch :: (launched ++ retired)

/-- The events of a queue. -/
def queueEvents (q : Nat) : List Instr :=
  [.tailWake q, .launchPacket q, .twoStageLaunch q, .prologueRepeat q, .signal q, .wait q, .waitMet q, .writesignalStore q, .writesignalSignal q]

/-- The events of the queues, launches and permits. -/
def State.launchEvents (s : State) : List Instr :=
  let launches : List Instr := (s.launches.filter fun l => !l.complete).flatMap fun l => [.place l.lid, .launchCompletion l.lid]
  let permits : List Instr := s.permits.map fun e => .placeReply e.1
  let queues : List Instr := if s.qbase = 0 then [] else ((List.range 1024).filter s.qEnabled).flatMap queueEvents
  launches ++ permits ++ queues

/-- The events that other agents have to do now, of those that need no choice of Tregrim's. -/
def State.events (s : State) : List Instr :=
  s.ops.flatMap Op.events ++ s.allWarps.flatMap Warp.events ++ s.moverEvents ++ s.wgs.flatMap Wg.events ++
  s.passes.flatMap Pass.events ++ s.launchEvents

/-- The partitions that have a warp to issue. -/
def State.issuable (s : State) : List Nat :=
  (s.allWarps.filter fun w => w.placedOn && s.runnable w).map Warp.partition

/-- The turn taken with an empty agenda: a partition, a prologue, or an event, each kind in rotation; after a held group an
event goes first. -/
def State.autoTurn (s : State) (held : Bool) : Option Turn :=
  let at_ {α : Type} (l : List α) : Option α := l[(s.ticks / 2) % Max.max l.length 1]?
  let group : Option Turn := match at_ s.issuable with
    | some p => some (.part p)
    | none => (s.fes.find? fun e => e.2.prologue.isSome).map fun e => .prologue e.1
  if held then (match at_ s.events with
    | some e => some (.event e)
    | none => group)
  else match group with
    | some t => some t
    | none => (at_ s.events).map .event

/-- The agent that the agenda names acts, or, where it names none, one that has something to do. -/
def State.act (s : State) (held : Bool) : List Turn → Host.Outcome State Fault Refusal
  | t :: rest => State.run { s with agenda := rest } t
  | [] => match s.autoTurn held with
    | some t => s.run t
    | none => .next s

/-- The fragments and handlers whose wait a fault has ended, of warps that run and have no open chain. -/
def State.refusedWaits (s : State) : List (Nat × Nat) :=
  let ended (w : Wait) : Bool := match w with
    | .refused _ _ _ _ => true
    | _ => false
  (s.allWarps.filter fun w => s.runnable w && !w.chainOpen).flatMap fun w =>
    (w.live.filter fun e => e.2.state == .ready && ended e.2.wait).map (fun e => (w.uid, e.1)) ++
    (w.solo.toList.filter fun h => !h.debugStopped && ended h.wait).map fun h => (w.uid, h.entry)

/-- They take their traps before anything else happens (R440). -/
def State.takeRefused (s : State) : State :=
  s.refusedWaits.foldl (fun s e =>
    let t := s.select e.1 e.2 false
    match t.pendingTrap with
    | some i => t.parkedGroup.clearWait.takeTrap i
    | none => s) s

/-- What follows by itself between two steps: what was refused takes its faults (R440), window writes complete (R426), and what waited
for an engine goes on (R185). -/
def State.settled (s : State) : State := s.refuseXfers.takeRefused.settleWindows.drainHost.drainPosts.writeHeadcs

/-- One step: time passes, and an agent acts. -/
def State.turn (s : State) : Host.Outcome State Fault Refusal := s.tick.settled.act s.stalled s.agenda

/-! One instruction placed for the next step (log entry 11). -/

/-- The launch that the placed warp belongs to: it runs at address 0 of context 1. -/
def loadedLaunch (geometry : Bool) : Launch where
  lid := 1
  asid := 1
  kd := { entry := 0, const := 0, regs := 192, tiles := 8, nparam := 0, flags := 0, sram := 1024, wgx := 64, wgy := 1, wgz := 1, warps := 1 }
  kdAddr := 0
  path := [RegionItems.empty]
  gx := 1
  gy := 1
  gz := 1
  gang := false
  persist := false
  geometry := geometry
  initial := 1
  params := []
  done := 0
  queue := none
  hint := 0
  unplaced := []
  claimed := []
  exited := []
  join := 0
  generator := none
  deadline := none
  arrivals := []
  arrivalTry := 0
  rest := false
  handoff := none
  killed := false
  complete := false
  clusters := [0]

/-- The kind of warp in which a word issues (R240). -/
def loadedKind (w : Word) : WarpKind :=
  match field w 24 8 with
  | 0xC5 => .geometry
  | 0xC6 => if bit w 7 then .geometry else .fragment
  | 0xC7 => .fragment
  | 0xC8 => .fragment
  | _ => .compute

/-- A handler at its entry, for the words of solo mode (R258). -/
def loadedHandler : Solo where
  entry := 0
  h := []
  hp := 0
  pc := 0
  wmode := 0x000007
  trapPc := 0
  trapCode := 0x12
  trapMask := BitVec.allOnes 64
  sfaddr := 0
  repcnt := 0
  slrpc := 0
  swmode := 0x000007
  sstatus := 0
  fragMask := BitVec.allOnes 64
  sfcause := 0
  wait := .none
  debugStopped := false
  aux := 0

/-- The placed warp, at its start (R43); a word of opcodes 0xD0 to 0xD8 runs in solo mode. -/
def loadedWarp (uid : Nat) (w : Word) : Warp :=
  let l := loadedLaunch false
  let x := startWarp l l.kd (loadedKind w) 0 uid 0 0 0 0 0
  if field w 28 4 = 0xD then { x with solo := some loadedHandler, frag := { x.frag with state := .trapped } } else x

/-- A machine that issues a word of a warp in its next step: context 1 maps address 0 to the word. -/
def State.loadWarpWord (s : State) (w : Word) : State :=
  let s : State := { s with mem := [(0x10000, 0x01), (0x10001, 0x00), (0x10002, 0x02), (0x20000, 0x01), (0x20001, 0x10), (0x20002, 0x02), (0x21000, 0x01), (0x21001, 0x20), (0x21002, 0x02), (0x22000, 0x3D), (0x22002, 0x03)].foldl (fun m c => wr m c.1 c.2) s.mem }
  let s := s.memWrite 0x30000 4 w.toNat
  let uid := s.nextUid + 1
  { s with
    warp := loadedWarp uid w, warps := [], nextUid := uid, ops := [], tlb := [], regions := [], copies := [], comm := []
    ctxs := [{ asid := 1, ptroot := 0x10000, rootRcb := 0 }]
    launches := [loadedLaunch (loadedKind w == .geometry)]
    wgs := [startWg 1 0 0 0 1024 s.clock [uid]]
    agenda := [.part 0], lastIssue := [], passed := [], stalled := false }

/-- A machine whose service core 0 runs a word in its next step, in M-mode. -/
def State.loadSvcWord (s : State) (w : Word) : State :=
  let s := (s.memWrite 0x30000 4 w.toNat).onSvc 0 fun v => { v with pc := 0x30000, priv := 3, waiting := false }
  { s with readyf := setBit s.readyf 8 true, comm := [], ctxs := [], windowWrites := [], agenda := [.svc 0] }

/-- The machine that runs a word in its next step. -/
def State.loadWord (s : State) (w : Word) : State := if (decodePsv w).isSome then s.loadSvcWord w else s.loadWarpWord w

end Sys2Proof.Machine
end

