-- ==== Sys2Proof/Machine/Step.lean ====
section
/-! DEFINITION. The step of the machine, and the instruction that the host places for it. -/

namespace Sys2Proof.Machine

/-- One step: the agent that the agenda names acts, or one that has something to do (Turns.lean). -/
def step (s : State) : Host.Outcome State Fault Refusal := s.turn

/-- The state `s` with the instruction whose bits are `w` stored where the next step fetches, and loaded to run: a warp of
a launch in a context, or service core 0 (log entry 11). -/
def State.withFetchWord (s : State) (nbits w : Nat) : State := s.loadWord (BitVec.ofNat 32 (if nbits < 32 then w % 2 ^ nbits else w))

end Sys2Proof.Machine
end

