-- ==== Sys2Proof/Safety.lean ====
section
/-! DEFINITION. What counts as a safe run, in the terms that the statements use: the canonical form of memory, the
conditions on which a group issues, and what a group that ends leaves. -/

namespace Sys2Proof.Machine

/-! The form of memory. -/

/-- The canonical form of memory: addresses strictly rising, and no byte listed that an unlisted address reads as. -/
abbrev Memory.wf (m : List Host.Cell) : Prop := SMap.wf (β := Byte) 0 m = true

/-! The groups of a warp. -/

/-- The end of a group that falls through with the state `u` (R85, R89): its workgroup counts it, the latch chain of the
fragment moves on, and so does the program counter of the fragment or of the handler. -/
def State.fellThrough (u : State) (i : Ins) : State :=
  State.advance (if u.grp.solo then u.countGroup else { u.countGroup with warp := u.warp.chain i u.grp.pc })

/-- The end of a group that continues at `pc`. -/
def State.wentTo (u : State) (i : Ins) (pc : DWord) : State :=
  State.jumpTo (if u.grp.solo then u.countGroup else { u.countGroup with warp := u.warp.chain i u.grp.pc }) pc

/-- A group of instruction fields `i` issues: the checks of R88 pass, and no register or predicate that it names is still being
written (R44). -/
abbrev State.Issues (s : State) (i : Ins) : Prop := s.gate i = none ∧ s.scoreboard i = false

/-- The fragment `f` as a group that falls through leaves it (R85): the next repetition or the next group, its latch-restart
address aside. -/
def State.fragDone (s : State) (f : Frag) : Prop :=
  f = { s.warp.frag with
    pc := if s.repeats then s.grp.pc else s.grp.pc + BitVec.ofNat 64 s.grp.bytes
    repcnt := if s.repeats then s.grp.repIx + 1 else 0
    pmask := 0
    group := if s.repeats then some s.grp else Option.none
    lrpc := f.lrpc }

/-- The state `t` that a fragment's group of `i` leaves which writes registers and falls through: the registers
of its warp may differ, its fragment moves on, the latches of its operands change state (R89), the workgroup counts the
group, and nothing else of the machine differs. -/
structure State.GroupDone (s t : State) (i : Ins) : Prop where
  state : t = { s with warp := t.warp, wgs := s.countGroup.wgs }
  warp : t.warp = { s.warp with
    v := t.warp.v, k := t.warp.k, p := t.warp.p, lat := t.warp.lat
    latValid := s.warp.latValid ||| i.latWrite
    latUnread := (s.warp.latUnread &&& ~~~i.latRead) ||| i.latWrite
    chainLen := t.warp.chainLen, frag := t.warp.frag }
  frag : s.fragDone t.warp.frag

/-- The k registers and the predicates stand as they stood. -/
def State.SameKP (s t : State) : Prop := t.warp.k = s.warp.k ∧ t.warp.p = s.warp.p

/-- The v registers and the latches stand as they stood. -/
def State.SameVL (s t : State) : Prop := t.warp.v = s.warp.v ∧ t.warp.lat = s.warp.lat

/-- No register, tile, byte of memory or of SRAM and no operation differs. -/
def State.Quiet (s t : State) : Prop :=
  s.SameVL t ∧ s.SameKP t ∧ t.warp.tiles = s.warp.tiles ∧ t.mem = s.mem ∧ t.sram = s.sram ∧ t.ops = s.ops

/-- What a write of `x` to the destination `d` in the lanes `m` leaves in the v registers (R15, R17, R78): the element of each
lane of `m`, of the pair where the width is 64 bits, and every other element as it stood. -/
def State.WritesV (s t : State) (d : Code) (wide : Bool) (m : Mask) (x : Nat → Nat) : Prop :=
  ∀ r l, l < 64 → rd t.warp.v (r * 64 + l) =
    if d.toNat ≤ 0xBF ∧ m.getLsbD l then
      (if wide ∧ r = d.toNat + 1 then BitVec.ofNat 32 (x l / 2 ^ 32) else if r = d.toNat then BitVec.ofNat 32 (x l) else rd s.warp.v (r * 64 + l))
    else rd s.warp.v (r * 64 + l)

/-- What it leaves in the latches (R78): the lanes of `m` of the latch it names hold `x`, its other lanes 0, and every
other latch stands as it stood. -/
def State.WritesLat (s t : State) (d : Code) (m : Mask) (x : Nat → Nat) : Prop :=
  ∀ q l, q < 4 → l < 64 → rd t.warp.lat (q * 64 + l) =
    if d.toNat = 0xF0 + q then (if m.getLsbD l then BitVec.ofNat 64 (x l) else 0) else rd s.warp.lat (q * 64 + l)

/-- A vector instruction runs: `exec` answers a next state in which the active lanes of `d` hold `x`, and every other
register and all the rest stand as `GroupDone` says. A destination of 0xF5 discards. -/
def State.WritesVector (s : State) (i : Instr) (ins : Ins) (d : Code) (wide : Bool) (x : Nat → Nat) : Prop :=
  ∃ t, exec i s = .next t ∧ s.GroupDone t ins ∧ s.SameKP t ∧ s.WritesV t d wide s.active x ∧ s.WritesLat t d s.active x

/-- What a lane exchange leaves in the latches (R152): the active lanes of the latch it names, and nothing else. -/
def State.WritesLatLanes (s t : State) (d : Code) (m : Mask) (x : Nat → Nat) : Prop :=
  ∀ q l, q < 4 → l < 64 → rd t.warp.lat (q * 64 + l) =
    if d.toNat = 0xF0 + q ∧ m.getLsbD l then BitVec.ofNat 64 (x l) else rd s.warp.lat (q * 64 + l)

/-- A lane exchange runs: as `WritesVector`, the latch elements of inactive lanes kept. -/
def State.WritesExchange (s : State) (i : Instr) (ins : Ins) (d : Code) (wide : Bool) (x : Nat → Nat) : Prop :=
  ∃ t, exec i s = .next t ∧ s.GroupDone t ins ∧ s.SameKP t ∧ s.WritesV t d wide s.active x ∧ s.WritesLatLanes t d s.active x

/-- What a write of the bits `x` to predicate `p` in the lanes `m` leaves: every other lane and predicate as it stood; p7
is written by nothing (R20). -/
def State.WritesP (s t : State) (p : Nat) (m : Mask) (x : Nat → Bool) : Prop :=
  (∀ l, l < 64 → p ≠ 7 → (t.warp.pred p).getLsbD l = if m.getLsbD l then x l else (s.warp.pred p).getLsbD l) ∧
  ∀ n, n ≠ p ∨ p = 7 → t.warp.pred n = s.warp.pred n

/-- An instruction that writes a predicate runs, and writes nothing else. -/
def State.WritesPredicate (s : State) (i : Instr) (ins : Ins) (p : Nat) (m : Mask) (x : Nat → Bool) : Prop :=
  ∃ t, exec i s = .next t ∧ s.GroupDone t ins ∧ s.SameVL t ∧ t.warp.k = s.warp.k ∧ s.WritesP t p m x

/-- What a write to a k destination leaves in the k registers (R19): 0xF5 discards. -/
def State.WritesK (s t : State) (d : Code) (x : DWord) : Prop :=
  ∀ n, rd t.warp.k n = if d.toNat = 0xC0 + n ∧ d.toNat ≤ 0xEF then x else rd s.warp.k n

/-- A uniform instruction runs in a fragment, and writes nothing but a k register. -/
def State.WritesUniform (s : State) (i : Instr) (ins : Ins) (d : Code) (x : DWord) : Prop :=
  ∃ t, exec i s = .next t ∧ s.GroupDone t ins ∧ s.SameVL t ∧ t.warp.p = s.warp.p ∧ s.WritesK t d x

/-- A uniform instruction runs in a handler `h` (R258): it writes an h or a k register, the handler's program
counter passes the group, the workgroup counts it, and nothing else of the machine differs. -/
def State.WritesHandler (s : State) (i : Instr) (h : Solo) (d : Code) (x : DWord) : Prop :=
  ∃ t g, exec i s = .next t ∧ t = { s with warp := { s.warp with k := t.warp.k, solo := some g }, wgs := s.countGroup.wgs } ∧
    g = { h with pc := s.grp.pc + BitVec.ofNat 64 s.grp.bytes, h := g.h } ∧ s.WritesK t d x ∧
    ∀ n, rd g.h n = if d.toNat = n ∧ d.toNat ≤ 0x0F then x else rd h.h n

/-- The group of a global access ends (R169, R170): the faults of its lanes are posted; an operation holds the requests of the others, and
where one of them parks the fragment waits for the operation. `f` is what the group does besides. A fill edge or a fault that kills the
warp aside, which `uid` excludes, a full miss table, which holds the group (R302), and bytes at which a parked group keeps its place (R286). -/
def State.AccessGroup (s : State) (i : Instr) (ins : Ins) (kind : OpKind) (data : SMap Word) (u : State) (lanes : List LaneReq)
    (faults : List FaultLane) (f : State → State) : Prop :=
  u.warp.uid = s.warp.uid → u.missFull (missedPages lanes) = false → u.laneHeld kind lanes = false →
  (State.postLanes 64 faults u).warp.uid = s.warp.uid →
  let p := State.postLanes 64 faults u
  let r := f (if lanes.isEmpty then p else p.newOp kind lanes data)
  r.warp.uid = s.warp.uid →
  exec i s = .next (if lanes.any (·.stage.parked) then (r.fellThrough ins).waitFor (.lanes p.nextOp) 0 else r.fellThrough ins)

/-- What a group that stores does besides: its cluster sees at once what its lanes store (R171, R276). -/
def State.seenNear (u : State) (r : State) : State := r.nearLanes u.nextOp fun _ => true

/-- A global load of `n` bytes a lane whose addresses are aligned runs (R165, R169): its active lanes open their requests. -/
def State.LoadOpens (s : State) (i : Instr) (op n : Nat) (fl : LoadKind) (d a b : Code) : Prop :=
  ∀ u lanes faults, s.Issues (s.loadIns op n d a b) → misaligned s.active n (s.memAddr a b) = 0 → s.slotsFull = false → s.acquiring = false →
    s.openLanes s.active (.load fl n s.et.signed s.wide d) (s.memAddr a b) = (u, lanes, faults) →
    s.AccessGroup i (s.loadIns op n d a b) (.load fl n s.et.signed s.wide d) [] u lanes faults id

/-- A global store of `n` bytes a lane runs (R165, R169, R172): its lanes open their requests with the data captured, which their cluster sees at once. -/
def State.StoreOpens (s : State) (i : Instr) (op n : Nat) (d a b : Code) : Prop :=
  ∀ u lanes faults, s.Issues (s.storeIns op n d a b) → misaligned s.doers n (s.memAddr a b) = 0 → s.slotsFull = false →
    s.storeMeetsLoad s.doers n (s.memAddr a b) = false → s.openLanes s.doers (.store n false) (s.memAddr a b) = (u, lanes, faults) →
    s.AccessGroup i (s.storeIns op n d a b) (.store n false) (s.storeData s.doers d n) u lanes faults u.seenNear

/-! Numbers. -/

/-- The number that a finite value is. -/
def Fv.rat : Fv → ℚ
  | .fin s m e => (if s then -1 else 1) * m * 2 ^ e
  | _ => 0

/-- The number that a ratio of the model is. -/
def Ratio.rat (r : Ratio) : ℚ := r.num / r.den * 2 ^ r.e

/-- `u` is a unit in the last place of a format at the exact result `y` (R137). -/
def Fmt.Ulp (f : Fmt) (y u : ℝ) : Prop := ∃ x : ℤ, (2 : ℝ) ^ x ≤ |y| ∧ |y| < 2 ^ (x + 1) ∧ u = 2 ^ Max.max (x - (f.mb : ℤ)) (1 - (f.bias : ℤ) - (f.mb : ℤ))

/-- The code `r` errs from the exact result `y` by what `near` says of the error and the unit in the last place; it is an infinity only where the
max finite errs so or lies below the exact result, and never a NaN. -/
def Fmt.Errs (f : Fmt) (near : ℝ → ℝ → Prop) (r : Nat) (y : ℝ) : Prop := ∀ u, f.Ulp y u →
  f.value r ≠ .nan ∧ (∀ s m e, f.value r = .fin s m e → near |((Fv.fin s m e).rat : ℝ) - y| u) ∧
  ∀ s, f.value r = .inf s → (f.maxParts.1 : ℝ) * 2 ^ f.maxParts.2 < |y| ∨ near ((f.maxParts.1 : ℝ) * 2 ^ f.maxParts.2 - |y|) u

/-! Events. -/

/-- No warp differs. -/
def State.SameWarps (s t : State) : Prop := t.warp = s.warp ∧ t.warps = s.warps

/-- The registers of a warp stand as they stood. -/
def Warp.SameRegs (w u : Warp) : Prop := u.v = w.v ∧ u.k = w.k ∧ u.p = w.p ∧ u.tiles = w.tiles

/-- What a lane's result leaves in the registers of its warp (R165): the `count` registers from `d` on hold `y` in that lane, 32 bits a
register, and every other element stands; 0xF5 discards. -/
def Warp.LaneWritten (w u : Warp) (d : Code) (lane count y : Nat) : Prop :=
  ∀ r j, j < 64 → rd u.v (r * 64 + j) =
    if d.toNat ≤ 0xBF ∧ j = lane ∧ d.toNat ≤ r ∧ r < d.toNat + count then BitVec.ofNat 32 (y / 2 ^ (32 * (r - d.toNat))) else rd w.v (r * 64 + j)

/-- The addresses of an operation's entries translate one after the other to the places `ps`, none a peer's, and leave the machine `u` (R188). -/
def State.Reaches (s : State) (o : Op) : List DWord → List Nat → State → Prop
  | [], [], u => u = s
  | va :: vas, p :: ps, u => ∃ t l, s.translateIn o.asid va .rmw o.sys (s.ownOf o.uid).1 = (t, .ok p l) ∧ placePeer p = false ∧ State.Reaches t o vas ps u
  | _, _, _ => False

/-- A store of `bs` at `pa` (R276): every byte of it that lies in memory is there, and every other byte of the machine `m` stands. -/
def State.StoresBytes (m t : State) (pa : Nat) (bs : List Byte) : Prop :=
  (∀ i, i < bs.length → m.inDram (pa + i) = true → t.memByte (pa + i) = bs.getD i 0) ∧
  ∀ a, a < pa ∨ pa + bs.length ≤ a → t.memByte a = m.memByte a

/-- The front end of queue `q` serves it now, and `bs` is its head packet, read into the machine `u` (R332, R333). -/
def State.Serves (s : State) (q : Nat) (u : State) (bs : List Byte) : Prop :=
  s.feReady (s.feOf q) = true ∧ s.serving (s.feOf q) = some q ∧
  (match (s.fe (s.feOf q)).cur with
    | some c => if c = q then s else (if s.qRunnable c then s.qCommit c (s.qNow c) else s).onFe (s.feOf q) fun e => { e with cur := some q, since := s.clock }
    | none => s.onFe (s.feOf q) fun e => { e with cur := some q, since := s.clock }).headPacket q = (u, .ok bs)

/-- A warp as R43 starts it, in a slot of `core`: all lanes in one fragment at the entry, WMODE 0x000007, every register zero but the parameters in k0
upwards. -/
def Warp.Starts (w : Warp) (l : Launch) (kd : KernelDesc) (core : Nat) (mask : Mask) : Prop :=
  w.launch = l.lid ∧ w.core = core ∧ w.frag = { Frag.free with mask := mask, pc := kd.entry } ∧ w.frags = [] ∧ w.v = [] ∧ w.p = [] ∧ w.tiles = [] ∧
  w.quota = kd.regs / 16 - 1 ∧ w.tquota = kd.tiles ∧ w.latValid = 0 ∧ w.solo = none ∧ w.resident = true

/-- Tregrim runs the call `x` of service `nr` now (R257): it has no result yet, and no earlier call of its context with its token is open. -/
def State.Called (s : State) (c nr : Nat) (x : Call) : Prop :=
  s.calls.find? (fun x => x.id == c) = some x ∧ x.nr = nr ∧ x.result = none ∧
  ∀ y ∈ s.calls.takeWhile (fun y => y.id != c), ¬(y.asid = x.asid ∧ y.token = x.token ∧ y.result = none)

/-- A lane of an elementwise instruction (R127): `f` of the sub-elements of A, B and D, packed. -/
def State.laneOf (s : State) (d a b : Code) (f : Nat → Nat → Nat → Nat) (l : Nat) : Nat :=
  s.et.pack fun i => f (s.et.elem (s.src a s.wide l) i) (s.et.elem (s.src b s.wide l) i) (s.et.elem (s.src d s.wide l) i)

end Sys2Proof.Machine
end

