-- ==== Sys2Proof/Certificates/Slice0/Obligations.lean ====
section
/-! DEFINITION. The statements for the provers, each a proposition about the model. `Issues`, `GroupDone`, `WritesVector`
and the other words they share stand in Safety.lean. -/

open Sys2Proof Sys2Proof.Machine

/-! Vector arithmetic (R126–R141). -/

/-- R131: what ADD, SUB, MUL, MAC, MIN, MAX, ABS and NEG write, sub-element by sub-element, integer and floating point.
R128, R47: an integer result wraps modulo 2^w with SAT clear, and with SAT set is the value of the type nearest to the
exact result. -/
def Obligations.SumsAndExtremes : Prop :=
  (∀ (s : State) (d a b : Code),
  (s.Issues (s.alu3 0x10 etAny d a b) → s.WritesVector (.add d a b) (s.alu3 0x10 etAny d a b) d s.wide
    (s.laneOf d a b (s.arith (fun _ x y _ => x + y) (fun _ x y _ => Fv.add s.md.rnd x y)))) ∧
  (s.Issues (s.alu3 0x11 etAny d a b) → s.WritesVector (.sub d a b) (s.alu3 0x11 etAny d a b) d s.wide
    (s.laneOf d a b (s.arith (fun _ x y _ => x - y) (fun _ x y _ => Fv.add s.md.rnd x y.neg)))) ∧
  (s.Issues (s.alu3 0x12 etAny d a b) → s.WritesVector (.mul d a b) (s.alu3 0x12 etAny d a b) d s.wide
    (s.laneOf d a b (s.arith (fun _ x y _ => x * y) (fun _ x y _ => Fv.mul x y)))) ∧
  (s.Issues { s.alu3 0x14 etAny d a b with d := dstRdF d s.wide } →
    s.WritesVector (.mac d a b) { s.alu3 0x14 etAny d a b with d := dstRdF d s.wide } d s.wide
    (s.laneOf d a b (s.arith (fun _ x y z => x * y + z) (fun _ x y z => Fv.sum s.md.rnd [Fv.mul x y, z])))) ∧
  (s.Issues (s.alu3 0x15 etAny d a b) → s.WritesVector (.min d a b) (s.alu3 0x15 etAny d a b) d s.wide
    (s.laneOf d a b (s.arith (fun _ x y _ => Min.min x y) (fun _ x y _ => Fv.min x y)))) ∧
  (s.Issues (s.alu3 0x16 etAny d a b) → s.WritesVector (.max d a b) (s.alu3 0x16 etAny d a b) d s.wide
    (s.laneOf d a b (s.arith (fun _ x y _ => Max.max x y) (fun _ x y _ => Fv.max x y)))) ∧
  (s.Issues (s.alu2 0x17 etAny d a) → s.WritesVector (.abs d a) (s.alu2 0x17 etAny d a) d s.wide
    (s.laneOf d a 0xF5 (s.arith (fun _ x _ _ => Int.ofNat x.natAbs) (fun _ x _ _ => x.abs)))) ∧
  (s.Issues (s.alu2 0x18 etAny d a) → s.WritesVector (.neg d a) (s.alu2 0x18 etAny d a) d s.wide
    (s.laneOf d a 0xF5 (s.arith (fun _ x _ _ => -x) (fun _ x _ _ => x.neg))))) ∧
  (∀ (w : Nat) (sg : Bool) (x : Int), 0 < w →
  satInt w sg false x < 2 ^ w ∧ (satInt w sg false x : Int) % (2 ^ w : Int) = x % (2 ^ w : Int) ∧
  (let lo : Int := if sg then -(2 ^ (w - 1) : Int) else 0
   let hi : Int := if sg then 2 ^ (w - 1) - 1 else 2 ^ w - 1
   intValue w sg (satInt w sg true x) = if x < lo then lo else if hi < x then hi else x))

/-- R131–R136: what MULH, DOT4, SEL and DIV write in the active lanes. DOT4 writes 32 bits whatever the
element type.
R132: the quotient of DIV truncates toward zero; division by zero gives all ones with SAT clear, and with SAT set the
type's maximum, or for a signed type and a negative dividend its minimum; the signed minimum divided by −1 gives the minimum
with SAT clear and the maximum with SAT set. -/
def Obligations.ProductsQuotientsSelects : Prop :=
  (∀ (s : State) (n : BitVec 3) (d a b : Code),
  (s.Issues (s.alu3 0x13 etInt d a b) → s.WritesVector (.mulh d a b) (s.alu3 0x13 etInt d a b) d s.wide
    (s.laneOf d a b fun x y _ =>
      (Int.fdiv (intValue s.et.w s.et.signed x * intValue s.et.w s.et.signed y) ((2 ^ s.et.w : Nat) : Int) % ((2 ^ s.et.w : Nat) : Int)).toNat)) ∧
  (s.Issues { s.alu3 0x1A etPacked d a b with d := dstRdF d false } →
    s.WritesVector (.dot4 d a b) { s.alu3 0x1A etPacked d a b with d := dstRdF d false } d false
      fun l => s.dot4 (s.src a false l) (s.src b false l) (s.src d false l)) ∧
  (s.Issues { s.alu3 (0x20 + n.toNat) etAny d a b with preds := [n.toNat], ill := n == 7 } →
    s.WritesVector (.sel n d a b) { s.alu3 (0x20 + n.toNat) etAny d a b with preds := [n.toNat], ill := n == 7 } d s.wide
      fun l => if (s.warp.pred n.toNat).getLsbD l then s.src a s.wide l else s.src b s.wide l) ∧
  (s.Issues (s.alu3 0x30 etAny d a b) → s.WritesVector (.div d a b) (s.alu3 0x30 etAny d a b) d s.wide
    (s.laneOf d a b fun x y _ => match s.et.kind with
      | .int sg => s.divInt sg (intValue s.et.w sg x) (intValue s.et.w sg y)
      | .fp f => f.div s.md (f.input s.md x) (f.input s.md y)))) ∧
  (∀ (s : State) (sg : Bool) (x y : Int),
  (y ≠ 0 → s.divInt sg x y = satInt s.et.w sg s.md.sat (Int.tdiv x y)) ∧
  (s.md.sat = false → s.divInt sg x 0 = 2 ^ s.et.w - 1) ∧
  (s.md.sat = true → intValue s.et.w sg (s.divInt sg x 0) =
    if sg then (if x < 0 then -(2 ^ (s.et.w - 1) : Int) else 2 ^ (s.et.w - 1) - 1) else 2 ^ s.et.w - 1) ∧
  (s.divInt true (-(2 ^ (s.et.w - 1) : Int)) (-1) = if s.md.sat then 2 ^ (s.et.w - 1) - 1 else 2 ^ (s.et.w - 1)))

/-- R133: ADDX writes the low w bits of a + b + p6 and sets p6 to the carry, in each active lane; the other lanes of p6 and the other predicates
keep their bits. -/
def Obligations.AddWithCarry : Prop := ∀ (s : State) (d a b : Code),
  s.Issues { s.alu3 0x1B etWord d a b with preds := [6] } →
  ∃ t, exec (.addx d a b) s = .next t ∧ s.GroupDone t { s.alu3 0x1B etWord d a b with preds := [6] } ∧ t.warp.k = s.warp.k ∧
    (let sum (l : Nat) : Nat := s.src a s.wide l + s.src b s.wide l + (if (s.warp.pred 6).getLsbD l then 1 else 0)
     s.WritesV t d s.wide s.active (fun l => sum l % 2 ^ s.et.w) ∧ s.WritesLat t d s.active (fun l => sum l % 2 ^ s.et.w) ∧
     (∀ l, l < 64 → (t.warp.pred 6).getLsbD l =
       if s.active.getLsbD l then decide (2 ^ s.et.w ≤ sum l) else (s.warp.pred 6).getLsbD l) ∧
     ∀ n, n ≠ 6 → t.warp.pred n = s.warp.pred n)

/-- R137–R141: what RCP, RSQ, SQRT, EXP2, LOG2, SIN, COS, RINT, CLASS and SCALE write.
R137: in FP32 and FP64 RCP and RSQ err by less than 1 ulp, and in every format SQRT is correctly rounded; the packed types round the FP32
result. A result of EXP2, LOG2, SIN or COS lies within 2 ulp of the value that the model's fixed-point enclosure gives it (the model's choice, log entry 5).
R138: the special values, and the exact cases, each rounded to the format.
R129: an instruction raises ILLEGAL_OPERAND when WMODE.ETYPE is not one of its types, where no earlier check of R88 fails:
MULH on floating point, ADDX on packed types, DOT4 on unpacked ones, a special function on integers. -/
def Obligations.SpecialFunctions : Prop :=
  (∀ (s : State) (d a b : Code),
  (s.Issues (s.alu2 0x31 etFloat d a) → s.WritesVector (.rcp d a) (s.alu2 0x31 etFloat d a) d s.wide
    (s.laneOf d a 0xF5 fun x _ _ => s.specialElem .rcp x)) ∧
  (s.Issues (s.alu2 0x32 etFloat d a) → s.WritesVector (.rsq d a) (s.alu2 0x32 etFloat d a) d s.wide
    (s.laneOf d a 0xF5 fun x _ _ => s.specialElem .rsq x)) ∧
  (s.Issues (s.alu2 0x34 etFloat d a) → s.WritesVector (.exp2 d a) (s.alu2 0x34 etFloat d a) d s.wide
    (s.laneOf d a 0xF5 fun x _ _ => s.specialElem .exp2 x)) ∧
  (s.Issues (s.alu2 0x35 etFloat d a) → s.WritesVector (.log2 d a) (s.alu2 0x35 etFloat d a) d s.wide
    (s.laneOf d a 0xF5 fun x _ _ => s.specialElem .log2 x)) ∧
  (s.Issues (s.alu2 0x36 etFloat d a) → s.WritesVector (.sin d a) (s.alu2 0x36 etFloat d a) d s.wide
    (s.laneOf d a 0xF5 fun x _ _ => s.specialElem .sin x)) ∧
  (s.Issues (s.alu2 0x37 etFloat d a) → s.WritesVector (.cos d a) (s.alu2 0x37 etFloat d a) d s.wide
    (s.laneOf d a 0xF5 fun x _ _ => s.specialElem .cos x)) ∧
  ∀ f, s.et.kind = .fp f →
    (s.Issues (s.alu2 0x33 etFloat d a) → s.WritesVector (.sqrt d a) (s.alu2 0x33 etFloat d a) d s.wide
      (s.laneOf d a 0xF5 fun x _ _ => f.sqrt s.md (f.input s.md x))) ∧
    (s.Issues (s.alu2 0x38 etFloat d a) → s.WritesVector (.rint d a) (s.alu2 0x38 etFloat d a) d s.wide
      (s.laneOf d a 0xF5 fun x _ _ => f.rint s.md (f.input s.md x))) ∧
    (s.Issues (s.alu2 0x39 etFloat d a) → s.WritesVector (.classify d a) (s.alu2 0x39 etFloat d a) d s.wide
      (s.laneOf d a 0xF5 fun x _ _ => f.classOf s.md x)) ∧
    (s.Issues (s.alu3 0x3A etFloat d a b) → s.WritesVector (.scale d a b) (s.alu3 0x3A etFloat d a b) d s.wide
      (s.laneOf d a b fun x y _ => f.scale s.md (f.input s.md x) (intValue s.et.w true y)))) ∧
  (∀ (s : State) (f : Fmt) (x : Nat), s.et.kind = .fp f →
  let v := f.input s.md x
  let one : Fv := .fin false 1 0
  let zero (n : Bool) : Fv := .fin n 0 0
  let gives (fn : SpecialFn) (w : Fv) : Prop := s.specialElem fn x =
    if f.narrow then f.round s.md (fp32.value (fp32.round Mode.home w)) else flushResult f s.md (f.round Mode.home w)
  let root (w : Fv) : Prop := f.sqrt s.md v = f.round s.md w
  (v = .nan → (∀ fn, gives fn .nan) ∧ root .nan) ∧
  (∀ n, v = .inf n → gives .rcp (zero n) ∧ gives .rsq (if n then .nan else zero false) ∧ root (if n then .nan else .inf false) ∧
    gives .exp2 (if n then zero false else .inf false) ∧ gives .log2 (if n then .nan else .inf false) ∧ gives .sin .nan ∧ gives .cos .nan) ∧
  (∀ n e, v = .fin n 0 e → gives .rcp (.inf n) ∧ gives .rsq (.inf n) ∧ root (zero n) ∧ gives .exp2 one ∧ gives .log2 (.inf true) ∧
    gives .sin (zero n) ∧ gives .cos one) ∧
  (∀ m e, v = .fin true m e → m ≠ 0 → gives .rsq .nan ∧ root .nan ∧ gives .log2 .nan) ∧
  (∀ (n : Bool) (j : Nat) (e : ℤ), v = .fin n (2 ^ j) e → gives .rcp (.fin n 1 (-(e + j))) ∧
    (n = false → gives .log2 (Fv.ofDy (Dy.ofInt (e + j))) ∧ ∀ k, e + j = 2 * k → gives .rsq (.fin false 1 (-k)))) ∧
  (∀ n m e, v = .fin n m e → ∀ k : ℤ, v.rat = k → gives .exp2 (.fin false 1 k)) ∧
  (∀ m e, v = .fin false m e → ∀ (r : Nat) (k : ℤ), v.rat = ((r : ℚ) * 2 ^ k) ^ 2 → root (.fin false r k)) ∧
  (∀ m e, v = .fin false m e → m ≠ 0 → ∀ u, f.Ulp (Real.sqrt v.rat) u → ∃ n g, f.value (f.sqrt s.md v) = .fin false n g ∧
    let err : ℝ := ((Fv.fin false n g).rat : ℝ) - Real.sqrt v.rat
    if s.md.rnd = 1 ∨ s.md.rnd = 3 then -u < err ∧ err ≤ 0 else if s.md.rnd = 2 then 0 ≤ err ∧ err < u else |err| ≤ u / 2) ∧
  (f.narrow = true → ∀ fn, s.specialElem fn x = f.round s.md (fp32.value (specialWide fn fp32 (fp32.round Mode.home v) v))) ∧
  (f.narrow = false → ∀ n m e, v = .fin n m e → m ≠ 0 →
    let within (fn : SpecialFn) (neg : Bool) (r : Ratio) : Prop := ∃ c, s.specialElem fn x = flushResult f s.md c ∧
      f.Errs (fun err u => err ≤ 2 * u) c (if neg then -r.rat else r.rat)
    (∃ c, s.specialElem .rcp x = flushResult f s.md c ∧ f.Errs (· < ·) c (1 / v.rat)) ∧
    (n = false → ∃ c, s.specialElem .rsq x = flushResult f s.md c ∧ f.Errs (· < ·) c (1 / Real.sqrt v.rat)) ∧
    ((∀ k : ℤ, v.rat ≠ k) → within .exp2 false (exp2Value v.dy)) ∧
    (n = false → (∀ j, m ≠ 2 ^ j) → within .log2 (log2Value m e).1 (log2Value m e).2) ∧
    within .sin (trigValue false n m e).1 (trigValue false n m e).2 ∧ within .cos (trigValue true n m e).1 (trigValue true n m e).2)) ∧
  (∀ (s : State) (d a b : Code) (i : Ins),
  (i = s.alu3 0x13 etInt d a b ∧ 8 ≤ wmEtype s.wm ∨ i = { s.alu3 0x1B etWord d a b with preds := [6] } ∧ 4 ≤ wmEtype s.wm ∨
    i = { s.alu3 0x1A etPacked d a b with d := dstRdF d false } ∧ (wmEtype s.wm ≤ 3 ∨ wmEtype s.wm = 8 ∨ wmEtype s.wm = 9) ∨
    (∃ op, 0x31 ≤ op ∧ op ≤ 0x39 ∧ i = s.alu2 op etFloat d a) ∧ wmEtype s.wm ≤ 7) →
  s.illegal i = false →
  s.gate i = some { code := 0x02, mask := s.active, addr := 0, cause := 0 })

/-- R135: CMP writes predicate `p` in every active lane: with ANY clear the AND of the sub-element comparisons, with ANY set the OR. For integers COND
is EQ, NE, LT, LE, GT, GE, ORD (true) and UNO (false).
R142, R144: what AND, OR, XOR, NOT, SHL, SHR, ROT, POPC, CLZ and BREV write in each sub-element of w bits; NOT and the counts
do not read B. -/
def Obligations.ComparesAndBitwise : Prop :=
  (∀ (s : State) (c : BitVec 4) (n : BitVec 1) (p : BitVec 3) (a b : Code),
  s.Issues { op := 0x19, d := .imm, a := srcF a s.wide, b := srcF b s.wide, preds := [p.toNat], bad := decide (8 ≤ c.toNat) } →
  let x (l i : Nat) : Nat := s.et.elem (s.src a s.wide l) i
  let y (l i : Nat) : Nat := s.et.elem (s.src b s.wide l) i
  (s.WritesPredicate (.cmp c n p a b)
      { op := 0x19, d := .imm, a := srcF a s.wide, b := srcF b s.wide, preds := [p.toNat], bad := decide (8 ≤ c.toNat) } p.toNat s.active fun l =>
    if n = 1 then (List.range s.et.n).any (fun i => s.compare c.toNat (x l i) (y l i))
    else (List.range s.et.n).all (fun i => s.compare c.toNat (x l i) (y l i))) ∧
  ∀ sg u v, s.et.kind = .int sg →
    let i := intValue s.et.w sg u
    let j := intValue s.et.w sg v
    s.compare 0 u v = decide (i = j) ∧ s.compare 1 u v = decide (i ≠ j) ∧ s.compare 2 u v = decide (i < j) ∧
    s.compare 3 u v = decide (i ≤ j) ∧ s.compare 4 u v = decide (j < i) ∧ s.compare 5 u v = decide (j ≤ i) ∧
    s.compare 6 u v = true ∧ s.compare 7 u v = false) ∧
  (∀ (s : State) (d a b : Code),
  (s.Issues (s.alu3 0x40 etAny d a b) → s.WritesVector (.and d a b) (s.alu3 0x40 etAny d a b) d s.wide (s.laneOf d a b fun x y _ => x &&& y)) ∧
  (s.Issues (s.alu3 0x41 etAny d a b) → s.WritesVector (.or d a b) (s.alu3 0x41 etAny d a b) d s.wide (s.laneOf d a b fun x y _ => x ||| y)) ∧
  (s.Issues (s.alu3 0x42 etAny d a b) → s.WritesVector (.xor d a b) (s.alu3 0x42 etAny d a b) d s.wide (s.laneOf d a b fun x y _ => x ^^^ y)) ∧
  (s.Issues (s.alu2 0x43 etAny d a) → s.WritesVector (.not d a) (s.alu2 0x43 etAny d a) d s.wide (s.laneOf d a 0xF5 fun x _ _ => 2 ^ s.et.w - 1 - x)) ∧
  (s.Issues (s.alu3 0x44 etAny d a b) → s.WritesVector (.shl d a b) (s.alu3 0x44 etAny d a b) d s.wide (s.laneOf d a b fun x y _ => shlElem s.et.w x y)) ∧
  (s.Issues (s.alu3 0x45 etAny d a b) → s.WritesVector (.shr d a b) (s.alu3 0x45 etAny d a b) d s.wide
    (s.laneOf d a b fun x y _ => shrElem s.et.w s.et.signed x y)) ∧
  (s.Issues (s.alu3 0x46 etAny d a b) → s.WritesVector (.rot d a b) (s.alu3 0x46 etAny d a b) d s.wide (s.laneOf d a b fun x y _ => rotElem s.et.w x y)) ∧
  (s.Issues (s.alu2 0x49 etAny d a) → s.WritesVector (.popc d a) (s.alu2 0x49 etAny d a) d s.wide
    (s.laneOf d a 0xF5 fun x _ _ => ((List.range s.et.w).filter fun i => x.testBit i).length)) ∧
  (s.Issues (s.alu2 0x4A etAny d a) → s.WritesVector (.clz d a) (s.alu2 0x4A etAny d a) d s.wide (s.laneOf d a 0xF5 fun x _ _ => s.et.w - bitLen x)) ∧
  (s.Issues (s.alu2 0x4B etAny d a) → s.WritesVector (.brev d a) (s.alu2 0x4B etAny d a) d s.wide (s.laneOf d a 0xF5 fun x _ _ => brevElem s.et.w x)))

/-! Bit operations and conversions (R142–R148). -/

/-- R142, R144: bit by bit, a left shift brings zeros in and gives 0 from w on; a right shift brings the sign bit in for a signed
type, zeros otherwise; a rotation by s is one by s modulo w; BREV moves bit i to bit w − 1 − i. -/
def Obligations.ShiftsBitByBit : Prop := ∀ (w x n i : Nat), 0 < w → x < 2 ^ w → i < w →
  ((shlElem w x n).testBit i = decide (n ≤ i ∧ x.testBit (i - n))) ∧
  ((shrElem w false x n).testBit i = decide (i + n < w ∧ x.testBit (i + n))) ∧
  ((shrElem w true x n).testBit i = if i + n < w then x.testBit (i + n) else x.testBit (w - 1)) ∧
  ((rotElem w x n).testBit i = x.testBit ((i + w - n % w) % w)) ∧
  brevElem w x < 2 ^ w ∧ ((brevElem w x).testBit i = x.testBit (w - 1 - i))

/-- R143, R145–R148: what BFX, BFI, PERM, HASH and CVT write.
R143: bit by bit, BFX takes bits [o + L − 1 : o] with the field's top bit above them for a signed type, zeros otherwise; BFI
puts the low L bits of `x` there and keeps the rest of `c`. R145: byte j of PERM is the byte that its selector picks from A or the old D, or that
byte's sign. -/
def Obligations.FieldsBytesConversions : Prop :=
  (∀ (s : State) (d a b : Code) (r : BitVec 1) (h : BitVec 2) (t : BitVec 5),
  (s.Issues (s.alu3 0x47 etField d a b) → s.WritesVector (.bfx d a b) (s.alu3 0x47 etField d a b) d s.wide
    (s.laneOf d a b fun x y _ => bfxElem s.et.w s.et.signed x y)) ∧
  (s.Issues { s.alu3 0x48 etField d a b with d := dstRdF d s.wide } →
    s.WritesVector (.bfi d a b) { s.alu3 0x48 etField d a b with d := dstRdF d s.wide } d s.wide
    (s.laneOf d a b fun x y c => bfiElem s.et.w x y c)) ∧
  (s.Issues { op := 0x4C, d := dstRdF d false, a := srcF a false, b := srcF b false } →
    s.WritesVector (.perm d a b) { op := 0x4C, d := dstRdF d false, a := srcF a false, b := srcF b false } d false
      fun l => permWord (s.src a false l) (s.src b false l) (s.src d false l)) ∧
  (s.Issues { op := 0x4D, d := dstF d false, a := srcF a false, b := srcF b false } →
    s.WritesVector (.hash d a b) { op := 0x4D, d := dstF d false, a := srcF a false, b := srcF b false } d false
      fun l => (hashWord (BitVec.ofNat 32 (s.src a false l)) (BitVec.ofNat 32 (s.src b false l))).toNat) ∧
  (let src : CvtType := if r = 1 then .res24 else .elem s.et
   let tgt : CvtType := if t = 15 then .res24 else .elem (etypeOf t.toNat)
   let ins : Ins := { op := 0x4E, d := if src.n < tgt.n then dstRdF d tgt.wide else dstF d tgt.wide, a := srcF a src.wide, b := .imm, bad := t.toNat == 14 || decide (16 ≤ t.toNat) || cvtNone src tgt || cvtPartBad src.n tgt.n h.toNat }
   s.Issues ins → s.WritesVector (.cvt d a r h t) ins d tgt.wide fun l => cvtLane s.md src tgt h.toNat (s.src a src.wide l) (s.src d tgt.wide l))) ∧
  ((∀ (w x y c i : Nat), x < 2 ^ w → c < 2 ^ w → i < w →
  let o := y % 256
  let len := min (y / 256 % 256) (w - o)
  ((bfxElem w false x y).testBit i = decide (i < len ∧ x.testBit (o + i))) ∧
  ((bfxElem w true x y).testBit i = if len = 0 ∨ w ≤ o then false else if i < len then x.testBit (o + i) else x.testBit (o + len - 1)) ∧
  ((bfiElem w x y c).testBit i = if o ≤ i ∧ i < o + len then x.testBit (i - o) else c.testBit i)) ∧
  ∀ (x y z j : Nat), j < 4 →
    let sel := y / 2 ^ (4 * j) % 16
    let byte (v k : Nat) : Nat := v / 2 ^ (8 * k) % 256
    let picked := if sel % 8 ≤ 3 then byte x (sel % 8) else byte z (sel % 8 - 4)
    byte (permWord x y z) j = if 8 ≤ sel then (if 128 ≤ picked then 0xFF else 0) else picked)

/-- R146: HASH writes Hash(a, b) of the 32-bit values of A and B; Hash adds the key times 0x9E3779B9 and then shifts and multiplies modulo 2^32. For a fixed
key, Hash is a bijection on 32-bit values, and Hash(0, 0) = 0. The rule's worked example, which slips in its last product (log entry
30), is not stated. -/
def Obligations.HashIsBijective : Prop :=
  (∀ (s : State) (d a b : Code), s.Issues { op := 0x4D, d := dstF d false, a := srcF a false, b := srcF b false } →
    s.WritesVector (.hash d a b) { op := 0x4D, d := dstF d false, a := srcF a false, b := srcF b false } d false
      fun l => (hashWord (BitVec.ofNat 32 (s.src a false l)) (BitVec.ofNat 32 (s.src b false l))).toNat) ∧
  (∀ c key : Word,
    let h0 := c + key * 0x9E3779B9
    let h1 := h0 ^^^ (h0 >>> 15)
    let h2 := h1 * 0x2C1B3C6D
    let h3 := h2 ^^^ (h2 >>> 12)
    let h4 := h3 * 0x297A2D39
    hashWord c key = h4 ^^^ (h4 >>> 15)) ∧
  hashWord 0 0 = 0 ∧ ∀ key, Function.Bijective fun c => hashWord c key

/-! Lane exchange (R150–R158). -/

/-- R153: SHFL gives each active lane the value of its source lane within the segment, and its own value where the source lies
outside the segment or is inactive; a k destination is refused. R152: a latch destination keeps the elements of the lanes outside the active
set, where R78 says zero: that clause, `WritesExchange`, is the model's choice (log entry 22). -/
def Obligations.ShuffleResults : Prop := ∀ (s : State) (d a b : Code),
  let g (l : Nat) : Nat := 64 / 2 ^ min (s.src b s.wide l / 2 ^ 8 % 8) 5
  let n (l : Nat) : Nat := s.src b s.wide l % 64
  let o (l : Nat) : Nat := l % g l
  let got (l : Nat) (t : Int) : Nat :=
    if 0 ≤ t ∧ t < g l ∧ s.active.getLsbD (l - o l + t.toNat) then s.src a s.wide (l - o l + t.toNat) else s.src a s.wide l
  (s.Issues (s.shflIns 0x50 d a b) → s.WritesExchange (.shflPick d a b) (s.shflIns 0x50 d a b) d s.wide fun l => got l ((n l % g l : Nat) : Int)) ∧
  (s.Issues (s.shflIns 0x51 d a b) → s.WritesExchange (.shflLow d a b) (s.shflIns 0x51 d a b) d s.wide fun l => got l ((o l : Int) - n l)) ∧
  (s.Issues (s.shflIns 0x52 d a b) → s.WritesExchange (.shflHigh d a b) (s.shflIns 0x52 d a b) d s.wide fun l => got l ((o l : Int) + n l)) ∧
  (s.Issues (s.shflIns 0x53 d a b) → s.WritesExchange (.shflFlip d a b) (s.shflIns 0x53 d a b) d s.wide fun l =>
    got l ((o l ^^^ (n l % g l) : Nat) : Int)) ∧
  (let bad : TrapInfo := { code := 0x02, mask := s.active, addr := 0, cause := 0 }
   0xC0 ≤ d.toNat → d.toNat ≤ 0xEF →
    (s.illegal (s.shflIns 0x50 d a b) = false → exec (.shflPick d a b) s = .next (s.takeTrap bad)) ∧ (s.illegal (s.shflIns 0x51 d a b) = false → exec (.shflLow d a b) s = .next (s.takeTrap bad)) ∧
    (s.illegal (s.shflIns 0x52 d a b) = false → exec (.shflHigh d a b) s = .next (s.takeTrap bad)) ∧ (s.illegal (s.shflIns 0x53 d a b) = false → exec (.shflFlip d a b) s = .next (s.takeTrap bad)))

/-- R154, R157: VOTE.ANY and VOTE.ALL write pD in every active lane, 1 where some, respectively every, active lane's source bit is 1;
ELECT writes 1 in the lowest active lane and 0 in the others. R154, R155: VOTE.BALLOT gives every active lane, or a k register once, the mask of the
active lanes whose source bit is 1, and with no active lane writes nothing; MATCH gives each active lane the mask of the active lanes that hold its value, and with LE
set marks the lowest lane of each group.
R156: REDUX gives every active lane, or a k register once, the combination of the active lanes' values in ascending lane order;
SCAN gives each active lane that of the lanes up to it, with EXCL of those below it; an integer sum is exact and clamps or wraps once. With no active lane REDUX into a k register writes
nothing (R152). A latch destination keeps the elements of the lanes outside the active set (R152; R78 says zero): those clauses, `WritesExchange` and
`WritesLatLanes`, are the model's choice (log entry 22). -/
def Obligations.VotesMatchesReductions : Prop :=
  (∀ (s : State) (d a : Code) (n l : BitVec 1) (q p : BitVec 3),
  let bitOf (l : Nat) : Bool := (s.warp.pred q.toNat).getLsbD l != (n == 1)
  let any : Ins := { op := 0x54, d := .imm, a := .imm, b := .resv, preds := [p.toNat, q.toNat] }
  let all : Ins := { op := 0x55, d := .imm, a := .imm, b := .resv, preds := [p.toNat, q.toNat] }
  let elect : Ins := { op := 0x5A, d := .imm, a := .resv, b := .resv, preds := [p.toNat] }
  let ballot : Ins := { op := 0x56, d := dstKF d 2, a := .imm, b := .resv, preds := [q.toNat] }
  let matchIns : Ins := { op := 0x57, d := .opd d 0x15 2 2 false true, a := srcF a s.wide, b := .imm, preds := [p.toNat], ill := l == 0 && p != 0 }
  let votes : Mask := s.active &&& (if n = 1 then ~~~s.warp.pred q.toNat else s.warp.pred q.toNat)
  let equals (i : Nat) : Mask := maskOf fun j => s.active.getLsbD j && s.src a s.wide j == s.src a s.wide i
  (s.Issues any → s.WritesPredicate (.voteAny p n q) any p.toNat s.active fun _ => (lanesOf s.active).any bitOf) ∧
  (s.Issues all → s.WritesPredicate (.voteAll p n q) all p.toNat s.active fun _ => (lanesOf s.active).all bitOf) ∧
  (s.Issues elect → s.WritesPredicate (.elect p) elect p.toNat s.active fun l => (lanesOf s.active).head? == some l) ∧
  (s.Issues ballot → s.active = 0 → exec (.voteBallot d n q) s = .next (s.fellThrough ballot)) ∧
  (s.Issues ballot → ¬(0xC0 ≤ d.toNat ∧ d.toNat ≤ 0xEF) → s.active ≠ 0 → s.WritesExchange (.voteBallot d n q) ballot d true fun _ => votes.toNat) ∧
  (s.Issues ballot → 0xC0 ≤ d.toNat → d.toNat ≤ 0xEF → s.active ≠ 0 → s.WritesUniform (.voteBallot d n q) ballot d votes) ∧
  (s.Issues matchIns → l = 0 → s.WritesExchange (.matchLanes d a l p) matchIns d true fun i => (equals i).toNat) ∧
  (s.Issues matchIns → l = 1 → ∃ t, exec (.matchLanes d a l p) s = .next t ∧ s.GroupDone t matchIns ∧ t.warp.k = s.warp.k ∧
    s.WritesV t d true s.active (fun i => (equals i).toNat) ∧ s.WritesLatLanes t d s.active (fun i => (equals i).toNat) ∧
    s.WritesP t p.toNat s.active fun i => lowest (equals i) == some i)) ∧
  (∀ (s : State) (d a : Code) (e : BitVec 1) (o : BitVec 3),
  let redux : Ins := { op := 0x58, d := dstKF d (if s.wide then 2 else 1), a := srcF a s.wide, b := .imm, bad := decide (6 ≤ o.toNat) }
  let scan : Ins := { op := 0x59, d := dstF d s.wide, a := srcF a s.wide, b := .imm, bad := decide (6 ≤ o.toNat) }
  let all := s.reduce o.toNat a (lanesOf s.active)
  (s.Issues redux → ¬(0xC0 ≤ d.toNat ∧ d.toNat ≤ 0xEF) → s.WritesExchange (.redux d a o) redux d s.wide fun _ => all) ∧
  (s.Issues redux → 0xC0 ≤ d.toNat → d.toNat ≤ 0xEF → s.active ≠ 0 → s.WritesUniform (.redux d a o) redux d (BitVec.ofNat 64 all)) ∧
  (s.Issues scan → s.WritesExchange (.scan d a e o) scan d s.wide fun l =>
    s.reduce o.toNat a ((lanesOf s.active).filter fun j => if e = 1 then decide (j < l) else decide (j ≤ l))) ∧
  (s.Issues redux → s.active = 0 → exec (.redux d a o) s = .next (s.fellThrough redux)) ∧
  ∀ sg xs, s.et.kind = .int sg → s.combine 0 xs = satInt s.et.w sg s.md.sat (xs.map (intValue s.et.w sg)).sum)

/-- R158: KGET writes the value of the lowest active lane where FIRST is 1 or every active lane holds it; where they differ it raises NONUNIFORM with
TRAPMASK the differing lanes; with no active lane it writes nothing.
R160: KCMP writes the comparison to `p` in every lane of the fragment's mask, whatever the guard selects: COND 0–5 signed, 6–9 unsigned. -/
def Obligations.KgetAndKcmp : Prop :=
  (∀ (s : State) (d a : Code) (f : BitVec 1),
  let ins : Ins := { op := 0x5B, d := .opd d 0x02 1 1 false true, a := srcF a s.wide, b := .imm }
  s.Issues ins →
  (s.active = 0 → ∃ t, exec (.kget d a f) s = .next t ∧ s.GroupDone t ins ∧ s.SameVL t ∧ s.SameKP t) ∧
  (∀ l, lowest s.active = some l →
    (f = 1 ∨ (∀ j, j < 64 → s.active.getLsbD j → s.src a s.wide j = s.src a s.wide l) →
      s.WritesUniform (.kget d a f) ins d (BitVec.ofNat 64 (s.src a s.wide l))) ∧
    (f = 0 → (∃ j, j < 64 ∧ s.active.getLsbD j ∧ s.src a s.wide j ≠ s.src a s.wide l) →
      exec (.kget d a f) s = .next (s.takeTrap { code := 0x08, mask := maskOf fun j => s.active.getLsbD j && s.src a s.wide j != s.src a s.wide l, addr := 0, cause := 0 })))) ∧
  (∀ (s : State) (c : BitVec 4) (p : BitVec 3) (a b : Code), s.grp.solo = false →
  let ins : Ins := { op := 0x69, d := .imm, a := kSrcF a, b := kSrcF b, preds := [p.toNat], bad := decide (10 ≤ c.toNat) }
  s.Issues ins →
  let x := s.srcU a
  let y := s.srcU b
  s.WritesPredicate (.kcmp c p a b) ins p.toNat s.warp.frag.mask fun _ =>
    [decide (x = y), decide (x ≠ y), decide (x.toInt < y.toInt), decide (x.toInt ≤ y.toInt), decide (y.toInt < x.toInt), decide (y.toInt ≤ x.toInt),
     decide (x.toNat < y.toNat), decide (x.toNat ≤ y.toNat), decide (y.toNat < x.toNat), decide (y.toNat ≤ x.toNat)].getD c.toNat false)

/-! Uniform operations (R159–R162). -/

/-- R159: the uniform operations in a fragment, on 64-bit values, whatever the guard selects; KSEL takes A where the guard holds in every lane of the
fragment, B where it holds in none, and raises NONUNIFORM for the lanes that differ from the lowest one otherwise. R258: the same
operations in a handler, where codes 0x00–0x0F name h registers. -/
def Obligations.UniformResults : Prop := ∀ (s : State) (d a b : Code),
  let ins (op : Nat) : Ins := { op := op, d := kDstF d, a := kSrcF a, b := kSrcF b }
  let x := s.srcU a
  let y := s.srcU b
  (s.grp.solo = false →
    (s.Issues (ins 0x60) → s.WritesUniform (.kadd d a b) (ins 0x60) d (x + y)) ∧
    (s.Issues (ins 0x61) → s.WritesUniform (.ksub d a b) (ins 0x61) d (x - y)) ∧
    (s.Issues (ins 0x62) → s.WritesUniform (.kmul d a b) (ins 0x62) d (x * y)) ∧
    (s.Issues (ins 0x63) → s.WritesUniform (.kand d a b) (ins 0x63) d (x &&& y)) ∧
    (s.Issues (ins 0x64) → s.WritesUniform (.kor d a b) (ins 0x64) d (x ||| y)) ∧
    (s.Issues (ins 0x65) → s.WritesUniform (.kxor d a b) (ins 0x65) d (x ^^^ y)) ∧
    (s.Issues (ins 0x66) → s.WritesUniform (.kshl d a b) (ins 0x66) d (if 64 ≤ y.toNat then 0 else x <<< y.toNat)) ∧
    (s.Issues (ins 0x67) → s.WritesUniform (.kshr d a b) (ins 0x67) d (if 64 ≤ y.toNat then 0 else x >>> y.toNat)) ∧
    (s.Issues { ins 0x68 with b := .resv } → s.WritesUniform (.kmov d a) { ins 0x68 with b := .resv } d x) ∧
    (s.Issues (ins 0x6A) →
      let held := s.active &&& s.fragMask
      (held = s.fragMask → s.WritesUniform (.ksel d a b) (ins 0x6A) d x) ∧
      (s.fragMask ≠ 0 → held = 0 → s.WritesUniform (.ksel d a b) (ins 0x6A) d y) ∧
      (held ≠ s.fragMask → held ≠ 0 → ∀ l, lowest s.fragMask = some l → exec (.ksel d a b) s =
        .next (s.takeTrap { code := 0x08, mask := if held.getLsbD l then s.fragMask &&& ~~~held else held, addr := 0, cause := 0 })))) ∧
  ∀ h, s.grp.solo = true → s.warp.solo = some h →
    (s.Issues (ins 0x60) → s.WritesHandler (.kadd d a b) h d (x + y)) ∧ (s.Issues (ins 0x61) → s.WritesHandler (.ksub d a b) h d (x - y)) ∧
    (s.Issues (ins 0x62) → s.WritesHandler (.kmul d a b) h d (x * y)) ∧ (s.Issues (ins 0x63) → s.WritesHandler (.kand d a b) h d (x &&& y)) ∧
    (s.Issues (ins 0x64) → s.WritesHandler (.kor d a b) h d (x ||| y)) ∧ (s.Issues (ins 0x65) → s.WritesHandler (.kxor d a b) h d (x ^^^ y)) ∧
    (s.Issues { ins 0x68 with b := .resv } → s.WritesHandler (.kmov d a) h d x) ∧
    (s.Issues (ins 0x66) → s.WritesHandler (.kshl d a b) h d (if 64 ≤ y.toNat then 0 else x <<< y.toNat)) ∧
    (s.Issues (ins 0x67) → s.WritesHandler (.kshr d a b) h d (if 64 ≤ y.toNat then 0 else x >>> y.toNat)) ∧
    (s.Issues (ins 0x6A) → s.WritesHandler (.ksel d a b) h d
      (if h.bit (wmGuard h.wmode % 8) != decide (wmGuard h.wmode / 8 = 1) then x else y)) ∧
    ∀ n, n < 16 → s.src (BitVec.ofNat 8 n) true 0 = (rd h.h n).toNat

/-! Control (R105–R125). -/

/-- R107, R108: NOP and YIELD fall through and change nothing of the warp but its place in the issue order; MODE and GUARD write WMODE, of the
fragment or of the handler, whatever the guard selects.
R121: EXIT with no active lane falls through; else its lanes leave the warp, and no fragment or record keeps one of them: a record whose lanes have all
left closes, and one whose other lanes all stand at join fuses. -/
def Obligations.ModesAndExits : Prop :=
  (∀ (s : State) (w : BitVec 24) (g : BitVec 4),
  (s.Issues (plainIns 0x01) → exec .nop s = .next (s.fellThrough (plainIns 0x01))) ∧
  (s.Issues (plainIns 0x0D) → exec .yield s =
    .next (State.fellThrough { s with passed := SMap.insert s.warp.partition s.warp.uid s.passed } (plainIns 0x0D))) ∧
  (s.grp.solo = false →
    (s.Issues { j24Ins 0x05 with bad := !wmLegal w } → ∃ t, exec (.mode w) s = .next t ∧ t.warp.frag.wmode = w ∧ s.SameVL t ∧ s.SameKP t ∧
      t.warp.frag.pc = (s.fellThrough (j24Ins 0x05)).warp.frag.pc ∧ t.mem = s.mem) ∧
    (s.Issues { op := 0x06, d := .resv, a := .resv, b := .imm } → ∃ t, exec (.guard g) s = .next t ∧ s.SameVL t ∧ s.SameKP t ∧ t.mem = s.mem ∧
      t.warp.frag.wmode.extractLsb' 0 4 = g ∧ t.warp.frag.wmode.extractLsb' 4 20 = s.warp.frag.wmode.extractLsb' 4 20)) ∧
  ∀ h, s.grp.solo = true → s.warp.solo = some h → s.Issues { j24Ins 0x05 with bad := !wmLegal w } →
    exec (.mode w) s = .next { s.countGroup with warp := { s.warp with solo := some { h with wmode := w, pc := s.nextPc } } }) ∧
  (∀ (s : State) (g : BitVec 4) (h : Solo), s.grp.solo = true → s.warp.solo = some h → s.Issues { op := 0x06, d := .resv, a := .resv, b := .imm } →
    ∃ w, exec (.guard g) s = .next { s.countGroup with warp := { s.warp with solo := some { h with wmode := w, pc := s.nextPc } } } ∧
      w.extractLsb' 0 4 = g ∧ w.extractLsb' 4 20 = h.wmode.extractLsb' 4 20) ∧
  ((∀ s : State, s.Issues (plainIns 0x0C) →
    (s.active = 0 → exec .exit s = .next (s.fellThrough (plainIns 0x0C))) ∧
    (s.active ≠ 0 → exec .exit s = .next (s.finish (plainIns 0x0C) (.moved (s.advance.exitLanes s.warp.uid s.active)))) ∧
    (s.active ≠ 0 → s.warp.resident = true → (s.advance.warp.exitLanes s.active).liveLanes ≠ 0 → ∃ t, exec .exit s = .next t ∧ s.SameVL t ∧ s.SameKP t ∧
      t.mem = s.mem ∧ t.warp.joins = (s.advance.warp.exitLanes s.active).joins ∧ t.warp.frags = (s.advance.warp.exitLanes s.active).frags ∧
      t.warp.frag.mask = (s.advance.warp.exitLanes s.active).frag.mask ∧ t.warp.frag.pc = (s.advance.warp.exitLanes s.active).frag.pc)) ∧
  ∀ (w : Warp) (m : Mask), let x := w.exitLanes m
    x.liveLanes &&& m = 0 ∧ (∀ r ∈ x.joins, r.2.union &&& m = 0 ∧ r.2.union ≠ 0 ∧ ∃ q, (r.1, q) ∈ w.joins ∧ r.2 = { q with union := q.union &&& ~~~m }) ∧
    (w.joins.length ≤ 64 → ∀ r ∈ x.joins, joined x.live r.1 ≠ r.2.union))

/-- R110, R111: BRA falls through with no active lane, goes to its target with every lane of the fragment active, and else splits the fragment: the part with
the lower address takes the fragment's entry, the other the lowest free one. -/
def Obligations.BranchMovesLanes : Prop := ∀ (s : State) (o : BitVec 24), s.Issues braIns →
  (s.active = 0 → exec (.bra o) s = .next (s.fellThrough braIns)) ∧
  (s.fragMask ≠ 0 → s.active = s.fragMask → exec (.bra o) s = .next (s.wentTo braIns (s.target o))) ∧
  (s.grp.solo = false → s.grp.join = none → s.active ≠ 0 → s.warp.frag.mask &&& ~~~s.active ≠ 0 → s.target o ≠ s.nextPc → s.active &&& ~~~s.warp.frag.mask = 0 →
    (SMap.find (freeEntry s.warp.live) s.warp.live).isNone →
    ∃ t, exec (.bra o) s = .next t ∧ s.SameVL t ∧ s.SameKP t ∧ t.mem = s.mem ∧ t.warp.joins = s.warp.joins ∧
      (let first := t.warp.fragAt s.warp.fragIx
       let other := t.warp.fragAt (freeEntry s.warp.live)
       if (s.target o).toNat < s.nextPc.toNat then
         first.mask = s.active ∧ first.pc = s.target o ∧ other.mask = s.warp.frag.mask &&& ~~~s.active ∧ other.pc = s.nextPc
       else
         first.mask = s.warp.frag.mask &&& ~~~s.active ∧ first.pc = s.nextPc ∧ other.mask = s.active ∧ other.pc = s.target o))

/-- R113, R114, R117: a join pair of JOIN and BRA or BRX is one group; a split of it opens a record whose join address is the JOIN's target and whose union is
the fragment's mask, which keeps its WMODE and has the fragment's record as parent, and which both parts name. BRX sends each active
lane to the table entry that its index selects, and with no active lane falls through; an index at or beyond the bound raises BRX_RANGE with TRAPMASK
those lanes, and no lane moves. That a BRX of a pair with a latch as A traps is the model's choice (log entry 70).
R119, R120: CALL with every lane active goes to its target with k47 lowered by 16, and an operation on its way stores the return address and the callers' mask; with some
of them it splits, and opens a record with the return address;
RET reads them back, raises k47 by 16 and goes to the address, where the mask's live lanes are the fragment's. -/
def Obligations.CallsPairsAndJumps : Prop :=
  (∀ (s u v : State) (g : Group) (o q : BitVec 24) (d a b : Code) (places : List (Nat × DWord × Nat))
    (xs : List (Nat × Nat)),
  let opened (u t : State) (addr : DWord) : Prop :=
    t.warp.joins = SMap.insert (freeJoin u.warp.joins) { addr := addr, union := u.warp.frag.mask, wmode := u.warp.frag.wmode, parent := u.warp.frag.jrec } u.warp.joins
  let base : DWord := rd s.warp.k (b.toNat - 0xC0) &&& ~~~3
  let entry (l : Nat) : DWord := base + BitVec.ofNat 64 (4 * s.src a false l)
  let goal (v : State) (l : Nat) : DWord := match xs.find? (fun e => e.1 == l) with
    | some e => (base + (BitVec.ofNat 32 e.2).signExtend 64) &&& ~~~3
    | none => v.nextPc
  (s.Issues (j24Ins 0x0B) → s.fetchGroup { Group.empty with pc := s.nextPc } = (u, .ok g) →
    let p : State := { u with grp := { g with pc := u.grp.pc, bytes := u.grp.bytes + g.bytes, join := some (u.target o) } }
    (g.instr = .bra q → p.Issues braIns →
      exec (.join o) s = .next (s.finish (j24Ins 0x0B) (p.bra q)) ∧
      (p.active = 0 → u.warp.uid = s.warp.uid → exec (.join o) s = .next (p.fellThrough (j24Ins 0x0B))) ∧
      (p.grp.solo = false → p.active ≠ 0 → p.warp.frag.mask &&& ~~~p.active ≠ 0 → p.target q ≠ p.nextPc → (SMap.find (freeEntry u.warp.live) u.warp.live).isNone →
        u.warp.uid = s.warp.uid → ∃ t, exec (.join o) s = .next t ∧ u.SameVL t ∧ u.SameKP t ∧ t.mem = u.mem ∧ opened u t (u.target o) ∧
          (let first := t.warp.fragAt u.warp.fragIx
           let other := t.warp.fragAt (freeEntry u.warp.live)
           first.jrec = some (freeJoin u.warp.joins) ∧ other.jrec = some (freeJoin u.warp.joins) ∧
           if (p.target q).toNat < p.nextPc.toNat then
             first.mask = p.active ∧ first.pc = p.target q ∧ other.mask = u.warp.frag.mask &&& ~~~p.active ∧ other.pc = p.nextPc
           else first.mask = u.warp.frag.mask &&& ~~~p.active ∧ first.pc = p.nextPc ∧ other.mask = p.active ∧ other.pc = p.target q))) ∧
    (g.instr = .brx d a b →
      (∀ t, p.gate { brxIns d a b with bad := classBit a.toNat == clsLat } = some t → exec (.join o) s = .next (s.takeTrap t)) ∧
      (p.Issues { brxIns d a b with bad := classBit a.toNat == clsLat } → exec (.join o) s = .next (s.finish (j24Ins 0x0B) (p.brx d a b))))) ∧
  (∀ (x : DWord) m rest, v.warp.uid = s.warp.uid → partsOf ((lanesOf v.fragMask).map fun l => (l, goal v l)) = m :: rest → rest ≠ [] →
    ∃ t, s.finish (j24Ins 0x0B) (v.goTo (goal v) (some x)) = t ∧ v.SameVL t ∧ v.SameKP t ∧ opened v t x) ∧
  (s.Issues (brxIns d a b) → (∀ l, l < 64 → s.active.getLsbD l → s.src a false l < s.src d false 0) →
    (s.active = 0 → exec (.brx d a b) s = .next (s.fellThrough (brxIns d a b))) ∧
    (s.active ≠ 0 → s.preLanes s.active .r entry = (u, .ok places) → (∀ l, l < 64 → s.active.getLsbD l → u.warp.holdsAt (entry l).toNat 4 = false) →
      (∀ t, u.peerTrap places laneBit = some t → exec (.brx d a b) s = .next (s.takeTrap t)) ∧
      (u.peerTrap places laneBit = none → u.readLanes 4 places = some (v, xs) →
        exec (.brx d a b) s = .next (s.finish (brxIns d a b) (v.goTo (goal v) v.grp.join))))) ∧
  (let out := maskOf fun l => s.active.getLsbD l && decide (s.src d false 0 ≤ s.src a false l)
   s.Issues (brxIns d a b) → out ≠ 0 → exec (.brx d a b) s = .next (s.takeTrap { code := 0x0C, mask := out, addr := 0, cause := 0 }))) ∧
  (∀ (s u v : State) (o : BitVec 24) (place x : Nat), s.k47Pending = false → s.k47.toNat % 16 = 0 →
  (s.Issues { j24Ins 0x09 with bad := false } → s.active = 0 → exec (.call o) s = .next (s.fellThrough { j24Ins 0x09 with bad := false })) ∧
  (s.Issues { j24Ins 0x09 with bad := false } → s.active ≠ 0 → s.pre (s.k47 - 16) .w = (u, .ok place) → u.warp = s.warp → u.grp = s.grp →
    u.warp.holdsAt (s.k47 - 16).toNat 16 = false → u.slotsFull = false → u.loadsPending (s.k47 - 16).toNat (placePa place) 16 = false →
    ∃ t op, exec (.call o) s = .next t ∧ rd t.warp.k 47 = s.k47 - 16 ∧ (∀ n, n ≠ 47 → rd t.warp.k n = rd s.warp.k n) ∧ s.SameVL t ∧ t.warp.p = s.warp.p ∧
      op ∈ t.ops ∧ op.kind = .store 16 false ∧ op.uid = s.warp.uid ∧
      (∀ l, lowest s.active = some l → op.storeBytes l = leBytes 8 s.nextPc.toNat ++ leBytes 8 s.active.toNat) ∧
      (s.active = s.fragMask → t.warp.frag.pc = s.target o ∧ t.warp.frag.mask = s.warp.frag.mask ∧ t.warp.joins = s.warp.joins) ∧
      (s.grp.solo = false → s.warp.frag.mask &&& ~~~s.active ≠ 0 → s.target o ≠ s.nextPc → (SMap.find (freeEntry s.warp.live) s.warp.live).isNone →
        t.warp.joins = SMap.insert (freeJoin s.warp.joins) { addr := s.nextPc, union := s.warp.frag.mask, wmode := s.warp.frag.wmode, parent := s.warp.frag.jrec } s.warp.joins ∧
        (let first := t.warp.fragAt s.warp.fragIx
         let other := t.warp.fragAt (freeEntry s.warp.live)
         if (s.target o).toNat < s.nextPc.toNat then
           first.mask = s.active ∧ first.pc = s.target o ∧ other.mask = s.warp.frag.mask &&& ~~~s.active ∧ other.pc = s.nextPc
         else first.mask = s.warp.frag.mask &&& ~~~s.active ∧ first.pc = s.nextPc ∧ other.mask = s.active ∧ other.pc = s.target o))) ∧
  (s.Issues { plainIns 0x0A with bad := false } → s.grp.solo = false → s.pre s.k47 .r = (u, .ok place) → u.warp.holdsAt s.k47.toNat 16 = false →
    (∀ t, u.peerTrap [(0, s.k47, place)] (fun _ => u.fragMask) = some t → exec .ret s = .next (s.takeTrap t)) ∧
    (u.peerTrap [(0, s.k47, place)] (fun _ => u.fragMask) = none → u.readNow s.k47 place 16 = some (v, x) → v.warp = s.warp → v.grp = s.grp →
      (BitVec.ofNat 64 (x / 2 ^ 64) &&& s.warp.liveLanes = s.warp.frag.mask →
        ∃ t, exec .ret s = .next t ∧ t.warp.frag.pc = BitVec.ofNat 64 x ∧ rd t.warp.k 47 = s.k47 + 16 ∧ s.SameVL t ∧ t.warp.p = s.warp.p) ∧
      (BitVec.ofNat 64 (x / 2 ^ 64) &&& s.warp.liveLanes ≠ s.warp.frag.mask →
        exec .ret s = .next (s.takeTrap { code := 0x0D, mask := s.warp.frag.mask, addr := 0, cause := 0 })))))

/-- R96, R123, R124, R255: BKPT and TRAP with no active lane fall through; TRAP raises USER_TRAP and BKPT BREAKPOINT, for their active lanes, or with the region's
debug flag BKPT stops the warp, its fragment past the BKPT (the model's choice, log entry 13); a word that is no instruction raises ILLEGAL_OP. -/
def Obligations.SoftwareTraps : Prop := ∀ (s : State) (n : BitVec 16) (w : Word),
  let ins (op : Nat) : Ins := { op := op, d := .resv, a := .imm, b := .imm }
  (s.Issues (ins 0x0E) → s.active = 0 → exec (.bkpt n) s = .next (s.fellThrough (ins 0x0E))) ∧
  (s.Issues (ins 0x0E) → s.active ≠ 0 → (s.region s.warp.launch).debug = false →
    exec (.bkpt n) s = .next (s.takeTrap { code := 0x11, mask := s.active, addr := n.setWidth 64, cause := 0 })) ∧
  (s.Issues (ins 0x0E) → s.active ≠ 0 → (s.region s.warp.launch).debug = true →
    exec (.bkpt n) s = .next (State.fellThrough { s with warp := s.warp.debugStop } (ins 0x0E))) ∧
  (s.Issues (ins 0x0F) → s.active = 0 → exec (.trap n) s = .next (s.fellThrough (ins 0x0F))) ∧
  (s.Issues (ins 0x0F) → s.active ≠ 0 → exec (.trap n) s = .next (s.takeTrap { code := 0x12, mask := s.active, addr := n.setWidth 64, cause := 0 })) ∧
  exec (.illegalOp w) s = .next (s.takeTrap { code := 0x01, mask := s.active, addr := 0, cause := 0 })

/-! Memory, atomic and fill instructions (R161–R195). -/

/-- R165, R169, R171: LD8, LD16, LD, LDQ, LDNC and LDA open an operation with one request for each active lane, whose data returns later
(LoadDataReturns); no register and no byte of memory changes at issue, and an empty active set opens nothing. R161: KLD opens one request of 8 bytes for the whole
group, whatever the guard selects.
R165, R169, R172: ST8, ST16, ST, STQ and STL open an operation with a request and the captured data of each lane that performs them; the issuing
cluster sees the bytes at once, and the home when each lane registers (StoreRegistersItsBytes). STL waits first until the warp's earlier accesses, and those of
other warps that come before them, have completed. -/
def Obligations.LoadsAndStoresOpenRequests : Prop :=
  (∀ (s : State) (d a b : Code),
  s.LoadOpens (.ld8 d a b) 0x70 1 .plain d a b ∧ s.LoadOpens (.ld16 d a b) 0x71 2 .plain d a b ∧ s.LoadOpens (.ld d a b) 0x72 s.widthBytes .plain d a b ∧
  s.LoadOpens (.ldq d a b) 0x73 16 .plain d a b ∧ s.LoadOpens (.ldnc d a b) 0x78 s.widthBytes .nc d a b ∧ s.LoadOpens (.lda d a b) 0x79 s.widthBytes .acq d a b ∧
  (∀ kind va, s.openLanes 0 kind va = (s, [], [])) ∧
  let kld : Ins := { op := 0x6B, d := .opd d 0x02 1 1 false true, a := .opd a 0x12 1 1 true false, b := .memk b }
  let ea := s.memAddr a b 0
  ∀ u place, s.Issues kld → ea.toNat % 8 = 0 → s.slotsFull = false → s.acquiring = false → s.pre ea .r = (u, .ok place) →
    u.warp.holdsAt ea.toNat 8 = false → u.warp.uid = s.warp.uid →
    exec (.kld d a b) s = .next (State.fellThrough
      (u.newOp (.kload d) [{ lane := 0, va := ea, pa := place, stage := .request, val := u.now, aux := 0 }] []) kld)) ∧
  (∀ (s u : State) (d a b : Code) (lanes : List LaneReq) (faults : List FaultLane),
  s.StoreOpens (.st8 d a b) 0x74 1 d a b ∧ s.StoreOpens (.st16 d a b) 0x75 2 d a b ∧ s.StoreOpens (.st d a b) 0x76 s.widthBytes d a b ∧
  s.StoreOpens (.stq d a b) 0x77 16 d a b ∧
  (s.Issues (s.storeIns 0x7A s.widthBytes d a b) → misaligned s.doers s.widthBytes (s.memAddr a b) = 0 → s.slotsFull = false →
    s.releaseBusy = false → s.storeMeetsLoad s.doers s.widthBytes (s.memAddr a b) = false →
    s.openLanes s.doers (.store s.widthBytes true) (s.memAddr a b) = (u, lanes, faults) →
    s.AccessGroup (.stl d a b) (s.storeIns 0x7A s.widthBytes d a b) (.store s.widthBytes true) (s.storeData s.doers d s.widthBytes)
      u.clearElig lanes faults u.seenNear) ∧
  (s.Issues (s.storeIns 0x7A s.widthBytes d a b) → misaligned s.doers s.widthBytes (s.memAddr a b) = 0 → s.doers ≠ 0 → s.releaseBusy = true →
    exec (.stl d a b) s = .next s.hold))

/-- R166, R168: a lane address that is not a multiple of the access size raises MISALIGNED; TRAPMASK names those lanes, and the address of the lowest of
them is the faulting address. An SRAM access beyond the workgroup's allocation raises SRAM_RANGE for the lanes concerned, where no lane is misaligned.
R170, R299: a lane whose leaf denies the access opens no request, and posts TRANSLATION with cause 4. -/
def Obligations.MemoryAccessTraps : Prop := ∀ (s : State) (d a b : Code) (o : BitVec 3),
  let va := s.memAddr a b
  let trapped (m : Mask) (n : Nat) (va : Nat → DWord) : Host.Outcome State Fault Refusal :=
    let bad := maskOf fun l => m.getLsbD l && (va l).toNat % n != 0
    .next (s.takeTrap { code := 0x09, mask := bad, addr := ((lowest bad).map va).getD 0, cause := 0 })
  (s.Issues (s.loadIns 0x72 s.widthBytes d a b) → misaligned s.active s.widthBytes va ≠ 0 → exec (.ld d a b) s = trapped s.active s.widthBytes va) ∧
  (s.Issues (s.loadIns 0x71 2 d a b) → misaligned s.active 2 va ≠ 0 → exec (.ld16 d a b) s = trapped s.active 2 va) ∧
  (s.Issues (s.loadIns 0x73 16 d a b) → misaligned s.active 16 va ≠ 0 → exec (.ldq d a b) s = trapped s.active 16 va) ∧
  (s.Issues (s.storeIns 0x76 s.widthBytes d a b) → misaligned s.doers s.widthBytes va ≠ 0 → exec (.st d a b) s = trapped s.doers s.widthBytes va) ∧
  (s.Issues (s.storeIns 0x77 16 d a b) → misaligned s.doers 16 va ≠ 0 → exec (.stq d a b) s = trapped s.doers 16 va) ∧
  (s.Issues { op := 0x80, d := s.atomD o.toNat d, a := addr64F a true, b := .imm, bad := !atomType o.toNat (wmEtype s.wm) } →
    misaligned s.performers s.widthBytes (s.addr64 a) ≠ 0 → exec (.atom d a o) s = trapped s.performers s.widthBytes (s.addr64 a)) ∧
  (s.Issues { op := 0x6B, d := .opd d 0x02 1 1 false true, a := .opd a 0x12 1 1 true false, b := .memk b } → (va 0).toNat % 8 ≠ 0 →
    exec (.kld d a b) s = .next (s.takeTrap { code := 0x09, mask := s.fragMask, addr := va 0, cause := 0 })) ∧
  (s.Issues (s.loadIns 0x78 s.widthBytes d a b) → misaligned s.active s.widthBytes va ≠ 0 → exec (.ldnc d a b) s = trapped s.active s.widthBytes va) ∧
  (s.Issues (s.loadIns 0x79 s.widthBytes d a b) → misaligned s.active s.widthBytes va ≠ 0 → exec (.lda d a b) s = trapped s.active s.widthBytes va) ∧
  (s.Issues (s.storeIns 0x75 2 d a b) → misaligned s.doers 2 va ≠ 0 → exec (.st16 d a b) s = trapped s.doers 2 va) ∧
  (s.Issues (s.storeIns 0x7A s.widthBytes d a b) → misaligned s.doers s.widthBytes va ≠ 0 → exec (.stl d a b) s = trapped s.doers s.widthBytes va) ∧
  (s.Issues { op := 0x81, d := .opd d 0x17 (if s.wide then 2 else 1) (if s.wide then 2 else 1) true false, a := addr64F a true, b := .imm, bad := decide (6 ≤ o.toNat) || !atomType o.toNat (wmEtype s.wm) } →
    misaligned s.performers s.widthBytes (s.addr64 a) ≠ 0 → exec (.red d a o) s = trapped s.performers s.widthBytes (s.addr64 a)) ∧
  (s.Issues { op := 0x83, d := .opd d 0x11 1 1 false true, a := addr64F a true, b := .imm, preds := [o.toNat] } →
    misaligned s.performers 256 (s.addr64 a) ≠ 0 → exec (.mcas d a o) s = trapped s.performers 256 (s.addr64 a)) ∧
  (s.Issues { op := 0x90, d := .opd d 0x11 2 2 false true, a := addr64F a false, b := .opd b 0x3F 1 1 true false } →
    misaligned s.performers 8 (s.addr64Plain a) ≠ 0 → exec (.cadd d a b) s = trapped s.performers 8 (s.addr64Plain a)) ∧
  (let off (l : Nat) : DWord := BitVec.ofNat 64 (s.sramOffset a l)
   let beyond (m : Mask) (n : Nat) : Mask := maskOf fun l => m.getLsbD l && decide (s.sramSize < s.sramOffset a l + n)
   let ranged (m : Mask) (n : Nat) : Host.Outcome State Fault Refusal :=
     .next (s.takeTrap { code := 0x0A, mask := beyond m n, addr := ((lowest (beyond m n)).map off).getD 0, cause := 0 })
   let sts : Ins := { op := 0x7C, d := .opd d (if s.sramBytes o = 16 then 1 else 0x37) (regsOf (s.sramBytes o) s.wide) (regsOf (s.sramBytes o) s.wide) true false, a := offsetF a, b := .imm, bad := decide (4 ≤ o.toNat) }
   let lds : Ins := { op := 0x7B, d := .opd d (if s.sramBytes o = 16 then 1 else 0x11) (regsOf (s.sramBytes o) s.wide) (regsOf (s.sramBytes o) s.wide) false true, a := offsetF a, b := .imm, bad := decide (4 ≤ o.toNat) }
   let atoms : Ins := { op := 0x82, d := s.atomD o.toNat d, a := offsetF a, b := .imm, bad := !atomType o.toNat (wmEtype s.wm) }
   (s.Issues lds → misaligned s.active (s.sramBytes o) off ≠ 0 → exec (.lds d a o) s = trapped s.active (s.sramBytes o) off) ∧
   (s.Issues sts → misaligned s.performers (s.sramBytes o) off ≠ 0 → exec (.sts d a o) s = trapped s.performers (s.sramBytes o) off) ∧
   (s.Issues sts → misaligned s.performers (s.sramBytes o) off = 0 → beyond s.performers (s.sramBytes o) ≠ 0 → exec (.sts d a o) s = ranged s.performers (s.sramBytes o)) ∧
   (s.Issues atoms → misaligned s.performers s.widthBytes off ≠ 0 → exec (.atoms d a o) s = trapped s.performers s.widthBytes off) ∧
   (s.Issues atoms → misaligned s.performers s.widthBytes off = 0 → beyond s.performers s.widthBytes ≠ 0 → exec (.atoms d a o) s = ranged s.performers s.widthBytes)) ∧
  (∀ (asid : BitVec 16) (sys : Bool) (own leader : Option Nat) (kind : OpKind) (l : Nat) (x : DWord) (lf : Leaf),
    field x 52 12 = 0 → s.lookup asid x.toNat = .leaf lf →
    (sys = false ∧ eUser lf.entry = false) ∨ (kind.acc = .r ∧ eR lf.entry = false) ∨ (kind.acc = .w ∧ eW lf.entry = false ∧ eCow lf.entry = false) ∨
      (kind.acc = .rmw ∧ (eR lf.entry = false ∨ eW lf.entry = false ∧ eCow lf.entry = false)) →
    s.openLane asid sys own leader kind l x = (s, none, some { lane := l, va := x, code := 0x20, cause := 4, aux := 0 })) ∧
  let n := s.sramBytes o
  let out := maskOf fun l => s.active.getLsbD l && decide (s.sramSize < s.sramOffset a l + n)
  s.Issues { op := 0x7B, d := .opd d (if n = 16 then 1 else 0x11) (regsOf n s.wide) (regsOf n s.wide) false true, a := offsetF a, b := .imm, bad := decide (4 ≤ o.toNat) } →
  misaligned s.active n (fun l => BitVec.ofNat 64 (s.sramOffset a l)) = 0 → out ≠ 0 →
  exec (.lds d a o) s = .next (s.takeTrap { code := 0x0A, mask := out, addr := ((lowest out).map fun l => BitVec.ofNat 64 (s.sramOffset a l)).getD 0, cause := 0 })

/-- R177, R165: LDS writes the sign- or zero-extended bytes of each active lane's offset into its element of `d`; nothing else changes.
R172, R177: STS writes each performing lane's low bytes at its offset, the highest lane's byte remaining where lanes meet; every other byte of
SRAM, all of memory and every register stand as they stood. -/
def Obligations.LocalMemoryAccesses : Prop :=
  (∀ (s : State) (d a : Code) (z : BitVec 3),
  let n := s.sramBytes z
  let ins : Ins := { op := 0x7B, d := .opd d (if n = 16 then 1 else 0x11) (regsOf n s.wide) (regsOf n s.wide) false true, a := offsetF a, b := .imm, bad := decide (4 ≤ z.toNat) }
  s.Issues ins → s.sramCheck s.active n (s.sramOffset a) = none → (s.active = 0 ∨ s.slotsFull = false) →
  ∃ t, exec (.lds d a z) s = .next t ∧ s.GroupDone t ins ∧ s.SameKP t ∧ t.warp.lat = s.warp.lat ∧
    (n ≠ 16 → s.WritesV t d s.wide s.active fun l => extendLoad n s.et.signed s.wide (s.sramRead (s.sramOffset a l) n)) ∧
    (n = 16 → ∀ r l, l < 64 → rd t.warp.v (r * 64 + l) =
      if d.toNat ≤ 0xBF ∧ s.active.getLsbD l ∧ d.toNat ≤ r ∧ r < d.toNat + 4
      then BitVec.ofNat 32 (s.sramRead (s.sramOffset a l) 16 / 2 ^ (32 * (r - d.toNat))) else rd s.warp.v (r * 64 + l))) ∧
  (∀ (s : State) (d a : Code) (z : BitVec 3),
  let n := s.sramBytes z
  let ins : Ins := { op := 0x7C, d := .opd d (if n = 16 then 1 else 0x37) (regsOf n s.wide) (regsOf n s.wide) true false, a := offsetF a, b := .imm, bad := decide (4 ≤ z.toNat) }
  let hit (i l : Nat) : Prop := l < 64 ∧ s.performers.getLsbD l ∧ s.sramBase + s.sramOffset a l ≤ i ∧ i < s.sramBase + s.sramOffset a l + n
  s.Issues ins → s.sramCheck s.performers n (s.sramOffset a) = none → (s.performers = 0 ∨ s.slotsFull = false) →
  ∃ t, exec (.sts d a z) s = .next t ∧ s.GroupDone { t with sram := s.sram } ins ∧ s.SameVL t ∧ s.SameKP t ∧ t.mem = s.mem ∧
    (∀ i, (∀ l, ¬hit i l) → rd t.sram i = rd s.sram i) ∧
    ∀ i l, hit i l → (∀ m, l < m → ¬hit i m) → rd t.sram i = (laneBytes (s.storeData s.performers d n) l n).getD (i - (s.sramBase + s.sramOffset a l)) 0)

/-- R180–R183, R188, R201: ATOM, RED, MCAS and CADD open an operation with a request and operands of each performing lane; with none they fall through. That an
MCAS looks at its blocks and their entries as it issues, and is held until it can, is the model's choice (log entry 63). ATOMS
is carried out at issue, and with one performing lane l writes the old value to `d` and the operation's result to SRAM. -/
def Obligations.AtomicsOpenRequests : Prop := ∀ (s u : State) (d a b : Code) (o : BitVec 3) (lanes : List LaneReq) (faults : List FaultLane),
  let n := s.widthBytes
  let et := wmEtype s.wm
  let atomIns (op : Nat) (a : Fld) : Ins := { op := op, d := s.atomD o.toNat d, a := a, b := .imm, bad := !atomType o.toNat et }
  let redIns : Ins := { op := 0x81, d := .opd d 0x17 (if s.wide then 2 else 1) (if s.wide then 2 else 1) true false, a := addr64F a true, b := .imm, bad := decide (6 ≤ o.toNat) || !atomType o.toNat et }
  let mcasIns : Ins := { op := 0x83, d := .opd d 0x11 1 1 false true, a := addr64F a true, b := .imm, preds := [o.toNat] }
  let caddIns : Ins := { op := 0x90, d := .opd d 0x11 2 2 false true, a := addr64F a false, b := .opd b 0x3F 1 1 true false }
  s.slotsFull = false → s.acquiring = false →
  (s.Issues (atomIns 0x80 (addr64F a true)) → misaligned s.performers n (s.addr64 a) = 0 →
    s.clearElig.openLanes s.performers (.atom o.toNat et d) (s.addr64 a) = (u, lanes, faults) →
    s.AccessGroup (.atom d a o) (atomIns 0x80 (addr64F a true)) (.atom o.toNat et d) (s.atomData s.performers o.toNat d) u lanes faults id) ∧
  (s.Issues redIns → misaligned s.performers n (s.addr64 a) = 0 →
    s.clearElig.openLanes s.performers (.red o.toNat et (wmDet s.wm)) (s.addr64 a) = (u, lanes, faults) →
    s.AccessGroup (.red d a o) redIns (.red o.toNat et (wmDet s.wm)) (s.atomData s.performers 0 d) u lanes faults id) ∧
  (s.Issues mcasIns → misaligned s.performers 256 (s.addr64 a) = 0 →
    s.clearElig.openLanes s.performers (.mcas d o.toNat) (s.addr64 a) = (u, lanes, faults) →
    ((∀ l ∈ lanes, l.live = true → u.mcasSees l = true) → s.AccessGroup (.mcas d a o) mcasIns (.mcas d o.toNat) [] (u.mcasLook lanes).1 (u.mcasLook lanes).2 faults id) ∧
    ((∃ l ∈ lanes, l.live = true ∧ u.mcasSees l = false) → exec (.mcas d a o) s = .next s.hold)) ∧
  (s.Issues caddIns → misaligned s.performers 8 (s.addr64Plain a) = 0 →
    (s.performers = 0 → exec (.cadd d a b) s = .next (s.clearElig.fellThrough caddIns)) ∧
    (s.performers ≠ 0 → s.releaseBusy = false → s.clearElig.openLanes s.performers (.cadd d) (s.addr64Plain a) = (u, lanes, faults) →
      ∃ data : SMap Word, (∀ l, l < 64 → s.performers.getLsbD l → laneV data l = s.src64 b l % 2 ^ 64) ∧
        s.AccessGroup (.cadd d a b) caddIns (.cadd d) data u lanes faults id)) ∧
  (s.Issues (atomIns 0x82 (offsetF a)) → s.sramCheck s.performers n (s.sramOffset a) = none → ∀ l, s.performers = laneBit l → l < 64 →
    ∃ t, exec (.atoms d a o) s = .next t ∧ t.mem = s.mem ∧ s.SameKP t ∧
      (∀ r i, i < 64 → rd t.warp.v (r * 64 + i) = if i = l ∧ d.toNat ≤ 0xBF then
        (if s.wide ∧ r = d.toNat + 1 then BitVec.ofNat 32 (s.sramRead (s.sramOffset a l) n / 2 ^ 32)
          else if r = d.toNat then BitVec.ofNat 32 (s.sramRead (s.sramOffset a l) n) else rd s.warp.v (r * 64 + i)) else rd s.warp.v (r * 64 + i)) ∧
      t.sramRead (s.sramOffset a l) n = atomOp o.toNat et (s.sramRead (s.sramOffset a l) n) (laneV (s.atomData s.performers o.toNat d) l) (laneC (s.atomData s.performers o.toNat d) l) % 2 ^ (8 * n))

/-- R174, R271, R280: a FENCE waits for what its classes name: with REL and GLOBAL the warp's earlier accesses and those that come before them, with IMAGE its writes, with TILE its tile moves, with
ACQ its earlier reads; and else it completes, with ACQ and GLOBAL after an acquire, and with ACQ and IMAGE with no copy left in the core's path cache.
R175: IFENCE leaves no copy in the core's instruction cache. R176: PREF changes copies of lines only.
R192: FILLDONE and FILLFAIL without an open fill raise BAD_FILL; with one they end it, FILLDONE once the warp's writes are registered, and with no performing lane
they fall through. -/
def Obligations.FencesAndFills : Prop := ∀ (s : State) (t im sr gl rel acq : BitVec 1) (l : BitVec 2) (a b : Code) (c : BitVec 16),
  let fence : Ins := { op := 0x7D, d := .resv, a := .resv, b := .imm, bad := (rel == 0 && acq == 0) || (t == 0 && im == 0 && sr == 0 && gl == 0) }
  let ifence : Ins := { op := 0x7E, d := .resv, a := .resv, b := .resv }
  let pref : Ins := { op := 0x7F, d := .imm, a := offsetF a, b := .memk b, bad := l == 3 }
  let done : Ins := { op := 0x84, d := .resv, a := .resv, b := .resv }
  let fail : Ins := { op := 0x85, d := .resv, a := .imm, b := .imm, bad := decide (0xFFF0 ≤ c.toNat) }
  let drop (s : State) (holder : Nat) : State := s.mapCopies fun x => if x.holder = holder then { x with valid := 0 } else x
  let uid := s.warp.uid
  let waits : Prop := (gl = 1 ∧ rel = 1 ∧ s.releaseBusy = true) ∨ (im = 1 ∧ (s.pendingWrites uid = true ∨ acq = 1 ∧ s.afterBusy = true)) ∨
    (t = 1 ∧ s.warpHas uid (fun o => o.kind.tileMove) = true) ∨ (acq = 1 ∧ s.readsBack uid = false)
  let released : State := if rel = 1 then s.clearElig else s
  let acquired : State := if acq = 1 ∧ gl = 1 then released.acquireAt s.warp.core else released
  let fenced : State := if acq = 1 ∧ im = 1 then drop acquired (pathOf s.warp.core) else acquired
  (s.Issues fence → waits → exec (.fence t im sr gl rel acq) s = .next s.hold) ∧
  (s.Issues fence → ¬waits → exec (.fence t im sr gl rel acq) s = .next (fenced.fellThrough fence) ∧ s.Quiet (fenced.fellThrough fence)) ∧
  (s.Issues ifence → exec .ifence s = .next ((drop s (icOf s.warp.core)).fellThrough ifence) ∧ s.Quiet ((drop s (icOf s.warp.core)).fellThrough ifence)) ∧
  (s.Issues pref → ∃ u, exec (.pref l a b) s = .next u ∧ s.Quiet u ∧ u.warp.frag = (s.fellThrough pref).warp.frag) ∧
  (s.fillOfWarp s.warp = none →
    (s.Issues done → exec .filldone s = .next (s.takeTrap { code := 0x0B, mask := s.active, addr := 0, cause := 0 })) ∧
    (s.Issues fail → exec (.fillfail c) s = .next (s.takeTrap { code := 0x0B, mask := s.active, addr := 0, cause := 0 }))) ∧
  ∀ f, s.fillOfWarp s.warp = some f →
    (s.performers = 0 → (s.Issues done → exec .filldone s = .next (s.clearElig.fellThrough done)) ∧
      (s.Issues fail → exec (.fillfail c) s = .next (s.clearElig.fellThrough fail))) ∧
    (s.Issues done → s.performers ≠ 0 → s.pendingWrites uid = true → exec .filldone s = .next s.hold) ∧
    (s.Issues done → s.performers ≠ 0 → s.pendingWrites uid = false → exec .filldone s = .next (s.finish done (.done
      { (s.clearElig.fillDone f.leader) with warp := { (s.clearElig.fillDone f.leader).warp with fillOpen := none } }))) ∧
    (s.Issues fail → s.performers ≠ 0 → exec (.fillfail c) s = .next (s.finish fail (.done (s.clearElig.failOpen s.warp c.toNat))))

/-! Special registers, counters, barriers, engines and quotas (R30, R197–R217, R254–R257). -/

/-- R30, R254: SREG gives each active lane of a v register or latch, or a k or h register once, the special register that its selector names. -/
def Obligations.SregReads : Prop := ∀ (s : State) (d sel : Code), s.inPrologue = false → s.Issues (s.sregIns d sel) →
  let wide := sregWide sel.toNat
  let x := s.sregValue sel.toNat % 2 ^ (if wide then 64 else 32)
  (s.grp.solo = false → ¬(0xC0 ≤ d.toNat ∧ d.toNat ≤ 0xEF) →
    s.WritesVector (.sreg d sel) (s.sregIns d sel) d wide fun l => if sel = 0 then l else x) ∧
  (s.grp.solo = false → 0xC0 ≤ d.toNat → d.toNat ≤ 0xEF → s.WritesUniform (.sreg d sel) (s.sregIns d sel) d (BitVec.ofNat 64 x)) ∧
  (∀ h, s.grp.solo = true → s.warp.solo = some h → s.WritesHandler (.sreg d sel) h d (BitVec.ofNat 64 x)) ∧
  s.sregValue 0x01 = s.warp.slot ∧ s.sregValue 0x05 = s.warp.inWg ∧ s.sregValue 0x06 = s.warp.launch ∧ s.sregValue 0x08 = s.warp.core ∧
  s.sregValue 0x0C = s.clock ∧ s.sregValue 0x0D = s.warp.trapMask.toNat ∧ s.sregValue 0x0F = s.warp.quota ∧ s.sregValue 0x12 = s.warp.tquota ∧
  s.sregValue 0x13 = s.warp.frag.mask.toNat ∧ s.sregValue 0x14 = s.warp.helper.toNat

/-- R202: CWAIT whose counter has reached the target makes an acquire and writes its value to `d`; below the target the fragment waits with a watch, to be issued
again. An address that is not 8-byte aligned raises MISALIGNED.
R204, R205: at BAR the fragment waits with the barrier's number and count, and at GBAR with the grid barrier's; with no performing lane both fall through. A BAR that
completes its warp's arrival is held until the warp's earlier reads have returned; one whose count differs from the generation's raises BAR_MISMATCH, and a GBAR outside a
gang launch GBAR_NOGANG. A generation at which its fixed count of warps has arrived ends: the next one is open, the later accesses of its warps come after
the earlier ones (R273), and their fragments that wait at it wake. -/
def Obligations.BarriersAndCounterWaits : Prop :=
  (∀ (s u : State) (d a b : Code) (place : Nat),
  let low (c : Code) : Bool := decide (c.toNat ≤ 0x0F)
  let ins : Ins := { op := 0x91, d := .opd d 0x12 1 1 false true, a := .opd a 0x02 1 1 true false, b := .opd b 0x1A 1 1 true false, bad := low d || low a || low b }
  let ea := s.srcU a
  let pa := placePa place
  let v := (u.mergeBytes pa 8).memQ pa
  s.Issues ins →
  (ea.toNat % 8 ≠ 0 → exec (.cwait d a b) s = .next (s.takeTrap { code := 0x09, mask := s.fragMask, addr := ea, cause := 0 })) ∧
  (ea.toNat % 8 = 0 → s.pre ea .r = (u, .ok place) → u.warp.holdsAt ea.toNat 8 = false → placePeer place = false → placeHome place ≠ 1 → u.acquiring = false →
    u.bytesOwned pa 8 = false → u.inOrder u.selfOp ea.toNat pa 8 false = true → u.sliceBusy u.selfOp (u.selfReq ea place) = false → u.warp.uid = s.warp.uid →
    (s.srcU b ≤ v → exec (.cwait d a b) s = .next (State.fellThrough (((u.mergeBytes pa 8).acquireAt u.warp.core).setK d v) ins)) ∧
    (v < s.srcU b → exec (.cwait d a b) s = .next ((u.mergeBytes pa 8).parkGroup (.cwait pa (s.srcU b) d u.nextPc) s.fragMask)))) ∧
  (∀ (s : State) (c : Code) (n : BitVec 3) (g : BitVec 2),
  let bar : Ins := { op := 0x92, d := .resv, a := .imm, b := .imm, bad := decide (16 < c.toNat) || decide (s.wgWarps < c.toNat) }
  let gbar : Ins := { op := 0x93, d := .resv, a := .resv, b := .imm }
  let trapped (code : Nat) : Host.Outcome State Fault Refusal := .next (s.takeTrap { code := code, mask := s.active, addr := 0, cause := 0 })
  (s.Issues bar →
    (s.performers = 0 → exec (.bar c n) s = .next (s.fellThrough bar)) ∧
    (s.performers ≠ 0 → s.barCompletes n.toNat = true → s.readsBack s.warp.uid = false → exec (.bar c n) s = .next s.hold) ∧
    (s.performers ≠ 0 → (s.barCompletes n.toNat = false ∨ s.readsBack s.warp.uid = true) → s.barMismatch n.toNat c.toNat = true → exec (.bar c n) s = trapped 0x0E) ∧
    (s.performers ≠ 0 → (s.barCompletes n.toNat = false ∨ s.readsBack s.warp.uid = true) → s.barMismatch n.toNat c.toNat = false → exec (.bar c n) s = .next ((s.fellThrough bar).waitFor (.bar n.toNat c.toNat) 0))) ∧
  (s.Issues gbar →
    (s.performers = 0 → exec (.gbar g) s = .next (s.fellThrough gbar)) ∧
    (s.performers ≠ 0 → ∀ l, s.launchOf s.warp.launch = some l →
      (l.gang = true → exec (.gbar g) s = .next ((s.fellThrough gbar).waitFor (.gbar g.toNat) 0)) ∧
      (l.gang = false → exec (.gbar g) s = trapped 0x0F))) ∧
  ∀ (w : Wg) (m : Nat) (b : BarState), SMap.find m w.bars = some b → b.count ≠ 0 → b.byZero = false → b.count ≤ b.arrived.length →
    let next : BarState := { gen := b.gen + 1, count := 0, byZero := false, arrived := [], since := 0, timedOut := false }
    s.releaseBar w m = ((s.onWg w.launch w.idx fun x => { x with bars := SMap.insert m next x.bars }).orderAfter b.arrived).onWarps
      (fun x => b.arrived.contains x.uid) fun x => x.wakeWhere (Wait.isBar m))

/-- R206–R212: CPY, CPY.Y, GETX and PUTX with aligned descriptors submit one operation for each performing lane, in ascending lane order, and a malformed descriptor posts its
fault instead; CPY.Y then waits for its copies. A transfer's record holds the fields of its descriptor, its recipients and the context's credential, and a GETX from
another device sends it its request; a context without a credential posts REMOTE_DENIED with its own device as AUX. With no performing lane they fall through, and with a release to wait for, no free slot or no free queue entry they are
held. A fault whose policy ends the warp aside, `finish` of `done` falls through. -/
def Obligations.CopiesAndTransfersSubmit : Prop := ∀ (s u v : State) (a b : Code) (places : List (Nat × DWord × Nat)) (xs : List (Nat × Nat)) (l x : Nat),
  let cpy : Ins := { op := 0x94, d := .resv, a := addr64F a false, b := .resv }
  let cpyY : Ins := { op := 0x95, d := .resv, a := addr64F a false, b := .opd b 0x02 1 1 true false }
  let getx : Ins := { op := 0x96, d := .resv, a := addr64F a false, b := .resv }
  let putx : Ins := { op := 0x97, d := .resv, a := addr64F a false, b := .resv }
  let m := s.performers
  let va := s.addr64Plain a
  let t := v.submitCopies a xs
  let jobs := (t.copyJobs.filter fun j => decide (v.nextOp ≤ j.id)).map (·.id)
  let busy : Prop := s.slotsFull = true ∨ s.releaseBusy = true
  let crowded : Prop := s.engineRoom (clusterOf s.warp.core) < (lanesOf m).length
  (m = 0 →
    (s.Issues cpy → exec (.cpy a) s = .next (s.clearElig.fellThrough cpy)) ∧ (s.Issues cpyY → exec (.cpyY a b) s = .next (s.clearElig.fellThrough cpyY)) ∧
    (s.Issues getx → exec (.getx a) s = .next (s.clearElig.fellThrough getx)) ∧ (s.Issues putx → exec (.putx a) s = .next (s.clearElig.fellThrough putx))) ∧
  (m ≠ 0 → misaligned m 64 va = 0 →
    (s.Issues cpy → busy ∨ crowded → exec (.cpy a) s = .next s.hold) ∧ (s.Issues cpyY → (s.srcU b).toNat % 4 = 0 → busy ∨ crowded → exec (.cpyY a b) s = .next s.hold) ∧
    (s.Issues getx → busy → exec (.getx a) s = .next s.hold) ∧ (s.Issues putx → busy → exec (.putx a) s = .next s.hold)) ∧
  (s.Issues cpyY → m ≠ 0 → misaligned m 64 va = 0 → (s.srcU b).toNat % 4 ≠ 0 →
    exec (.cpyY a b) s = .next (s.takeTrap { code := 0x09, mask := s.active, addr := s.srcU b, cause := 0 })) ∧
  (m ≠ 0 → misaligned m 64 va = 0 → ¬busy → s.clearElig.preLanes m .r va = (u, .ok places) → (∀ i, i < 64 → m.getLsbD i → u.warp.holdsAt (va i).toNat 256 = false) →
    u.peerTrap places laneBit = none →
    (s.Issues cpy → ¬crowded → u.readLanes 256 places = some (v, xs) → exec (.cpy a) s = .next (s.finish cpy (.done t))) ∧
    (s.Issues cpyY → ¬crowded → u.readLanes 256 places = some (v, xs) → (s.srcU b).toNat % 4 = 0 → exec (.cpyY a b) s = .next (s.finish cpyY (
      if t.warp.uid = 0 ∧ t.warp.resident = false then .moved t else if jobs = [] then .done t
      else .waits t (.cpyY (s.srcU b) jobs (xs.any fun e => !copyOk (leBytes 256 e.2)))))) ∧
    (s.Issues getx → u.readLanes 64 places = some (v, xs) → exec (.getx a) s = .next (s.finish getx (.done (v.submitXfers true a xs)))) ∧
    (s.Issues putx → u.readLanes 64 places = some (v, xs) → exec (.putx a) s = .next (s.finish putx (.done (v.submitXfers false a xs))))) ∧
  (∀ y, y.warp.uid = s.warp.uid → s.finish cpy (.done y) = y.fellThrough cpy ∧ s.finish getx (.done y) = y.fellThrough getx ∧ s.finish putx (.done y) = y.fellThrough putx ∧
    ∀ w, s.finish cpyY (.waits y w) = (y.fellThrough cpyY).waitFor w 0) ∧
  (copyOk (leBytes 256 x) = false → s.submitCopies a [(l, x)] = s.fault 0x28 0 (laneBit l) (va l) 0) ∧
  (copyOk (leBytes 256 x) = true → ∃ job, (s.submitCopies a [(l, x)]).copyJobs = s.copyJobs ++ [job] ∧ (s.submitCopies a [(l, x)]).mem = s.mem ∧ job.uid = s.warp.uid ∧
    job.lane = l ∧ job.desc = va l ∧ job.src = BitVec.ofNat 64 (recField (leBytes 256 x) 8 8) ∧ job.dst = BitVec.ofNat 64 (recField (leBytes 256 x) 16 8) ∧
    job.cnt = BitVec.ofNat 64 (recField (leBytes 256 x) 24 8)) ∧
  ∀ get,
    let f := recField (leBytes 64 x)
    let owner := if get then f 2 1 else s.selfId
    let recips := if f 1 1 % 2 = 1 then s.groupMembers (f 3 1) else [f 3 1]
    let out := s.submitXfers get a [(l, x)]
    (xferOk get (leBytes 64 x) = false → out = s.fault 0x29 0 (laneBit l) (va l) 0) ∧
    (xferOk get (leBytes 64 x) = true → s.grouped = true → s.credOf s.asid = 0 → out = s.fault 0x2A 0 (laneBit l) (va l) (BitVec.ofNat 64 s.selfId)) ∧
    (xferOk get (leBytes 64 x) = true → s.grouped = true → s.credOf s.asid ≠ 0 → recips ≠ [] → (get = true → s.peerValid owner = true) →
      (∀ r ∈ recips, s.peerValid r = true) → ∃ r, out.xfers = s.xfers ++ [r] ∧ out.mem = s.mem ∧ out.warp = s.warp ∧ r.foreign = false ∧ r.get = get ∧ r.uid = s.warp.uid ∧
        r.asid = s.asid ∧ r.lane = l ∧ r.desc = va l ∧ r.owner = owner ∧ r.recips = recips ∧ r.cred = s.credOf s.asid ∧ r.expWin = f 4 2 ∧ r.landWin = f 6 2 ∧
        r.src = BitVec.ofNat 64 (f 8 8) ∧ r.dstOff = BitVec.ofNat 64 (f 16 8) ∧ r.len = f 24 4 ∧ r.ack = BitVec.ofNat 64 (f 32 8) ∧
        ((get = false ∨ owner = s.selfId) → out.outbox = s.outbox) ∧ (get = true → owner ≠ s.selfId → ∃ m, out.outbox = s.outbox ++ [m] ∧ m.kind = 0x103))

/-- R213, R214: RWR to a warp that its target word names sends the performing lanes' values, and else posts RWR_TARGET; FETCHW writes 0 and the sequence number to the
mailbox and registers the request. With no performing lane both fall through.
R256, R257: SYSC with no performing lane makes an acquire and falls through; else the blocks of its performing lanes, in ascending order, are read and handed to Tregrim, or refused with
SYSC_FORMAT, and the fragment waits for its replies. It is held first until the accesses before it have completed, with no performing lane too. A block whose CALLID
has a live record joins that call. -/
def Obligations.RemoteWritesFetchesAndCalls : Prop :=
  (∀ (s : State) (d a b : Code),
  let k := decide (0xC0 ≤ d.toNat)
  let rwr : Ins := { op := 0x98, d := .remote d (if s.wide then 2 else 1), a := if k then .opd a 0x0A 1 1 true false else srcF a s.wide, b := .opd b 0x02 1 1 true false }
  let fetchw : Ins := { op := 0x99, d := .resv, a := .opd a 0x0A 1 1 true false, b := .resv }
  let t := s.srcU b
  let core := clusterOf s.warp.core * 4 + field t 0 2
  let target := s.rwrTarget s.warp.uid core (field t 2 6) (field t 16 48) d (s.wide && !k)
  let off := s.src a false 0
  (s.performers = 0 → (s.Issues rwr → exec (.rwr d a b) s = .next (s.clearElig.fellThrough rwr)) ∧
    (s.Issues fetchw → exec (.fetchw a) s = .next (s.clearElig.fellThrough fetchw))) ∧
  (s.Issues rwr → s.performers ≠ 0 → s.slotsFull = false → s.releaseBusy = false → field t 8 8 = 0 → target.isSome = true →
    ∃ n r, exec (.rwr d a b) s = .next n ∧ n.rwrs = s.rwrs ++ [r] ∧ s.SameVL n ∧ s.SameKP n ∧ n.mem = s.mem ∧ n.warps = s.warps ∧
      r.uid = s.warp.uid ∧ r.code = d ∧ r.core = core ∧ r.slot = field t 2 6 ∧ r.lid48 = field t 16 48 ∧ r.wide = (s.wide && !k) ∧ r.mask = s.performers ∧
      (k = true → rd r.vals 0 = s.srcU a) ∧
      (k = false → ∀ l, l < 64 → s.performers.getLsbD l → rd r.vals l = BitVec.ofNat 64 (s.src a s.wide l))) ∧
  (s.Issues fetchw → s.performers ≠ 0 →
    (off % 32 ≠ 0 → exec (.fetchw a) s = .next (s.takeTrap { code := 0x09, mask := s.performers, addr := BitVec.ofNat 64 off, cause := 0 })) ∧
    (off % 32 = 0 → s.sramSize < off + 32 → exec (.fetchw a) s = .next (s.takeTrap { code := 0x0A, mask := s.performers, addr := BitVec.ofNat 64 off, cause := 0 })) ∧
    ∀ g, s.wg = some g → off % 32 = 0 → off + 32 ≤ s.sramSize → s.slotsFull = false → g.fetch.length < 4 → (∀ r ∈ g.fetch, r.mailbox ≠ off) →
      exec (.fetchw a) s = .next (State.fellThrough ((s.clearElig.sramWrite off (leBytes 4 0 ++ leBytes 4 g.seq)).onWg s.warp.launch s.warp.wg fun g =>
        { g with seq := (g.seq + 1) % 2 ^ 32, fetch := g.fetch ++ [{ mailbox := off, seq := g.seq }] }) fetchw))) ∧
  (∀ (s u v : State) (d a b : Code) (places : List (Nat × DWord × Nat)) (xs : List (Nat × Nat)) (l x : Nat),
  let ins : Ins := { op := 0x9E, d := .opd d 0x11 2 2 false true, a := addr64F a false, b := srcF b false }
  let va := s.addr64Plain a
  misaligned s.performers 64 va = 0 →
  (s.Issues ins → s.releaseBusy = true → exec (.sysc d a b) s = .next s.hold) ∧
  (s.releaseBusy = false → s.slotsFull = false →
  (s.Issues ins → s.performers = 0 → exec (.sysc d a b) s = .next ((s.clearElig.acquireAt s.warp.core).fellThrough ins)) ∧
  (s.Issues ins → s.performers ≠ 0 → s.clearElig.preLanes s.performers .r va = (u, .ok places) → (∀ i, i < 64 → s.performers.getLsbD i → u.warp.holdsAt (va i).toNat 64 = false) →
    u.peerTrap places laneBit = none → u.readLanes 64 places = some (v, xs) →
    let t := State.submitCalls (v.newOp (.sysc d) [] []) a b v.nextOp xs
    let none_ := (t.opOf v.nextOp).any fun o => o.lanes.isEmpty
    exec (.sysc d a b) s = .next (s.finish ins (if none_ then .done ((t.endOp v.nextOp).acquireAt t.warp.core) else .waits t (.sysc v.nextOp))) ∧
    (t.warp = s.warp → none_ = false → exec (.sysc d a b) s = .next ((t.fellThrough ins).waitFor (.sysc v.nextOp) 0)))) ∧
  (callOk (leBytes 64 x) = false → s.submitCalls a b 0 [(l, x)] = s.fault 0x2F 0 (laneBit l) (va l) 0) ∧
  ∀ asid token o c, c ∈ s.calls → c.asid = asid → c.callId = BitVec.ofNat 64 (recField (leBytes 64 x) 0 8) →
    (s.submitCall asid (leBytes 64 x) token o l).calls.length = s.calls.length)

/-- R215, R216: RACQ and TACQ past 11 blocks or 8 tiles raise REG_QUOTA and TILE_QUOTA; one that can be met raises the quota at once, and with TRY set writes 1 to the predicate in
every lane of the fragment, or 0 and nothing more where it cannot be met; without TRY it waits then. RREL and TREL lower the quota, and refuse more than the warp
holds; the registers and tiles released are lost. That RACQ and TACQ are held while an engine owns the budgets' bytes is the model's choice (log entry 77). -/
def Obligations.QuotaChanges : Prop := ∀ (s : State) (p : BitVec 3) (n : BitVec 16), s.grp.solo = false →
  let trapped (code : Nat) : Host.Outcome State Fault Refusal := .next (s.takeTrap { code := code, mask := s.active, addr := 0, cause := 0 })
  let racq (t : BitVec 1) : Ins := acquireIns 0x9A t p n 11
  let tacq (t : BitVec 1) : Ins := acquireIns 0x9C t p n 8
  let rrel : Ins := { op := 0x9B, d := .resv, a := .imm, b := .imm, bad := decide (11 < n.toNat) }
  let trel : Ins := { op := 0x9D, d := .resv, a := .imm, b := .imm, bad := decide (8 < n.toNat) }
  let can (tiles : Bool) : Bool := (s.acqWaiting s.warp.core tiles).isEmpty && s.canAcquire s.warp n.toNat tiles
  (∀ t, (s.Issues (racq t) → 11 < s.warp.quota + n.toNat → exec (.racq t p n) s = trapped 0x04) ∧
    (s.Issues (tacq t) → 8 < s.warp.tquota + n.toNat → exec (.tacq t p n) s = trapped 0x05)) ∧
  let owned := (s.launchOf s.warp.launch).any s.budgetOwned
  (∀ t, owned = true → (s.Issues (racq t) → s.warp.quota + n.toNat ≤ 11 → exec (.racq t p n) s = .next s.hold) ∧
    (s.Issues (tacq t) → s.warp.tquota + n.toNat ≤ 8 → exec (.tacq t p n) s = .next s.hold)) ∧
  (s.Issues (racq 0) → s.warp.quota + n.toNat ≤ 11 → owned = false →
    (can false = true → exec (.racq 0 p n) s = .next (State.fellThrough { s with warp := { s.warp with quota := s.warp.quota + n.toNat } } (racq 0))) ∧
    (can false = false → exec (.racq 0 p n) s =
      .next ((State.fellThrough (s.newOp (.acquireRegs n.toNat p.toNat false) [] []) (racq 0)).waitFor (.acquire s.nextOp) 0))) ∧
  (s.Issues (tacq 0) → s.warp.tquota + n.toNat ≤ 8 → owned = false →
    (can true = true → exec (.tacq 0 p n) s = .next (State.fellThrough { s with warp := { s.warp with tquota := s.warp.tquota + n.toNat } } (tacq 0))) ∧
    (can true = false → exec (.tacq 0 p n) s =
      .next ((State.fellThrough (s.newOp (.acquireTiles n.toNat p.toNat false) [] []) (tacq 0)).waitFor (.acquire s.nextOp) 0))) ∧
  (s.Issues (racq 1) → s.warp.quota + n.toNat ≤ 11 → owned = false → ∃ t, exec (.racq 1 p n) s = .next t ∧ s.SameVL t ∧ t.warp.k = s.warp.k ∧ t.mem = s.mem ∧
    t.warp.quota = (if can false then s.warp.quota + n.toNat else s.warp.quota) ∧ s.WritesP t p.toNat s.warp.frag.mask fun _ => can false) ∧
  (s.Issues (tacq 1) → s.warp.tquota + n.toNat ≤ 8 → owned = false → ∃ t, exec (.tacq 1 p n) s = .next t ∧ s.SameVL t ∧ t.warp.k = s.warp.k ∧ t.mem = s.mem ∧
    t.warp.tquota = (if can true then s.warp.tquota + n.toNat else s.warp.tquota) ∧ s.WritesP t p.toNat s.warp.frag.mask fun _ => can true) ∧
  (s.Issues rrel →
    (s.warp.quota < n.toNat → exec (.rrel n) s = trapped 0x04) ∧
    (n.toNat ≤ s.warp.quota → (∀ o ∈ s.ops, o.uid ≠ s.warp.uid) → ∃ t, exec (.rrel n) s = .next t ∧ t.warp.quota = s.warp.quota - n.toNat ∧ s.SameKP t ∧
      t.warp.lat = s.warp.lat ∧ t.mem = s.mem ∧
      ∀ r l, l < 64 → rd t.warp.v (r * 64 + l) = if r < 16 * (s.warp.quota - n.toNat + 1) then rd s.warp.v (r * 64 + l) else 0)) ∧
  (s.Issues trel →
    (s.warp.tquota < n.toNat → exec (.trel n) s = trapped 0x05) ∧
    (n.toNat ≤ s.warp.tquota → s.tilesBusy (s.warp.tquota - n.toNat) = false → ∃ t, exec (.trel n) s = .next t ∧ t.warp.tquota = s.warp.tquota - n.toNat ∧
      s.SameVL t ∧ s.SameKP t ∧ t.mem = s.mem ∧
      ∀ i e, e < 4096 → rd t.warp.tiles (4096 * i + e) = if i < s.warp.tquota - n.toNat then rd s.warp.tiles (4096 * i + e) else 0))
/-! Matrix, graphics and system instructions (R218–R266). -/

/-- R225, R226, R228, R229: an MMA of a partial fragment raises PARTIAL_GROUP, one with a bad format block FORMAT_BLOCK, one past the tiles TILE_QUOTA; one that
passes reads its operands, sets F of the accumulator and completes later. An MMAS does the same with the tile's shadow, which it takes where the tile
has none and tiles can be had, as a copy of the tile as the warp's earlier MMAs leave it, and waits for them else.
R67, R69, R225, R228: when the MMA or MMAS completes that no earlier one of the same tile precedes, every element of its tile, or of the shadow, is `MmaElement` of
the captured operands and, with ACC, of the old element; an FP64 accumulator is a pair of tiles. An INT32 element is the clamped or wrapped exact sum, an FP32 element the
rounded one. No register, byte of memory or other tile changes. The model's choices: the operands are read at issue (log entry 34); KIDX is checked in
each repetition, and an FP64 pair takes the shadow that is missing alone (log entry 67). -/
def Obligations.MmaIssuesAndCompletes : Prop :=
  (∀ (s : State) (c : BitVec 1) (f : BitVec 4) (t : BitVec 3) (a b : Code),
  let x := s.mmaBlock f.toNat
  let n := (formatBlock x).tiles
  let mask := tileMask t.toNat n
  let need := mask &&& ~~~s.warp.ts
  let shadowed : State := { s with warp := s.warp.takeShadows mask (n == 2 && need != 0) }
  let trapped (code : Nat) : Host.Outcome State Fault Refusal := .next (s.takeTrap { code := code, mask := s.active, addr := 0, cause := 0 })
  (s.Issues (mmaIns 0xA0 f.toNat t.toNat a b) →
    (s.active ≠ BitVec.allOnes 64 → exec (.mma c f t a b) s = trapped 0x07) ∧
    (s.active = BitVec.allOnes 64 → (formatBlock x).ok s.grp.repIx t.toNat = false → exec (.mma c f t a b) s = trapped 0x06) ∧
    (s.active = BitVec.allOnes 64 → (formatBlock x).ok s.grp.repIx t.toNat = true → s.warp.tquota < t.toNat + n → exec (.mma c f t a b) s = trapped 0x05) ∧
    (s.mmaTrap (formatBlock x) t.toNat = none → s.mmaHeld mask = false →
      exec (.mma c f t a b) s = .next ((s.acceptMma x t.toNat (c == 1) none a b).fellThrough (mmaIns 0xA0 f.toNat t.toNat a b)))) ∧
  (s.Issues (mmaIns 0xA1 f.toNat t.toNat a b) → s.mmaTrap (formatBlock x) t.toNat = none → s.mmaHeld mask = false →
    (need = 0 ∨ (s.grantedReq = none ∧ (s.acqWaiting s.warp.core true).isEmpty ∧ s.canAcquire s.warp (popByte need) true = true) →
      exec (.mmas c f t a b) s = .next ((shadowed.acceptMma x t.toNat (c == 1) (some need) a b).fellThrough (mmaIns 0xA1 f.toNat t.toNat a b))) ∧
    (need ≠ 0 → s.grantedReq = none → ((s.acqWaiting s.warp.core true).isEmpty && s.canAcquire s.warp (popByte need) true) = false →
      exec (.mmas c f t a b) s = .next ((s.newOp (.shadowReq need) [] []).parkGroup (.shadow s.nextOp) s.active))) ∧
  ∀ acc sh, ∃ o, (s.acceptMma x t.toNat acc sh a b).ops = s.ops ++ [o] ∧ o.kind = .mma x t.toNat acc sh ((formatBlock x).range s.grp.repIx) s.wm ∧
    (s.acceptMma x t.toNat acc sh a b).warp.tf = s.warp.tf ||| mask ∧ (s.acceptMma x t.toNat acc sh a b).mem = s.mem ∧ s.SameVL (s.acceptMma x t.toNat acc sh a b) ∧
    ∀ l r, l < 64 → r < 8 → rd o.data (8 * l + r) = rd s.warp.v ((a.toNat + r) * 64 + l) ∧ rd o.data2 (8 * l + r) = rd s.warp.v ((b.toNat + r) * 64 + l)) ∧
  ((∀ (s : State) (op : Nat) (o : Op) (x : BitVec 128) (t : Nat) (acc : Bool) (shadow : Option Byte) (kx : Nat) (wm : BitVec 24) (w : Warp),
    s.opOf op = some o → o.kind = .mma x t acc shadow kx wm → s.findWarp o.uid = some w →
    (∀ p ∈ s.ownEarlier o, ∀ x' t' acc' sh' kx' wm', p.kind = .mma x' t' acc' sh' kx' wm' → p.flightTiles &&& o.flightTiles = 0) →
    let f := formatBlock x
    let i : MmaIn := { f := f, kx := kx, wm := wm, a := o.data, b := o.data2, sram := o.bytes }
    let old := match shadow with
      | some new => (w.copyShadows new).shadow
      | none => w.tiles
    let val (r c : Nat) : Nat := i.element r c (if acc then some ((rd old (4096 * t + 64 * r + c)).toNat +
      (if f.c = 3 then 2 ^ 32 * (rd old (4096 * (t + 1) + 64 * r + c)).toNat else 0)) else none)
    ∃ u w', exec (.mmaCompletion op) s = .next u ∧ u.mem = s.mem ∧ u.sram = s.sram ∧ u.findWarp o.uid = some w' ∧ w'.v = w.v ∧ w'.k = w.k ∧ w'.p = w.p ∧ w'.lat = w.lat ∧
      (let new := if shadow.isSome then w'.shadow else w'.tiles
       (∀ r c, r < 64 → c < 64 → rd new (4096 * t + 64 * r + c) = BitVec.ofNat 32 (val r c)) ∧
       (f.c = 3 → ∀ r c, r < 64 → c < 64 → rd new (4096 * (t + 1) + 64 * r + c) = BitVec.ofNat 32 (val r c / 2 ^ 32)) ∧
       ∀ n, n / 4096 ≠ t → (f.c = 3 → n / 4096 ≠ t + 1) → rd new n = rd old n) ∧
      (shadow.isSome = true → w'.tiles = w.tiles) ∧
      (shadow = none → w'.shadow = w.shadow ∧ w'.tv = w.tv ||| o.flightTiles ∧ w'.td = w.td ||| o.flightTiles)) ∧
  ∀ (i : MmaIn) (r c : Nat) (old : Option Nat),
    (i.f.c = 0 → i.element r c old = fp32.round (wmMode i.wm) (Fv.sum (wmMode i.wm).rnd ((old.map (fp32.input (wmMode i.wm))).toList ++ i.terms r c))) ∧
    (i.f.c = 1 → i.element r c old = satInt 32 true (wmMode i.wm).sat ((old.map (intValue 32 true)).getD 0 + i.intSum r c)) ∧
    (i.f.c = 3 → i.element r c old = fp64.round (wmMode i.wm) (Fv.sum (wmMode i.wm).rnd ((old.map (fp64.input (wmMode i.wm))).toList ++ i.terms r c))))

/-- R230, R234–R236: TZERO clears the tiles of its mask; TFILL writes each active lane's row or column with its source; TMOV moves registers and tiles; TCVT converts every
element; MCOMMIT makes shadows their tiles and MDISCARD drops them. V and D of every tile written are set, and every other element stands. -/
def Obligations.TileResults : Prop := ∀ (s : State) (m d a b : Code) (t n src : BitVec 3) (c tr : BitVec 1) (g : BitVec 3) (f o : BitVec 2),
  let keeps (u : State) (i : Ins) : Prop := s.SameVL u ∧ s.SameKP u ∧ u.mem = s.mem ∧ u.sram = s.sram ∧ u.warp.frag.pc = (s.fellThrough i).warp.frag.pc
  let wrote (u : State) (m : Byte) : Prop := u.warp.tv = s.warp.tv ||| m ∧ u.warp.td = s.warp.td ||| m
  let tile (u : State) (q e : Nat) : Word := rd u.warp.tiles (4096 * q + e)
  let dir (r : Nat) : Nat := if s.grp.rep.isSome then s.grp.base 2 / 64 else r
  let ill (r : Nat) : Bool := (decide (8 ≤ s.baseByte 0 d) && (dir r == 1 || dir r == 2)) || (decide (8 ≤ s.baseByte 1 a) && (dir r == 0 || dir r == 2))
  (s.Issues (tmaskIns 0xA6 m false) → s.tileBusy m = false → ∃ u, exec (.tzero m) s = .next u ∧ keeps u (tmaskIns 0xA6 m false) ∧ wrote u m ∧
    ∀ q e, q < 8 → e < 4096 → tile u q e = if m.getLsbD q then 0 else tile s q e) ∧
  (s.Issues (tmaskIns 0xA2 m (s.warp.splitsPair m)) → s.tileBusy m = false → ∃ u, exec (.mcommit m) s = .next u ∧
    keeps u (tmaskIns 0xA2 m (s.warp.splitsPair m)) ∧ wrote u (m &&& s.warp.ts) ∧ u.warp.ts = s.warp.ts &&& ~~~m ∧
    ∀ q e, q < 8 → e < 4096 → tile u q e = if (m &&& s.warp.ts).getLsbD q then rd s.warp.shadow (4096 * q + e) else tile s q e) ∧
  (s.Issues (tmaskIns 0xA3 m (s.warp.splitsPair m)) → s.tileBusy m = false → ∃ u, exec (.mdiscard m) s = .next u ∧
    keeps u (tmaskIns 0xA3 m (s.warp.splitsPair m)) ∧ u.warp.ts = s.warp.ts &&& ~~~m ∧ u.warp.tiles = s.warp.tiles ∧ u.warp.tv = s.warp.tv ∧ u.warp.td = s.warp.td) ∧
  (let k := if s.wide then 2 else 1
   let fill : Ins := { op := 0xA9, d := .tile t.toNat k, a := srcF a s.wide, b := .imm, bad := s.wide && t.toNat % 2 == 1 }
   s.Issues fill → s.tileBusy (tileMask t.toNat k) = false → ∃ u, exec (.tfill t a c) s = .next u ∧ keeps u fill ∧ wrote u (tileMask t.toNat k) ∧
    ∀ q i j, q < 8 → i < 64 → j < 64 → let l := if c = 1 then j else i
      tile u q (64 * i + j) = if t.toNat ≤ q ∧ q < t.toNat + k ∧ s.active.getLsbD l then BitVec.ofNat 32 (s.src a s.wide l / 2 ^ (32 * (q - t.toNat))) else tile s q (64 * i + j)) ∧
  (let out : Ins := { op := 0xA8, d := vecF d 8 8 false true, a := .tile (a.toNat % 8) 1, b := .low3, ill := ill 0 }
   s.Issues out → s.tileBusy (tileMask (a.toNat % 8) 1) = false → ∃ u, exec (.tmov d a 0 tr g) s = .next u ∧ s.GroupDone u out ∧ s.SameKP u ∧ u.warp.lat = s.warp.lat ∧
    ∀ q l, l < 64 → rd u.warp.v (q * 64 + l) = if s.active.getLsbD l ∧ d.toNat ≤ q ∧ q < d.toNat + 8
      then rd s.warp.tiles (tmovIx (a.toNat % 8) (tr == 1) g.toNat l (q - d.toNat)) else rd s.warp.v (q * 64 + l)) ∧
  (let inn : Ins := { op := 0xA8, d := .tile (d.toNat % 8) 1, a := vecF a 8 8 true false, b := .low3, ill := ill 1 }
   s.Issues inn → s.tileBusy (tileMask (d.toNat % 8) 1) = false → ∃ u, exec (.tmov d a 1 tr g) s = .next u ∧ keeps u inn ∧ wrote u (tileMask (d.toNat % 8) 1) ∧
    (∀ l r, l < 64 → r < 8 → rd u.warp.tiles (tmovIx (d.toNat % 8) (tr == 1) g.toNat l r) =
      if s.active.getLsbD l then rd s.warp.v ((a.toNat + r) * 64 + l) else rd s.warp.tiles (tmovIx (d.toNat % 8) (tr == 1) g.toNat l r)) ∧
    ∀ e, (∀ l r, l < 64 → r < 8 → e ≠ tmovIx (d.toNat % 8) (tr == 1) g.toNat l r) → rd u.warp.tiles e = rd s.warp.tiles e) ∧
  (let mov : Ins := { op := 0xA8, d := .tile (d.toNat % 8) 1, a := .tile (a.toNat % 8) 1, b := .low3, ill := ill 2, bad := tr == 1 || g != 0 }
   s.Issues mov → s.tileBusy (tileMask (d.toNat % 8) 1 ||| tileMask (a.toNat % 8) 1) = false → ∃ u, exec (.tmov d a 2 tr g) s = .next u ∧ keeps u mov ∧
    wrote u (tileMask (d.toNat % 8) 1) ∧ ∀ q e, q < 8 → e < 4096 → tile u q e = if q = d.toNat % 8 then tile s (a.toNat % 8) e else tile s q e) ∧
  (let k (x : BitVec 2) : Nat := if x = 3 then 2 else 1
   let fp (x : BitVec 2) : Bool := x == 0 || x == 3
   let cvt : Ins := { op := 0xA7, d := .tile n.toNat (k o), a := .tile src.toNat (k f), b := .opd b 0x1E 1 1 true false, bad := (fp f && o == 2) || (f == 3 && src.toNat % 2 == 1) || (o == 3 && n.toNat % 2 == 1) || (!fp o && b != 0xF5) || (s.grp.rep.isSome && s.grp.step 2 != 0) }
   let dm := tileMask n.toNat (k o)
   let sc : Fv := if b = 0xF5 then .fin false 1 0 else fp32.input s.md (s.src b false 0)
   s.Issues cvt → s.tileBusy (dm ||| tileMask src.toNat (k f)) = false → ∃ u, exec (.tcvt f o n src b) s = .next u ∧ keeps u cvt ∧ wrote u dm ∧ u.warp.tf = s.warp.tf ||| dm ∧
    ∀ q i j, q < 8 → i < 64 → j < 64 → tile u q (64 * i + j) =
      if n.toNat ≤ q ∧ q < n.toNat + k o then BitVec.ofNat 32 (tcvtElem s.md f.toNat o.toNat sc (s.warp.elemBits src.toNat i j (f == 3)) / 2 ^ (32 * (q - n.toNat)))
      else tile s q (64 * i + j))

/-- R231–R233: TLD and TLD.S open an operation for the active lanes' rows and set F; TST and TST.S one for the performing lanes' rows, whose elements they capture, and
TST.S writes them to SRAM at once. With no lane a load sets V and D and a store changes nothing.
R231–R233, R436: a tile load completes once its rows are served: each row or column holds the elements read, V is set, and D cleared where all 64 lanes were active and set else; a store
of the whole tile that nothing has written since clears D; the tile port's end clears F. The model's choices (log entry 33): V and D set where a load has no lane, D set by
a partial load, and D cleared by a store only where nothing was written since. -/
def Obligations.TileMoves : Prop :=
  (∀ (s u : State) (c : BitVec 1) (t : BitVec 3) (a b : Code) (lanes : List LaneReq),
  let col := c == 1
  let mask := tileMask t.toNat 1
  let va := s.memAddr a b
  let off := s.sramOffset a
  let sva (l : Nat) : DWord := BitVec.ofNat 64 (off l)
  let empty (x : State) : Prop := x.warp.tv = setBit s.warp.tv t.toNat true ∧ x.warp.td = setBit s.warp.td t.toNat true ∧ x.warp.tiles = s.warp.tiles ∧ x.mem = s.mem ∧ s.SameVL x ∧ s.SameKP x
  s.tileBusy mask = false → s.slotsFull = false →
  (s.Issues (tileIns 0xA4 t.toNat a b) → misaligned s.active 16 va = 0 →
    (s.active = 0 → ∃ x, exec (.tld c t a b) s = .next x ∧ empty x) ∧
    (s.active ≠ 0 → s.acquiring = false → s.openRows s.active (.tileLoad t.toNat col false) va = (u, lanes, []) → u.warp = s.warp → u.laneHeld (.tileLoad t.toNat col false) lanes = false →
      lanes ≠ [] → (∀ l ∈ lanes, l.stage.parked = false) →
      ∃ x o, exec (.tld c t a b) s = .next x ∧ x.ops = u.ops ++ [o] ∧ o.kind = .tileLoad t.toNat col false ∧ o.lanes = lanes ∧ x.mem = u.mem ∧
        x.warp.tf = s.warp.tf ||| mask ∧ x.warp.tiles = s.warp.tiles ∧ s.SameVL x ∧ s.SameKP x)) ∧
  (s.Issues (tileIns 0xA5 t.toNat a b) → misaligned s.doers 16 va = 0 →
    (s.doers = 0 → exec (.tst c t a b) s = .next (s.fellThrough (tileIns 0xA5 t.toNat a b))) ∧
    ((lanesOf s.doers).any (fun l => (rowParts l (va l)).any fun p => s.storeMeetsLoad (laneBit l) (if p.2.2 = 0 then 256 else p.2.2) (fun _ => p.2.1)) = false →
      s.openRows s.doers (.tileStore t.toNat col false) va = (u, lanes, []) → u.warp = s.warp → u.laneHeld (.tileStore t.toNat col false) lanes = false →
      lanes ≠ [] → (∀ l ∈ lanes, l.stage.parked = false) →
      ∃ x o, exec (.tst c t a b) s = .next x ∧ x.ops = u.ops ++ [o] ∧ o.kind = .tileStore t.toNat col false ∧ o.lanes = lanes ∧ (u.comm = [] → x.mem = u.mem) ∧ x.warp.tiles = s.warp.tiles ∧
        s.SameVL x ∧ s.SameKP x ∧ ∀ l j, l < 64 → j < 64 → s.doers.getLsbD l → rd o.data (64 * l + j) = if col then s.warp.elem t.toNat j l else s.warp.elem t.toNat l j)) ∧
  (s.Issues (sramTileIns 0xAA t.toNat a) → misaligned s.active 16 sva = 0 → s.sramOut s.active 256 off = 0 →
    (s.active = 0 → ∃ x, exec (.tldS c t a) s = .next x ∧ empty x) ∧
    (s.active ≠ 0 → ∃ x o, exec (.tldS c t a) s = .next x ∧ x.ops = s.ops ++ [o] ∧ o.kind = .tileLoad t.toNat col true ∧ x.mem = s.mem ∧ x.sram = s.sram ∧
      x.warp.tf = s.warp.tf ||| mask ∧ x.warp.tiles = s.warp.tiles ∧ s.SameVL x ∧ s.SameKP x ∧ (∀ l, l < 64 → s.active.getLsbD l → ∃ q ∈ o.lanes, q.lane = l ∧ q.stage = .served) ∧
      ∀ l j, l < 64 → j < 64 → s.active.getLsbD l → rd o.data (64 * l + j) = BitVec.ofNat 32 (s.sramRead (off l + 4 * j) 4))) ∧
  (s.Issues (sramTileIns 0xAB t.toNat a) → misaligned s.doers 16 sva = 0 → s.sramOut s.doers 256 off = 0 →
    (s.doers = 0 → exec (.tstS c t a) s = .next (s.fellThrough (sramTileIns 0xAB t.toNat a))) ∧
    (s.doers ≠ 0 → ∃ x o, exec (.tstS c t a) s = .next x ∧ x.ops = s.ops ++ [o] ∧ o.kind = .tileStore t.toNat col true ∧ x.mem = s.mem ∧ x.warp.tiles = s.warp.tiles ∧ s.SameVL x ∧ s.SameKP x ∧
      (∀ i, (∀ l, l < 64 → s.doers.getLsbD l → ¬(s.sramBase + off l ≤ i ∧ i < s.sramBase + off l + 256)) → rd x.sram i = rd s.sram i) ∧
      ∀ l j, l < 64 → j < 64 → s.doers = laneBit l → x.sramRead (off l + 4 * j) 4 = (if col then s.warp.elem t.toNat j l else s.warp.elem t.toNat l j).toNat))) ∧
  (∀ (s : State) (op : Nat) (o : Op) (w : Warp), s.opOf op = some o → s.findWarp o.uid = some w →
  let served (l : Nat) : Prop := ∃ q ∈ o.lanes, q.lane = l ∧ q.stage = .served
  ((∀ q ∈ o.lanes, q.stage = .served ∨ q.stage = .done) →
    (∀ t col sr, o.kind = .tileLoad t col sr → ∃ u w', exec (.tileMoveCompletion op) s = .next u ∧ u.mem = s.mem ∧ u.sram = s.sram ∧ u.findWarp o.uid = some w' ∧ w'.v = w.v ∧
      w'.tv = setBit w.tv t true ∧ w'.td = setBit w.td t o.data2.isEmpty ∧ (∀ n, n / 4096 ≠ t → rd w'.tiles n = rd w.tiles n) ∧
      ∀ l j, l < 64 → j < 64 → let e := 4096 * t + (if col then 64 * j + l else 64 * l + j)
        (served l → rd w'.tiles e = rd o.data (64 * l + j)) ∧ (¬served l → rd w'.tiles e = rd w.tiles e)) ∧
    (∀ t col sr, o.kind = .tileStore t col sr → ∃ u w', exec (.tileMoveCompletion op) s = .next u ∧ u.mem = s.mem ∧ u.findWarp o.uid = some w' ∧ w'.tiles = w.tiles ∧ w'.v = w.v ∧
      w'.td = if o.data2.isEmpty ∨ ¬o.bytes.isEmpty then w.td else setBit w.td t false)) ∧
  ∀ m f, o.kind = .port m f → exec (.tilePortCompletion op) s = .next ((s.clearFlight o).endOp op))

/-- R240–R249: TEX, TEXN and TEXQ whose active lanes name one aligned descriptor open an operation with a request of each; TRACE starts the performing lanes' rays with the
words of their registers, and TRRES copies a slot's hit records. With no active lane they change nothing. Lanes that name different descriptors raise NONUNIFORM.
R241–R245: a texture operation reads its descriptor once, and then gives each lane its filtered texel, its decoded material or the image's size; a malformed descriptor posts TEX_FORMAT for all its lanes. R246, R247: a ray whose record is a
miss at once, or whose traversal ends, holds its hit record; a malformed trace descriptor ends every ray of the TRACE. -/
def Obligations.TexturesAndRays : Prop :=
  (∀ (s : State) (d a b : Code) (q : BitVec 2) (desc : DWord),
  let tex : Ins := { op := 0xC0, d := vecF d 4 4 false true, a := vecF a 4 4 true false, b := handleF b }
  let texn : Ins := { op := 0xC1, d := vecF d 8 8 false true, a := vecF a 4 4 true false, b := handleF b }
  let texq : Ins := { op := 0xC2, d := vecF d 4 4 false true, a := .opd a 0x3B 1 1 true false, b := handleF b }
  let trace : Ins := { op := 0xC3, d := .imm, a := vecF a 8 8 true false, b := handleF b }
  let trres : Ins := { op := 0xC4, d := vecF d 8 8 false true, a := .imm, b := .resv }
  let lanes : List LaneReq := (lanesOf s.active).map fun l => { lane := l, va := desc, pa := 0, stage := .request, val := 0, aux := 0 }
  let named : Prop := ∀ l, l < 64 → s.active.getLsbD l → BitVec.ofNat 64 (s.src b true l) = desc
  (s.active = 0 → (s.Issues tex → exec (.tex d a b) s = .next (s.fellThrough tex)) ∧ (s.Issues texn → exec (.texn d a b) s = .next (s.fellThrough texn)) ∧
    (s.Issues texq → exec (.texq d a b) s = .next (s.fellThrough texq)) ∧ (s.Issues trace → exec (.trace q a b) s = .next (s.fellThrough trace)) ∧
    (s.Issues trres → exec (.trres d q) s = .next (s.fellThrough trres))) ∧
  (s.active ≠ 0 → named → desc.toNat % 64 = 0 → s.slotsFull = true →
    (s.Issues tex → exec (.tex d a b) s = .next s.hold) ∧ (s.Issues texn → exec (.texn d a b) s = .next s.hold) ∧ (s.Issues texq → exec (.texq d a b) s = .next s.hold)) ∧
  (s.Issues tex → s.active ≠ 0 → named → desc.toNat % 64 = 0 → s.slotsFull = false →
    exec (.tex d a b) s = .next ((s.newOp (.tex 0 d desc) lanes (s.warp.capture s.active a 4)).fellThrough tex)) ∧
  (s.Issues texn → s.active ≠ 0 → named → desc.toNat % 64 = 0 → s.slotsFull = false →
    exec (.texn d a b) s = .next ((s.newOp (.tex 1 d desc) lanes (s.warp.capture s.active a 4)).fellThrough texn)) ∧
  (s.Issues texq → s.active ≠ 0 → named → desc.toNat % 64 = 0 → s.slotsFull = false →
    ∃ data, exec (.texq d a b) s = .next ((s.newOp (.tex 2 d desc) lanes data).fellThrough texq) ∧
      ∀ l, l < 64 → s.active.getLsbD l → rd data (4 * l) = BitVec.ofNat 32 (s.src a false l)) ∧
  (s.Issues tex → ∀ l, lowest s.active = some l → let bad := maskOf fun j => s.active.getLsbD j && BitVec.ofNat 64 (s.src b true j) != BitVec.ofNat 64 (s.src b true l)
    bad ≠ 0 → exec (.tex d a b) s = .next (s.takeTrap { code := 0x08, mask := bad, addr := 0, cause := 0 })) ∧
  (s.Issues trace → s.active ≠ 0 → named → desc.toNat % 32 = 0 → (s.performers = 0 ∨ s.slotsFull = false) → (∀ l, l < 64 → s.warp.tracing q.toNat l = false) →
    ∃ u, exec (.trace q a b) s = .next u ∧ u.mem = s.mem ∧ s.SameVL u ∧ s.SameKP u ∧
      (s.performers = 0 → u.ops = s.ops) ∧
      (∀ l, l < 64 → s.performers.getLsbD l → ∃ r, SMap.find (64 * q.toNat + l) u.warp.rays = some r ∧ r.running = true ∧ r.op = s.nextOp ∧
        r.words = (List.range 8).map fun i => rd s.warp.v ((a.toNat + i) * 64 + l)) ∧
      (s.performers ≠ 0 → ∃ o, u.ops = s.ops ++ [o] ∧ o.kind = .trace q.toNat ∧ o.id = s.nextOp)) ∧
  (s.Issues trres → (∀ l, l < 64 → s.active.getLsbD l → s.warp.tracing q.toNat l = false) →
    ∃ u, exec (.trres d q) s = .next u ∧ s.GroupDone u trres ∧ s.SameKP u ∧ u.warp.lat = s.warp.lat ∧
      ∀ r l, l < 64 → rd u.warp.v (r * 64 + l) = if s.active.getLsbD l ∧ d.toNat ≤ r ∧ r < d.toNat + 8
        then (((SMap.find (64 * q.toNat + l) s.warp.rays).map (·.hit)).getD (missRecord 0)).getD (r - d.toNat) 0 else rd s.warp.v (r * 64 + l))) ∧
  (∀ (s u : State) (op lane : Nat) (o : Op) (l : LaneReq) (d : Code) (desc : DWord) (bs : List Byte) (i : Image) (mt : Material) (ts : List Tap) (xs : List Nat) (mode : Nat),
  let c (k x : Nat) : Nat := (rd o.data (4 * x + k)).toNat
  let due := o.lanes.filter fun l => l.stage == .request
  (s.opOf op = some o → o.kind = .tex mode d desc →
    (o.descBytes 64 = none → s.pathRead o desc 64 = (u, .ok bs) → exec (.textureResult op) s = .next (u.keepDesc o bs)) ∧
    (o.descBytes 64 = some bs → imageOf bs = none → materialOf bs = none → exec (.textureResult op) s = .next (s.texFails o 0x2D 0 desc 0)) ∧
    (mode = 0 → o.descBytes 64 = some bs → imageOf bs = some i → exec (.textureResult op) s = .next (due.foldl (fun s l => s.sampleLane o d i l) s)) ∧
    (mode = 1 → o.descBytes 64 = some bs → materialOf bs = some mt → exec (.textureResult op) s = .next (due.foldl (fun s l => s.decodeLane o d mt l) s)) ∧
    (mode = 2 → o.descBytes 64 = some bs → imageOf bs = some i → exec (.textureResult op) s = .next (due.foldl (fun s l => s.queryLane o d i l) s))) ∧
  (let sizes := if i.dim = 0 then [i.w] else if i.dim = 2 then [i.w, i.h, i.d] else [i.w, i.h]
   let lam := clampLod (f32Value (i.lambda (rhoSquared (fun x => (o.lane x).isSome) (fun k x => c k x) sizes l.lane) (c 3 l.lane))) (i.levels - 1)
   i.sampleTaps (fun k => c k l.lane) lam = some ts →
   let live := ts.filter fun t => t.2 != 0
   s.pathReads o (live.filterMap fun t => t.1.map fun a => (a, texelBytes i.fmt)) = (u, .ok xs) → s.sampleLane o d i l = u.texLane o d l.lane (i.sampled live xs)) ∧
  (mt.gridTaps (c 0 l.lane) (c 1 l.lane) (c 2 l.lane) = some ts →
   let lat := mt.latentReads ts
   s.pathReads o (lat ++ weightReads mt.layers mt.weights) = (u, .ok xs) →
   s.decodeLane o d mt l = u.texLane o d l.lane (mt.outputs ts (xs.take lat.length) (xs.drop lat.length))) ∧
  (let n := c 0 l.lane
   let z := i.size n
   s.queryLane o d i l = s.texLane o d l.lane (if n < i.levels then [z.1, z.2.1, z.2.2, i.levels] else [0, 0, 0, i.levels])) ∧
  ∀ w, s.findWarp o.uid = some w → lane < 64 → ∃ w', (s.texLane o d lane xs).findWarp o.uid = some w' ∧ w'.k = w.k ∧ w'.p = w.p ∧ (s.texLane o d lane xs).mem = s.mem ∧
    ∀ n x, x < 64 → rd w'.v (n * 64 + x) = if x = lane ∧ d.toNat ≤ n ∧ n < d.toNat + xs.length then BitVec.ofNat 32 (xs.getD (n - d.toNat) 0) else rd w.v (n * 64 + x)) ∧
  ∀ (s u : State) (uid slot lane : Nat) (o : Op) (w : Warp) (bs : List Byte) (r : Ray) (hit : List Word),
  let ended (t : State) (hit : List Word) : State := (t.setRay uid (64 * slot + lane) { r with running := false, parked := none, hit := hit }).settleTraces
  let at_ : DWord := (rd o.data 1).setWidth 64 <<< 32 ||| (rd o.data 0).setWidth 64
  (s.findWarp uid = some w → SMap.find (64 * slot + lane) w.rays = some r → r.running = true → r.parked = none → s.opOf r.op = some o → o.uid = uid →
    (o.descBytes 32 = none → s.pathRead o at_ 32 = (u, .ok bs) → exec (.rayTraversalEnd uid slot lane) s = .next (if traceOk bs then u.keepDesc o bs else u.traceFails o 0x2E 0 at_ 0)) ∧
    (o.descBytes 32 = some bs →
      (rayMisses r.words = true → exec (.rayTraversalEnd uid slot lane) s = .next (ended s (missRecord 0))) ∧
      (rayMisses r.words = false →
        let e (k : Nat) : Nat := (r.words.getD k 0).toNat
        let start : Space := { o := (e 0, e 1, e 2), d := (e 4, e 5, e 6), inst := none }
        let x : TraceIn := { root := BitVec.ofNat 64 (recField bs 0 8), flags := BitVec.ofNat 3 (recField bs 8 1), imask := BitVec.ofNat 8 (recField bs 9 1), tmin := e 3, start := start }
        s.traverse o x walkFuel { cur := some (x.root, start), stack := [], trail := [], redo := [], dropped := false, restarts := 0, limit := e 7, best := none, stopped := false } = (u, .done hit) →
        exec (.rayTraversalEnd uid slot lane) s = .next (ended u hit)))) ∧
  (s.findWarp uid = some w → ∃ w', (ended s hit).findWarp uid = some w' ∧ w.SameRegs w' ∧ (ended s hit).mem = s.mem ∧
    SMap.find (64 * slot + lane) w'.rays = some { r with running := false, parked := none, hit := hit })

/-- R240, R250–R253: in a geometry warp PRIM submits the performing lanes' primitives and ATTR with WR writes attribute slots; in a fragment warp ATTR reads them, EXPF records exports
and KILL makes its lanes helpers without exports. In a warp of another kind each raises WARP_KIND. A PRIM whose performing lanes hold a malformed word raises
ILLEGAL_OPERAND for those lanes, and submits nothing. -/
def Obligations.GraphicsInstructions : Prop := ∀ (s : State) (a d : Code) (n : BitVec 5) (i : BitVec 2) (t : BitVec 4) (e : BitVec 1),
  let prim : Ins := { op := 0xC5, d := .resv, a := srcF a false, b := .resv }
  let attr (w : BitVec 1) (i : BitVec 2) : Ins := { op := 0xC6, d := vecF d 4 4 (w == 1) (w == 0), a := .imm, b := .resv, bad := w == 1 && i != 0 }
  let expf : Ins := { op := 0xC7, d := .imm, a := vecF a 4 4 true false, b := .imm, bad := decide (9 ≤ t.toNat) }
  let kill : Ins := { op := 0xC8, d := .resv, a := .resv, b := .resv }
  let trapped : Host.Outcome State Fault Refusal := .next (s.takeTrap { code := 0x10, mask := s.active, addr := 0, cause := 0 })
  let live := s.performers &&& ~~~s.warp.doneMask
  (s.warp.kind ≠ .geometry → (s.Issues prim → exec (.prim a) s = trapped) ∧ (s.Issues (attr 1 0) → exec (.attr d 1 0 n) s = trapped)) ∧
  (s.warp.kind ≠ .fragment → (s.Issues (attr 0 i) → exec (.attr d 0 i n) s = trapped) ∧ (s.Issues expf → exec (.expf t a e) s = trapped) ∧ (s.Issues kill → exec .kill s = trapped)) ∧
  (s.warp.kind = .geometry →
    (s.Issues prim → (∀ l, l < 64 → s.performers.getLsbD l → primOk (BitVec.ofNat 32 (s.src a false l))) → exec (.prim a) s = .next (State.fellThrough { s with warp :=
      { s.warp with prims := s.warp.prims ++ (lanesOf s.performers).map fun l => s.warp.primitive (BitVec.ofNat 32 (s.src a false l)) } } prim)) ∧
    (s.Issues prim → let bad := maskOf fun l => s.performers.getLsbD l && !primOk (BitVec.ofNat 32 (s.src a false l))
      bad ≠ 0 → exec (.prim a) s = .next (s.takeTrap { code := 0x02, mask := bad, addr := 0, cause := 0 })) ∧
    (s.Issues (attr 1 0) → ∃ u, exec (.attr d 1 0 n) s = .next u ∧ s.SameVL u ∧ s.SameKP u ∧ u.mem = s.mem ∧ u.warp.prims = s.warp.prims ∧
      ∀ l j x, l < 64 → j < 32 → x < 4 → rd u.warp.vattr (128 * l + 4 * j + x) =
        if s.active.getLsbD l ∧ j = n.toNat then rd s.warp.v ((d.toNat + x) * 64 + l) else rd s.warp.vattr (128 * l + 4 * j + x))) ∧
  (s.warp.kind = .fragment →
    (s.Issues (attr 0 i) → ∃ u, exec (.attr d 0 i n) s = .next u ∧ s.GroupDone u (attr 0 i) ∧ s.SameKP u ∧ u.warp.lat = s.warp.lat ∧
      ∀ r l, l < 64 → rd u.warp.v (r * 64 + l) = if s.active.getLsbD l ∧ d.toNat ≤ r ∧ r < d.toNat + (s.readAttr n.toNat i.toNat l).length
        then BitVec.ofNat 32 ((s.readAttr n.toNat i.toNat l).getD (r - d.toNat) 0) else rd s.warp.v (r * 64 + l)) ∧
    (s.Issues expf → ∃ u, exec (.expf t a e) s = .next u ∧ s.SameVL u ∧ s.SameKP u ∧ u.mem = s.mem ∧ u.warp.helper = s.warp.helper ∧
      u.warp.doneMask = (if e = 1 then s.warp.doneMask ||| live else s.warp.doneMask) ∧
      ∀ x, x ∈ u.warp.exports ↔ (x ∈ s.warp.exports ∧ ¬(live.getLsbD x.lane ∧ x.tgt = t.toNat)) ∨
        (x.lane < 64 ∧ live.getLsbD x.lane ∧ x.tgt = t.toNat ∧ x.vals = (List.range 4).map fun j => rd s.warp.v ((a.toNat + j) * 64 + x.lane))) ∧
    (s.Issues kill → ∃ u, exec .kill s = .next u ∧ s.SameVL u ∧ s.SameKP u ∧ u.mem = s.mem ∧ u.warp.helper = s.warp.helper ||| live ∧ u.warp.killed = s.warp.killed ||| live ∧
      ∀ x, x ∈ u.warp.exports ↔ x ∈ s.warp.exports ∧ ¬live.getLsbD x.lane))
/-- R259, R262: in a handler CSRR reads a solo control register and CSRW writes one; VGET and VSET read and write one lane of a frozen register or predicate. An unlisted number, a
write of a register that is not RW, and a lane the fragment does not have raise ILLEGAL_OPERAND; a write of a capability register is ignored (R4 over R259, log entry 67).
R261, R264: RETT ends solo mode. With RESUME 0 the fragment goes on, ready, at the resume address with the saved WMODE and repetition; with 1 the trap's lanes exit first, and with 2 the trap is
delivered unhandled; PARK leaves the fragment waiting. The group in front is that of the handler's own fragment. Held fragments become ready. The model's choices (log entry 20): RETT and PARK are held while a KLD into an h register is on its way, and RESUME 2 posts STRAPPC. -/
def Obligations.HandlerRegistersAndReturns : Prop :=
  (∀ (s : State) (h : Solo) (d a b : Code) (c : BitVec 16), s.grp.solo = true → s.warp.solo = some h → s.inPrologue = false →
  let csrr : Ins := { op := 0xD0, d := hkDst d, a := .imm, b := .imm }
  let csrw : Ins := { op := 0xD1, d := hkSrc d, a := .imm, b := .imm }
  let vget : Ins := { op := 0xD4, d := hkDst d, a := .imm, b := hkLit b, bad := !frozenCode a }
  let vset : Ins := { op := 0xD5, d := .imm, a := hkLit a, b := hkLit b, bad := !frozenCode d }
  let bad : Host.Outcome State Fault Refusal := .next (s.takeTrap { code := 0x02, mask := s.active, addr := 0, cause := 0 })
  let lane := (s.srcU b).toNat
  let frozen (c : Code) : Prop := s.frozenBusy c = false ∧ lane < 64 ∧ h.fragMask.getLsbD lane ∧ (c.toNat ≤ 0xBF → c.toNat < 16 * (s.warp.quota + 1))
  let x := s.srcU a
  (s.Issues csrr → (∀ v, s.csr h c.toNat = some v → s.WritesHandler (.csrr d c) h d v) ∧ (s.csr h c.toNat = none → exec (.csrr d c) s = bad)) ∧
  (s.csr h 0 = some h.trapPc ∧ s.csr h 1 = some (h.trapCode.setWidth 64) ∧ s.csr h 2 = some h.trapMask ∧ s.csr h 3 = some h.sfaddr ∧ s.csr h 7 = some h.sstatus ∧
    s.csr h 8 = some h.fragMask ∧ s.csr h 0x100 = some s.devcap ∧ s.csr h 0x101 = some s.unitcap ∧ s.csr h 0x102 = some s.sizecap) ∧
  (s.Issues csrw → (h.csrWrite c.toNat (s.srcU d) = none → exec (.csrw d c) s = bad) ∧
    ∀ g, h.csrWrite c.toNat (s.srcU d) = some g → exec (.csrw d c) s = .next (State.fellThrough { s with warp := { s.warp with solo := some g } } csrw)) ∧
  (∀ v, h.csrWrite 0 v = some { h with trapPc := v, sstatus := h.sstatus ||| 0x10 } ∧ h.csrWrite 1 v = none ∧ h.csrWrite 2 v = none ∧ h.csrWrite 8 v = none ∧
    h.csrWrite 0x100 v = some h ∧ h.csrWrite 0x101 v = some h ∧ h.csrWrite 0x102 v = some h) ∧
  (s.Issues vget → (64 ≤ lane ∨ h.fragMask.getLsbD lane = false → exec (.vget d a b) s = bad) ∧
    (frozen a → s.WritesHandler (.vget d a b) h d (if a.toNat ≤ 0xBF then (rd s.warp.v (a.toNat * 64 + lane)).setWidth 64
      else if (s.warp.pred (a.toNat - 0xF8)).getLsbD lane then 1 else 0))) ∧
  (s.Issues vset → (64 ≤ lane ∨ h.fragMask.getLsbD lane = false → exec (.vset d a b) s = bad) ∧
    (frozen d → ∃ t, exec (.vset d a b) s = .next t ∧ t.mem = s.mem ∧ t.warp.k = s.warp.k ∧ t.warp.lat = s.warp.lat ∧ t.warp.frag = s.warp.frag ∧
      (∀ r l, l < 64 → rd t.warp.v (r * 64 + l) = if r = d.toNat ∧ l = lane ∧ r ≤ 0xBF then BitVec.ofNat 32 x.toNat else rd s.warp.v (r * 64 + l)) ∧
      ∀ n l, l < 64 → n < 8 → (t.warp.pred n).getLsbD l = if 0xF8 ≤ d.toNat ∧ n = d.toNat - 0xF8 ∧ n ≠ 7 ∧ l = lane then x.getLsbD 0 else (s.warp.pred n).getLsbD l))) ∧
  (∀ (s : State) (h : Solo), s.grp.solo = true → s.warp.solo = some h → s.inPrologue = false → h.entry = s.warp.fragIx → s.warp.debug = false →
  let rett : Ins := { op := 0xD2, d := .resv, a := .resv, b := .resv }
  let park : Ins := { op := 0xD6, d := .resv, a := .resv, b := .resv }
  let resume := if h.sstatus.getLsbD 4 ∨ ¬h.slrpc.getLsbD 0 then h.trapPc else h.slrpc &&& ~~~1#64
  let back (st : FragState) (w : Wait) (f : Frag) : Prop := f.pc = resume ∧ f.wmode = h.swmode ∧ f.repcnt = h.repcnt.toNat ∧ f.lrpc = none ∧ f.mask = s.warp.frag.mask ∧ f.state = st ∧ f.wait = w
  (s.Issues rett → s.handLoads = true → exec .rett s = .next s.hold) ∧
  (s.Issues rett → s.handLoads = false → field h.sstatus 0 2 ≠ 1 → field h.sstatus 0 2 ≠ 2 → ∃ t, exec .rett s = .next t ∧ t.warp.solo = none ∧ back .ready .none t.warp.frag ∧
    s.SameVL t ∧ s.SameKP t ∧ t.mem = s.mem ∧ ∀ e ∈ t.warp.frags, e.1 ≠ s.warp.fragIx → ¬(e.2.wait = .held ∧ e.2.state = .waiting)) ∧
  (s.Issues rett → s.handLoads = false → field h.sstatus 0 2 = 1 → exec .rett s = .next (s.finish rett (.moved ((s.leaveSolo h h.resumePc fun w => w.wakeFrag h.entry).exitLanes s.warp.uid h.trapMask)))) ∧
  (s.Issues rett → s.handLoads = false → field h.sstatus 0 2 = 2 → ∃ r, r.code = h.trapCode.toNat ∧ r.kind = 0 ∧ r.lanes = h.trapMask ∧ r.addr = h.sfaddr ∧ r.pc = h.trapPc ∧
    exec .rett s = .next (s.finish rett (.moved ((s.leaveSolo h h.trapPc id).deliver h.entry r)))) ∧
  (s.Issues park → s.handLoads = false → ∃ t, exec .park s = .next t ∧ t.warp.solo = none ∧ back .waiting .parked t.warp.frag ∧ s.SameVL t ∧ s.SameKP t ∧ t.mem = s.mem))

/-- R263–R266, R402: TLBI drops the cached translations that it names, by page, by ASID or all, and one of another context or of all needs a system region, PRIVILEGE else; SCOPE 3 and
reserved bits raise ILLEGAL_OPERAND. WAKE makes the parked fragments of the warp it names ready and returns how many, 0 where no warp is there; a warp of another context
needs a system region. UPCALL without a mailbox, or with a SIZELOG2 not from 2 to 12, raises TRANSLATION, and with room writes the slot, advances TAIL, steps NOTIFY and waits; a full
mailbox is waited for. -/
def Obligations.HandlerServices : Prop := ∀ (s u u0 u2 : State) (h : Solo) (d a b : Code) (svc : BitVec 16) (q q0 q2 : Nat), s.grp.solo = true → s.warp.solo = some h → s.inPrologue = false →
  let tlbi : Ins := { op := 0xD3, d := .resv, a := hkSrc a, b := hkSrc b }
  let wake : Ins := { op := 0xD7, d := kDstF d, a := hkSrc a, b := .resv }
  let upcall : Ins := { op := 0xD8, d := .resv, a := .imm, b := .imm }
  let trapped (code cause : Nat) (addr : DWord) : Host.Outcome State Fault Refusal := .next (s.takeTrap { code := code, mask := s.active, addr := addr, cause := cause })
  let x := s.srcU b
  let asid : BitVec 16 := x.extractLsb' 16 16
  let hit (e : TlbEntry) : Bool := if field x 0 2 = 0 then e.covers asid (s.srcU a).toNat else if field x 0 2 = 1 then e.asid == asid else true
  let t := s.srcU a
  let there (w : Warp) : Bool := w.placedOn && w.core == field t 0 8 && w.slot == field t 8 6 && w.launch % 2 ^ 48 == field t 16 48
  let mb := (s.region s.warp.launch).upcallmb
  let pa := placePa q
  let v := u.mergeBytes pa 64
  let slot := mb + BitVec.ofNat 64 (64 + 256 * (v.memRead (pa + 8) 8 % 2 ^ v.memRead (pa + 16) 1))
  (s.Issues tlbi → field x 0 2 = 3 ∨ field x 2 14 ≠ 0 ∨ field x 32 32 ≠ 0 → exec (.tlbi a b) s = trapped 0x02 0 0) ∧
  (s.Issues wake → field t 14 2 ≠ 0 → exec (.wake d a) s = trapped 0x02 0 0) ∧
  (s.Issues tlbi → field x 0 2 ≠ 3 → field x 2 14 = 0 → field x 32 32 = 0 →
    (field x 0 2 = 2 ∨ asid ≠ s.asid → h.sstatus.getLsbD 5 = false → exec (.tlbi a b) s = trapped 0x13 0 0) ∧
    (¬(field x 0 2 = 2 ∨ asid ≠ s.asid) ∨ h.sstatus.getLsbD 5 → s.throughBusy (s.tlb.filter hit) = false → ∃ n, exec (.tlbi a b) s = .next n ∧ n.mem = s.mem ∧ s.SameVL n ∧ s.SameKP n ∧
      ∀ e, e ∈ n.tlb ↔ e ∈ s.tlb ∧ hit e = false)) ∧
  (s.Issues wake → field t 14 2 = 0 →
    (s.allWarps.find? there = none → s.WritesHandler (.wake d a) h d 0) ∧
    (∀ w, s.allWarps.find? there = some w → s.asidOf w.launch ≠ s.asid → h.sstatus.getLsbD 5 = false → exec (.wake d a) s = trapped 0x13 0 0) ∧
    ∀ w, s.allWarps.find? there = some w → (s.asidOf w.launch = s.asid ∨ h.sstatus.getLsbD 5) →
      exec (.wake d a) s = .next (State.fellThrough ((s.onWarp w.uid fun w => w.wakeWhere fun x => x == .parked).setK d (BitVec.ofNat 64 w.parkedFrags)) wake)) ∧
  (s.Issues upcall → s.handLoads = false → s.releaseBusy = false →
    (mb = 0 ∨ mb.toNat % 64 ≠ 0 → exec (.upcall svc) s = trapped 0x20 0 mb) ∧
    (mb ≠ 0 → mb.toNat % 64 = 0 → s.pre mb .rmw = (u, .ok q) → placePeer q = false → v.memRead (pa + 16) 1 < 2 ∨ 12 < v.memRead (pa + 16) 1 →
      exec (.upcall svc) s = .next (s.takeTrap { code := 0x20, mask := s.active, addr := mb, cause := 0 })) ∧
    (mb ≠ 0 → mb.toNat % 64 = 0 → s.pre mb .rmw = (u, .ok q) → placePeer q = false → 2 ≤ v.memRead (pa + 16) 1 → v.memRead (pa + 16) 1 ≤ 12 →
      ((2 ^ 64 + v.memRead (pa + 8) 8 - v.memRead pa 8) % 2 ^ 64 = 2 ^ v.memRead (pa + 16) 1 →
        exec (.upcall svc) s = .next (s.finish upcall (.again v (.upcall (mb + 1)) v.active))) ∧
      ((2 ^ 64 + v.memRead (pa + 8) 8 - v.memRead pa 8) % 2 ^ 64 ≠ 2 ^ v.memRead (pa + 16) 1 →
        v.pre slot .rmw = (u0, .ok q0) → placePeer q0 = false → u0.pre (slot + 128) .rmw = (u2, .ok q2) → placePeer q2 = false →
        let p0 := placePa q0
        let p1 := if p0 / 4096 = (p0 + 64) / 4096 then p0 + 64 else placePa q2 - 64
        let bs := u2.upcallSlot h svc
        let m1 := (((u2.homeWrite none p0 (bs.take 16)).homeWrite none (p0 + 32) ((bs.drop 32).take 32)).homeWrite none p1 ((bs.drop 64).take 64)).homeWrite none (placePa q2) (bs.drop 128)
        let m2 := (m1.counterAdd (pa + 8) 1).1
        let m3 := if m2.memRead (pa + 24) 8 = 0 then m2 else m2.counterStepAs m2.sysReq (some m2.asid) (m2.memRead (pa + 24) 8) 1
        exec (.upcall svc) s = .next (s.finish upcall (.waits m3 (.upcall slot))) ∧
        (m3.warp = s.warp → m3.grp = s.grp → exec (.upcall svc) s = .next ((m3.fellThrough upcall).waitFor (.upcall slot) 0) ∧
          ((m3.fellThrough upcall).waitFor (.upcall slot) 0).warp.solo = some { h with pc := s.grp.pc + BitVec.ofNat 64 s.grp.bytes, wait := .upcall slot }))))

/-- R348–R351: PSV.SPAWN in U- or VU-mode is an illegal instruction, and a record address that is not 64-byte aligned a misaligned load; a malformed record returns 1, a bad context
or region 2, a bad kernel descriptor 3, a launch that resolution rejects 4, after its record, and a record whose launch is accepted its LAUNCHID. The model's choices: which front end
of the die takes it is free (log entry 54), and an RCB that is not of the context counts as a bad region (log entry 42). PSV.CWAIT returns the counter once it has reached the target, and else the core waits at the instruction. x0 stays zero. -/
def Obligations.ServiceCoreInstructions : Prop := ∀ (s u : State) (d r1 r2 : BitVec 5) (head ks : List DWord) (place : Nat),
  let c := s.svcIx
  let v := s.svc c
  let ptr := v.reg r1
  let bs := head.flatMap fun x => leBytes 8 x.toNat
  let malformed := !recZero bs 29 64 || recField bs 24 4 == 0 || decide (65536 < recField bs 24 4) || decide (48 < recField bs 28 1)
  (v.priv = 0 → exec (.psvSpawn d r1 r2) s = .next (s.svcTrap c illegalInstruction)) ∧
  (v.priv ≠ 0 → ptr.toNat % 64 ≠ 0 → exec (.psvSpawn d r1 r2) s = .next (s.svcTrap c loadMisaligned)) ∧
  (v.priv ≠ 0 → ptr.toNat % 64 = 0 → s.svcLoads c ptr 8 = (u, .ok head) →
    (malformed = true → exec (.psvSpawn d r1 r2) s = .next (u.svcDone c d 1)) ∧
    (malformed = false → ∀ x, u.svcLoads c (ptr + 64) (recField bs 28 1) = (x, .ok ks) →
      let asid : BitVec 16 := (v.reg r2).extractLsb' 0 16
      let bad := field (v.reg r2) 16 48 != 0 || !(x.ctxs.any fun y => y.asid == asid) || !x.rcbInContext asid (BitVec.ofNat 64 (recField bs 8 8))
      (bad = true → exec (.psvSpawn d r1 r2) s = .next (x.svcDone c d 2)) ∧
      (bad = false → exec (.psvSpawn d r1 r2) s = .next (x.submitSpawn c d (x.spawnReq asid bs ks)) ∧
        (let f := 4 * (c / 4) + x.freeValue.toNat % 4
         let q := x.spawnReq asid bs ks
         (∀ y cause aux, x.feReady f = true → x.agentRead asid false 1 q.kd 64 = (y, .bad cause aux) → exec (.psvSpawn d r1 r2) s = .next (y.svcDone c d 3)) ∧
         (∀ y kb, x.feReady f = true → x.agentRead asid false 1 q.kd 64 = (y, .ok kb) → kdOk kb = false ∨ q.kd.toNat % 64 ≠ 0 ∨ recField kb 30 1 ≠ 1 →
          exec (.psvSpawn d r1 r2) s = .next (y.svcDone c d 3)) ∧
         (∀ y z kb cause, x.feReady f = true → x.agentRead asid false 1 q.kd 64 = (y, .ok kb) → kdOk kb = true → q.kd.toNat % 64 = 0 → recField kb 30 1 = 1 → y.resolve q = (z, .reject cause) →
          exec (.psvSpawn d r1 r2) s = .next ((z.postReject q cause 0).svcDone c d 4)) ∧
         ∀ y z kb kd path ps desc, x.feReady f = true → x.agentRead asid false 1 q.kd 64 = (y, .ok kb) → kdOk kb = true → q.kd.toNat % 64 = 0 → recField kb 30 1 = 1 → y.resolve q = (z, .ok kd path ps desc) →
          exec (.psvSpawn d r1 r2) s = .next ((z.accept f q kd path ps desc).1.svcDone c d (BitVec.ofNat 64 (z.accept f q kd path ps desc).2)))))) ∧
  (ptr.toNat % 8 ≠ 0 → exec (.psvCwait d r1 r2) s = .next (s.svcTrap c loadMisaligned)) ∧
  (ptr.toNat % 8 = 0 → s.svcReach c ptr .r loadPageFault loadAccessFault = (u, .ok place) → placePeer place = false → placeHome place ≠ 1 → u.bytesOwned (placePa place) 8 = false →
    let w := u.mergeBytes (placePa place) 8
    let x := w.memQ (placePa place)
    (v.reg r2 ≤ x → exec (.psvCwait d r1 r2) s = .next (w.svcDone c d x)) ∧
    (x < v.reg r2 → exec (.psvCwait d r1 r2) s = .next (w.onSvc c fun v => { v with waiting := true, watch := some (placePa place) }))) ∧
  ∀ x, (s.svcDone c d x).mem = s.mem ∧ ((s.svcDone c d x).svc c).pc = v.pc + 4 ∧ (∀ e, e ≠ c → (s.svcDone c d x).svc e = s.svc e) ∧
    ∀ r : BitVec 5, ((s.svcDone c d x).svc c).reg r = if r = 0 then 0 else if r = d then x else v.reg r

/-! Events that serve memory operations (R165–R193, R276, R277, R312, R429). -/

/-- R185, R277: a load served at the line's home gives every lane of its group at that address the bytes there; one that a valid copy may serve takes its bytes from it. R193, R165: data
served reaches its registers, extended as the load says: the element of the lane, of a pair or of four registers, and nothing else; a KLD writes its k or h register. -/
def Obligations.LoadDataReturns : Prop := ∀ (s : State) (op lane n : Nat) (plain : Bool) (o : Op) (l : LaneReq) (w : Warp),
  let pa := placePa l.pa
  let m := s.mergeBytes pa n
  let x := l.val.toNat
  ((match o.kind with
      | .load fl b _ _ _ => b = n ∧ plain = (fl == .plain)
      | .kload _ => n = 8 ∧ plain = true
      | _ => False) →
    s.request op lane = some (o, l) → placePeer l.pa = false → s.bytesOwned pa (Max.max n 1) = false → s.inOrder o l.va.toNat pa n plain = true →
    (plain && placeCached l.pa && (s.clusterStoring o.core pa n || (s.nearRead o.core pa n).isSome)) = false → s.sliceBusy o l = false →
    ∃ t, exec (.homeRequestService op lane) s = .next t ∧ t.mem = m.mem ∧ s.SameWarps t ∧
      t.opOf op = some { o with lanes := o.lanes.map fun q => if q.live && q.pa == l.pa then q.to .served (m.memRead pa n) else q }) ∧
  (s.opOf op = some o → o.lane lane = some l → l.stage = .request → o.waitsPart l = false → o.kind.tileMove = false → ∀ y, s.near o l = some y →
    exec (.loadDataReturn op lane) s = .next (((((s.comesAfter o (s.storesSeen o.uid o.core pa (l.bytes o.kind))).serveTwins o l y).returnData o lane y)).finishLane o lane)) ∧
  (s.opOf op = some o → o.lane lane = some l → l.stage = .served → s.findWarp o.uid = some w → lane < 64 → o.kind.returns = true →
    ∃ t u, exec (.loadDataReturn op lane) s = .next t ∧ t.mem = s.mem ∧ t.findWarp o.uid = some u ∧ u.p = w.p ∧ u.tiles = w.tiles ∧
      (∀ fl b sg wd d, o.kind = .load fl b sg wd d → u.k = w.k ∧ w.LaneWritten u d lane (regsOf b wd) (if b = 16 then x else extendLoad b sg wd x)) ∧
      (∀ p et d, o.kind = .atom p et d → u.k = w.k ∧ w.LaneWritten u d lane (if (etypeOf et).wide then 2 else 1) x) ∧
      (∀ d, o.kind = .cadd d → u.k = w.k ∧ w.LaneWritten u d lane 2 x) ∧
      ∀ d, o.kind = .kload d → u.v = w.v ∧
        (∀ i, rd u.k i = if d.toNat = 0xC0 + i ∧ d.toNat ≤ 0xEF then BitVec.ofNat 64 x else rd w.k i) ∧
        (d.toNat ≤ 0x0F → u.solo.map (·.h) = w.solo.map fun h => wr h.h d.toNat (BitVec.ofNat 64 x)))

/-- R172, R276: a store registers a lane's bytes at the home once its turn has come; every other byte stands, and no register changes. Before its turn nothing changes: an engine owns a
byte (R185), an access that comes before it is on its way, or an earlier request of its warp to the same home slice is (R418). R188: the EXPECT fields of a block whose MCAS failed take the
values it saw. -/
def Obligations.StoreRegistersItsBytes : Prop := ∀ (s : State) (op lane n : Nat) (o : Op) (l : LaneReq) (w : Warp),
  let pa := placePa l.pa
  s.opOf op = some o → o.lane lane = some l → s.findWarp o.uid = some w →
  (s.arrives o l = false ∨ s.sliceBusy o l = true → exec (.storeRegistration op lane) s = .next s) ∧
  (s.arrives o l = true → s.sliceBusy o l = false →
  (∀ rel, o.kind = .store n rel → 0 < n → n ≤ 16 →
    ∃ t u, exec (.storeRegistration op lane) s = .next t ∧ t.findWarp o.uid = some u ∧ w.SameRegs u ∧
      (s.mergeBytes pa n).StoresBytes t pa ((List.range n).map fun i => BitVec.ofNat 8 ((rd o.data (4 * lane + i / 4)).toNat / 2 ^ (8 * (i % 4)))) ∧
      ∀ p, t.opOf op = some p → ∀ q, p.lane lane = some q → q.stage = .done) ∧
  (∀ d p, o.kind = .mcas d p → l.stage = .served →
    ∃ t u, exec (.storeRegistration op lane) s = .next t ∧ t.findWarp o.uid = some u ∧ w.SameRegs u ∧
      ∀ i, i < l.aux.toNat % 16 → (∀ j, j < 8 → s.inDram (pa + 24 + 24 * i + j) = true) → t.memRead (pa + 24 + 24 * i) 8 = laneV o.data (8 * lane + i)))

/-- R181, R201: ATOM and CADD at the home write what `AtomOp` or the counter's addition makes of the word there, and give their lane the value before. R183: RED adds to the
partial copy of its die where the line admits that, and at the home elsewhere. R188: an MCAS whose words all match writes them all, sets its predicate's bit and writes 0; one that
does not writes none, clears the bit and names the words that differ; a malformed block posts MCAS_FORMAT. -/
def Obligations.AtomicsTakeEffect : Prop := ∀ (s : State) (op lane : Nat) (o : Op) (l : LaneReq) (w : Warp),
  let pa := placePa l.pa
  let v := laneV o.data lane
  let inMem (a n : Nat) : Prop := ∀ i, i < n → s.inDram (a + i) = true
  s.request op lane = some (o, l) → s.findWarp o.uid = some w → s.arrives o l = true → s.sliceBusy o l = false →
  (∀ p et d, o.kind = .atom p et d →
    let n := atomBytes et
    let m := s.mergeBytes pa n
    ∃ t, exec (.homeRequestService op lane) s = .next t ∧ s.SameWarps t ∧ m.StoresBytes t pa (leBytes n (atomOp p et (m.memRead pa n) v (laneC o.data lane))) ∧
      t.opOf op = some (o.onLane lane fun q => q.to .served (m.memRead pa n))) ∧
  (∀ d, o.kind = .cadd d →
    let m := s.mergeBytes pa 8
    m.memRead pa 8 + v < 2 ^ 64 →
    ∃ t, exec (.homeRequestService op lane) s = .next t ∧ s.SameWarps t ∧ m.StoresBytes t pa (leBytes 8 (m.memRead pa 8 + v)) ∧
      t.opOf op = some (o.onLane lane fun q => q.to .served (m.memRead pa 8))) ∧
  (∀ a inc, inMem a 8 → (s.mergeBytes a 8).memRead a 8 + inc ≥ 2 ^ 64 → (s.counterAdd a inc).1.memRead a 8 = 2 ^ 64 - 1 ∧ (s.counterAdd a inc).2.2 = true) ∧
  (∀ p et det, o.kind = .red p et det →
    let n := atomBytes et
    let m := s.mergeBytes pa n
    let key := 32 * dieOf o.core + pa / 4 % 32
    let comm := placeCached l.pa && !(det && decide (8 ≤ et)) && !s.watched pa
    ∃ t, exec (.redPartialUpdate op lane) s = .next t ∧
      (comm = false → m.StoresBytes t pa (leBytes n (atomOp p et (m.memRead pa n) v 0))) ∧
      (comm = true → (∀ c ∈ s.comm, c.line ≠ lineOf pa) → (s.l2Set l.pa).length < 16 → t.mem = s.mem ∧
        t.comm = s.comm ++ [{ line := lineOf pa, home := homeOf l.pa, pinned := placeHome l.pa == 2, o := p, et := et, parts := [(key, BitVec.ofNat 64 (atomOp p et (redIdentity p et) v 0))] }]) ∧
      ∀ c, comm = true → s.comm.find? (fun c => c.line == lineOf pa) = some c → c.o = p → c.et = et → t.mem = s.mem ∧
        ∃ c', t.comm.find? (fun c => c.line == lineOf pa) = some c' ∧ SMap.find key c'.parts =
          some (BitVec.ofNat 64 (atomOp p et (((SMap.find key c.parts).map BitVec.toNat).getD (redIdentity p et)) v 0))) ∧
  (∀ d p, o.kind = .mcas d p →
    let m := s.mergeBytes pa 256
    let block := mcasEntries l.va.toNat fun i => m.memByte (pa + i)
    (block = none → exec (.mcasLaneEvent op lane) s = .next (m.laneFault o l 0x24 0 l.va 0)) ∧
    ∀ es places u, block = some es → (m.viaOp o).Reaches o (es.map (·.addr)) places u → lane < 64 →
      (∀ e ∈ es.zip places, u.bytesOwned (placePa e.2) e.1.size = false ∧ u.inOrder o e.1.addr.toNat (placePa e.2) e.1.size false = true) →
      let all := es.zip places
      let x := all.foldl (fun s e => s.mergeBytes (placePa e.2) e.1.size) u
      let seen := all.map fun e => x.memRead (placePa e.2) e.1.size
      let differ (i : Nat) : Bool := decide (i < es.length) && (es[i]?.map (·.expect)) != seen[i]?
      ∃ t w', exec (.mcasLaneEvent op lane) s = .next t ∧ t.findWarp o.uid = some w' ∧ w'.k = w.k ∧
        w.LaneWritten w' d lane 1 ((List.range 8).foldl (fun y i => if differ i then y + 2 ^ i else y) 0) ∧
        (p ≠ 7 → ∀ j, j < 64 → (w'.pred p).getLsbD j = if j = lane then decide (es.map (·.expect) = seen) else (w.pred p).getLsbD j) ∧
        (es.map (·.expect) ≠ seen → (∀ c ∈ x.comm, c.line < lineOf pa ∨ lineOf (pa + 255) < c.line) → t.mem = x.mem) ∧
        (es.map (·.expect) = seen →
          (∀ e ∈ all, (∀ i, i < e.1.size → x.inDram (placePa e.2 + i) = true) →
            (∀ f ∈ all, f ≠ e → overlap (placePa e.2) e.1.size (placePa f.2) f.1.size = false) → t.memRead (placePa e.2) e.1.size = e.1.new) ∧
          ∀ a, (∀ e ∈ all, a < placePa e.2 ∨ placePa e.2 + e.1.size ≤ a) → t.memByte a = x.memByte a))

/-- R312, R429: a lane whose park has ended presents its access again: its request is open where the translation succeeds, and it posts the fault where not. R423, R425, R429: an access
through a peer's page is sent to it; the peer's data serve the lanes that read the address, its confirmation ends a store's lane, and its refusal posts REMOTE_DENIED with the peer as AUX, as
a context without a credential does at once. A peer's read of a page of this device is answered with the bytes where its window grants READ, and denied and logged where not. R91: a warp whose open chain has been held for more than 4 ck is forced off its slot: it loses its
latches, and the fragment of the chain stands at its latch-restart address. -/
def Obligations.ParkedAndPeerAccesses : Prop := ∀ (s u : State) (op lane place n : Nat) (o : Op) (l : LaneReq) (f : Leaf) (bs : List Byte) (code cause : Nat) (aux : DWord) (w : Warp) (hg : HeldGroup) (a : PeerAccess) (ps : List (Nat × Nat)),
  let tr := (s.viaOp o).translateIn o.asid l.va o.kind.acc o.sys (s.ownOf o.uid).1
  let store : Prop := (∃ n r, o.kind = .store n r) ∨ ∃ t c, o.kind = .tileStore t c false
  (s.opOf op = some o → o.lane lane = some l → (o.lanes.filter fun m => m.stage.isRetry) = [l] → (s.findWarp o.uid).isSome = true →
    (tr = (u, .ok place f) → o.kind.homeRule place = none → (store → u.inOrder o l.va.toNat (placePa place) (l.bytes o.kind) true = true) →
      ∃ t, exec (.fillWaiterRetry op lane) s = .next t ∧ s.SameWarps t ∧ (¬store → t.mem = s.mem) ∧
      t.ops = ((u.onOp op fun o => o.onLane lane fun m => { m with stage := .request, pa := place, aux := (match o.kind with
        | .mcas _ _ => 0
        | _ => m.aux) }).onOp op fun o => { o with lanes := o.lanes.map fun m => if m.lane % 64 == l.lane % 64 && m.live then { m with val := u.now, since := u.clock } else m }).ops) ∧
    (tr = (u, .fault code cause aux) → exec (.fillWaiterRetry op lane) s = .next (u.laneFault o l code cause l.va aux))) ∧
  (s.request op lane = some (o, l) → placePeer l.pa = true → s.peerBefore o l = false →
    (s.credOf o.asid = 0 → ∀ r, exec (.peerPageAccess op lane (.answer r)) s = .next (s.laneFault o l 0x2A 0 l.va (BitVec.ofNat 64 (placeId l.pa)))) ∧
    (s.credOf o.asid ≠ 0 → placeId l.pa ≠ s.selfId →
    (∃ y, y.kind = 0x104 ∧ (s.sendAccess o l).outbox = s.outbox ++ [y]) ∧
    (∀ fl sg wd d, o.kind = .load fl n sg wd d → ∃ t, exec (.peerPageAccess op lane (.answer (.data bs))) s = .next t ∧ t.mem = s.mem ∧ s.SameWarps t ∧ t.outbox = (s.sendAccess o l).outbox ∧
      t.opOf op = some { o with lanes := o.lanes.map fun q => if q.live && q.pa == l.pa then q.to .served (leValue (bs.take n)) else q }) ∧
    (∀ rel, o.kind = .store n rel → ∃ t, exec (.peerPageAccess op lane (.answer .confirmed)) s = .next t ∧ t.mem = s.mem ∧ t.outbox = (s.sendAccess o l).outbox ∧ ∀ p, t.opOf op = some p → ∀ q, p.lane lane = some q → q.stage = .done) ∧
    exec (.peerPageAccess op lane (.answer .denied)) s = .next ((s.sendAccess o l).laneFault o l 0x2A 0 l.va (BitVec.ofNat 64 (placeId l.pa))))) ∧
  (a.op = .load →
    let x : Xfer := { s.foreignXfer false a.requester a.cred with expWin := a.window, src := a.offset, len := a.len, page := some a.op }
    let v : State := { s with nextOp := s.nextOp + 1, xfers := s.xfers ++ [x] }
    (s.windowCheck a.window 9 a.requester a.cred a.offset a.len = none →
      exec (.peerPageAccess op lane (.arrives a)) s = .next (((v.logEvent 1 a.requester a.offset 0).dropXfer x.id).sendFailure x 0x2A 0 0)) ∧
    ∀ ad, v.letIn x a.window 9 a.offset a.len = some ad →
      (v.onXfer x.id fun y => { y with admitted := some ad }).reachRange x.who ad.asid .r 2 ad.va a.len = (u, .ok ps) → u.piecesOwned ps = false →
      exec (.peerPageAccess op lane (.arrives a)) s = .next (((u.readPieces ps).1.dropXfer x.id).sendPeer (if (u.readPieces ps).2.isEmpty then 0x101 else 0x100) false (leBytes 2 a.requester ++ (u.readPieces ps).2))) ∧
  (s.findWarp op = some w → w.chainOpen = true → w.heldGrp = some hg → hg.since + 4 < s.clock → ∃ t w', exec (.latchChainForceOff op) s = .next t ∧ t.mem = s.mem ∧ t.findWarp op = some w' ∧ w.SameRegs w' ∧
    w'.latValid = 0 ∧ w'.latUnread = 0 ∧ w'.chainLen = 0 ∧ w'.heldGrp = some { hg with off := true } ∧ ∀ e f pc, SMap.find e w.live = some f → f.mask ≠ 0 → f.lrpc = some pc → SMap.find e w'.live = some { f with pc := pc, lrpc := none })

/-! Quickset fills and pages (R297, R300–R305, R310–R316). -/

/-- R310, R311: the oldest backed request of a fill unit gets a generator of one workgroup, whose k0 to k3 hold the block's address, its size, the region's parameter and the depth; a
launch that cannot be resolved fails the block. R315, R316: from below its watermark until above it a pool takes back the frame of the least recently filled block of a region with
RECLAIM, which is EMPTY then and has no cached translation; the watermark is Tregrim's. -/
def Obligations.QuicksetFillsAndReclaim : Prop := ∀ (s u : State) (leader die b : Nat) (stock pre rest : List Nat) (f : Fill) (r : QRegion) (kd : KernelDesc) (path : List RegionItems)
    (ps : List DWord) (desc : List Byte) (cause : Nat),
  let x := (s.stock stock).backFills (homeDie leader)
  let req : LaunchReq := { asid := f.asid, root := (((x.ctxs.find? fun c => c.asid == f.asid).map (·.rootRcb)).getD 0), kd := r.genKd, rcb := r.genRcb, gx := 1, gy := 1, gz := 1, gang := false, persist := false, geometry := false, initial := 0, params := 0, given := some [f.block, BitVec.ofNat 64 r.blockBytes, r.genParam, BitVec.ofNat 64 f.depth], done := 0, queue := none, hint := 0, join := 0, leader := some leader, handoff := none }
  (x.fillOf leader = some f → x.fills.find? (fun g => homeDie g.leader == homeDie leader && g.launch.isNone) = some f → f.held = false → x.feReady (4 * homeDie leader) = true →
    x.regionOf f.asid f.block.toNat = some r →
    (x.resolve req = (u, .ok kd path ps desc) → ∃ t l g, exec (.generatorLaunch leader stock) s = .next t ∧ t.launches = u.launches ++ [l] ∧ l.generator = some leader ∧ l.asid = f.asid ∧
      l.params = ps ∧ l.unplaced = [0] ∧ l.kd = kd ∧ l.path = path ∧ l.killed = false ∧ l.complete = false ∧ t.mem = u.mem ∧
      (u.fillOf leader = some f → t.fillOf leader = some g ∧ g.launch = some l.lid)) ∧
    (x.resolve req = (u, .reject cause) → exec (.generatorLaunch leader stock) s = .next ((u.postReject req cause r.genKd).failBlock leader 0xFFFC))) ∧
  (∀ m, exec (.pressureReclaim { die := die, mark := some m }) s = exec (.pressureReclaim { die := die, mark := none }) { s with watermark := SMap.put 0 s.watermark die m }) ∧
  (s.mark die < (s.pool die).length → ∃ t, exec (.pressureReclaim { die := die, mark := none }) s = .next t ∧ t.mem = s.mem ∧ t.tlb = s.tlb ∧ die ∉ t.reclaiming) ∧
  ((s.pool die).length < s.mark die ∨ (die ∈ s.reclaiming ∧ (s.pool die).length = s.mark die) → s.filledOrder = pre ++ leader :: rest → (∀ p ∈ pre, homeDie p = die → ∀ rb, s.blockAt p = some rb → rb.1.reclaim = false) →
    homeDie leader = die → s.blockAt leader = some (r, b) → r.reclaim = true → eFill (s.memQ leader) = 2 → (∀ i, i < 8 → s.inDram (leader + i) = true) →
    s.rangeBusy (ePa (s.memQ leader)) (2 ^ r.blkLog2) = false → (∀ i, i < 2 ^ r.blkLog2 / 128 → s.lineOwned (lineOf (ePa (s.memQ leader)) + i) = false) →
    ∃ t, exec (.pressureReclaim { die := die, mark := none }) s = .next t ∧ eFill (t.memQ leader) = 0 ∧ t.pool die = s.pool die ++ [ePa (s.memQ leader)] ∧ leader ∉ t.filledOrder ∧ s.SameWarps t ∧ t.ops = s.ops ∧
      ∀ e ∈ t.tlb, e ∈ s.tlb ∧ ¬(e.asid = r.asid ∧ e.vpn * 4096 < b + 2 ^ r.blkLog2 ∧ b < (e.vpn + e.pages) * 4096))

/-- R300, R301: a walk that finds a leaf with the right it needs enters it in the caches, and what it read above in the walk cache. R297, R288: Tregrim maps a missing page by 8-byte stores of entries that were not valid, every
private page that a plan makes valid reading zero, and its accesses replay; or it declines them with TRANSLATION. R305, R307: a write of a COW page gives it a writable frame with the page's
bytes, in a table of the context's own, its old translations gone. -/
def Obligations.PagesAreMapped : Prop := ∀ (s u : State) (asid : BitVec 16) (va : DWord) (acc : Acc) (l l0 : Leaf) (es : List (Nat × DWord)) (page : Option Nat) (ok : Nat → Leaf → Bool → Bool),
  let a := va.toNat
  let v := s.writePlan es
  let new := page.getD l.frame
  let lo := a / l.bytes * l.bytes
  (field va 52 12 = 0 → s.tlbFind asid a = none → s.lookup asid a = .leaf l → rightsCheck l.entry acc true = none → eQs l.entry = false →
    ∃ t, exec (.pageWalk asid va acc) s = .next t ∧ t = ((s.cachePath asid a).cacheLeaf asid a l).releasePage asid (a / 4096) ∧ t.mem = s.mem ∧
      ∀ c ∈ s.via, ∃ e ∈ t.tlb, e.cache = c ∧ e.covers asid a = true) ∧
  (s.walk asid a = .miss →
    exec (.translationMissResolve asid va none) s = .next (s.declinePage asid (a / 4096)) ∧
    ((∀ e ∈ es, eV (s.memQ e.1) = false) → s.planned asid es (fun lo l shared => !shared && s.leafAllowed asid lo l) = some u → u.walkLeaf asid a = some l →
      exec (.translationMissResolve asid va (some es)) s = .next (u.releasePage asid (a / 4096)))) ∧
  (s.planned asid es ok = some u → s.planOk asid es = true ∧ ∀ e ∈ v.newLeaves s asid, v.leafSound e.2.1 = true ∧ v.leafFresh asid e.2.1 = true ∧ ok e.1 e.2.1 e.2.2 = true ∧
    (ePeer e.2.1.entry = false → eShared e.2.1.entry = false → eQs e.2.1.entry = false →
      ∀ i, i < e.2.1.bytes → s.inDram (e.2.1.frame + i) = true → u.memByte (e.2.1.frame + i) = 0)) ∧
  (s.walkLeaf asid a = some l0 → v.walkLeaf asid a = some l → s.planOk asid es = true → v.mapping asid = s.mapping asid → v.privateLeaf asid l = true → eCow l0.entry = true → eW l0.entry = false →
    v.cowFrameOk asid a l page = true → s.rangeBusy l.frame l.bytes = false → (new + l.bytes ≤ l.at_ / 4096 * 4096 ∨ l.at_ / 4096 * 4096 + 4096 ≤ new) →
    (∀ c ∈ v.comm, c.line ≠ lineOf l.at_) →
    ∃ t, exec (.copyOnWrite asid va page es) s = .next t ∧
      (∀ i, i < l.bytes → s.inDram (new + i) = true → s.inDram (l.frame + i) = true →
        t.memByte (new + i) = (if new = l.frame then v else v.mergeRange l.frame l.bytes).memByte (l.frame + i)) ∧
      (l.bytes ≠ 2 ^ 16 → (∀ i, i < 8 → s.inDram (l.at_ + i) = true) → t.memQ l.at_ = ownLeaf (setField l.entry 12 36 (new / 4096))) ∧
      ∀ e ∈ t.tlb, ¬(e.asid = asid ∧ e.vpn * 4096 < lo + l.bytes ∧ lo < (e.vpn + e.pages) * 4096))

/-! Waits that end, engines and units (R202–R216, R229, R240–R249, R257, R361, R402, R427, R428). -/

/-- R202, R203: a CWAIT that waits in a fragment or handler goes on when its counter has reached the target: an acquire, the value in `d`, and the group after; below the target, or while a copy engine owns the counter's line, it waits on.
R216, R229: the oldest waiting acquisition of a core that can be met is granted, and an MMAS's shadow tiles are held for it. -/
def Obligations.WatchesAndGrants : Prop := ∀ (s : State) (uid e pa core n p : Nat) (w : Warp) (h : Solo) (o : Op) (rest : List Op) (target next : DWord) (d : Code) (byte : Byte),
  let m := s.mergeBytes pa 8
  let v := m.memQ pa
  let kWritten (w' : Warp) : Prop := ∀ i, rd w'.k i = if d.toNat = 0xC0 + i ∧ d.toNat ≤ 0xEF then v else rd w.k i
  let f := w.fragAt e
  (s.findWarp uid = some w → e ≠ 64 → f.state = .waiting → f.wait = .cwait pa target d next →
    (target ≤ v → s.bytesOwned pa 8 = false → ∃ t w', exec (.watchWake uid e) s = .next t ∧ exec (.watchPoll uid e) s = .next t ∧ t.mem = m.mem ∧ t.findWarp uid = some w' ∧ kWritten w' ∧ w'.v = w.v ∧ w'.p = w.p ∧
      w'.fragAt e = { f with pc := next, wait := .none, pmask := 0, state := if w.debug then .debugStopped else .ready }) ∧
    (v < target ∨ s.bytesOwned pa 8 = true → exec (.watchWake uid e) s = .next m ∧ exec (.watchPoll uid e) s = .next m)) ∧
  (s.findWarp uid = some w → w.solo = some h → h.wait = .cwait pa target d next → target ≤ v → s.bytesOwned pa 8 = false →
    ∃ t w', exec (.watchWake uid 64) s = .next t ∧ exec (.watchPoll uid 64) s = .next t ∧ t.mem = m.mem ∧ t.findWarp uid = some w' ∧ kWritten w' ∧ w'.v = w.v ∧
      w'.solo = some { h with wait := .none, pc := next }) ∧
  (∀ tr, s.acqWaiting core false = o :: rest → o.kind = .acquireRegs n p tr → s.acqWaiting core true = [] → s.findWarp o.uid = some w → s.canAcquire w n false = true →
    ∃ t w', exec (.acquisitionGrant core) s = .next t ∧ t.mem = s.mem ∧ t.findWarp o.uid = some w' ∧ w'.quota = w.quota + n ∧ w'.tquota = w.tquota ∧ w.SameRegs w' ∧ t.opOf o.id = none) ∧
  (∀ tr, s.acqWaiting core true = o :: rest → o.kind = .acquireTiles n p tr → s.acqWaiting core false = [] → s.findWarp o.uid = some w → s.canAcquire w n true = true →
    ∃ t w', exec (.acquisitionGrant core) s = .next t ∧ t.mem = s.mem ∧ t.findWarp o.uid = some w' ∧ w'.quota = w.quota ∧ w'.tquota = w.tquota + n ∧ w.SameRegs w' ∧ t.opOf o.id = none) ∧
  (s.acqWaiting core true = o :: rest → o.kind = .shadowReq byte → s.findWarp o.uid = some w → s.canAcquire w (popByte byte) true = true → (w.fragAt o.entry).wait = .shadow o.id →
    ∃ t w', exec (.shadowGrant core) s = .next t ∧ t.mem = s.mem ∧ t.findWarp o.uid = some w' ∧ w.SameRegs w' ∧ (w'.fragAt o.entry).wait = .none ∧
      ∃ q, t.opOf o.id = some q ∧ q.data ≠ [])

/-- R257, R397, R402: a reply of Tregrim reaches its lane's pair of registers, and a call submitted again is the same call where its record lives; the reply to an upcall gives h0 and h1 the
status and the value. R213: a remote write lands in the target's registers and steps its arrival counter. R214, R343: a request for work is answered with the lowest unplaced
workgroup that INITIAL leaves to claims, or with exhaustion. R361: a generation open for BARTMO posts BAR_TIMEOUT once, that of a saved workgroup after its restore. That an RWR_TARGET
record has ADDR 0 is the model's choice (log entry 19). -/
def Obligations.RepliesArrive : Prop := ∀ (s : State) (op lane uid pa lid wg x : Nat) (o : Op) (l : LaneReq) (c : Call) (y : DWord) (w : Warp) (h : Solo) (d : Code) (slot : DWord) (r : Rwr)
    (g : Wg) (ln : Launch) (q : FetchReq) (more : List FetchReq) (b : BarState),
  (s.opOf op = some o → o.kind = .sysc d → s.findWarp o.uid = some w →
    (s.calls.find? (fun c => c.result.isSome && c.subs.contains (op, lane)) = some c → c.result = some y → lane < 64 → ∃ t w', exec (.syscReply op lane) s = .next t ∧ t.mem = s.mem ∧
      t.findWarp o.uid = some w' ∧ w.LaneWritten w' d lane 2 y.toNat ∧ w'.k = w.k ∧ w'.p = w.p ∧ (o.lanes = [l] → l.lane = lane → t.opOf op = none)) ∧
    (o.lane lane = some l → l.stage ≠ .done → let bs : List Byte := (List.range 64).map fun i => rd o.bytes (64 * lane + i)
      ∃ t, exec (.syscResubmit op lane) s = .next t ∧ t.mem = s.mem ∧ t.SameWarps s ∧ ∃ k ∈ t.calls, k.asid = o.asid ∧ k.callId = BitVec.ofNat 64 (recField bs 0 8) ∧ (op, lane) ∈ k.subs)) ∧
  (s.findWarp uid = some w → w.solo = some h → h.wait = .upcall slot → slot.getLsbD 0 = false → s.reachAs (some (s.asidOf w.launch)) slot.toNat .r (s.region w.launch).system = some pa →
    let m := s.mergeBytes pa 32
    (m.memQ (pa + 8) = 0 ∨ s.bytesOwned pa 32 = true → exec (.upcallReply uid) s = .next m) ∧
    (m.memQ (pa + 8) ≠ 0 → s.bytesOwned pa 32 = false → ∃ t w', exec (.upcallReply uid) s = .next t ∧ t.mem = m.mem ∧ t.findWarp uid = some w' ∧ w.SameRegs w' ∧
      w'.solo = some { h with h := wr (wr h.h 0 (m.memQ (pa + 16))) 1 (m.memQ (pa + 24)), wait := .none })) ∧
  (s.rwrs.find? (fun r => r.id == x) = some r →
    (s.rwrTarget r.uid r.core r.slot r.lid48 r.code r.wide = some w → s.findWarp w.uid = some w → (∀ e ∈ w.live, e.2.inGroup = false) → ∃ t w', exec (.rwrLanding x) s = .next t ∧ t.findWarp w.uid = some w' ∧ (∀ z ∈ t.rwrs, z.id ≠ x) ∧
      t.mem = (s.counterStep (some (s.asidOf w.launch)) w.arrival.toNat 1).mem ∧ w'.p = w.p ∧
      (0xC0 ≤ r.code.toNat → w'.v = w.v ∧ ∀ i, rd w'.k i = if r.code.toNat = 0xC0 + i then rd r.vals 0 else rd w.k i) ∧
      (r.code.toNat < 0xC0 → w'.k = w.k ∧ ∀ n j, j < 64 → rd w'.v (n * 64 + j) =
        if r.mask.getLsbD j ∧ r.code.toNat ≤ n ∧ n < r.code.toNat + (if r.wide then 2 else 1) then BitVec.ofNat 32 ((rd r.vals j).toNat / 2 ^ (32 * (n - r.code.toNat))) else rd w.v (n * 64 + j))) ∧
    (s.rwrTarget r.uid r.core r.slot r.lid48 r.code r.wide = none → s.opOf r.op = some o →
      exec (.rwrLanding x) s = .next ((State.opFault { s with rwrs := s.rwrs.filter fun z => z.id != x } o 0x2C 0 r.mask 0 0).endOp r.op))) ∧
  (s.wgOf lid wg = some g → s.launchOf lid = some ln → g.fetch = q :: more → g.onCore = true →
    let base := g.core * 2 ^ 19 + g.sramBase + q.mailbox
    let word (t : State) (off : Nat) : Nat := leValue ((List.range 4).map fun i => rd t.sram (base + off + i))
    ∃ t, exec (.fetchwReply lid wg) s = .next t ∧ t.mem = s.mem ∧ t.SameWarps s ∧ t.wgOf lid wg = some { g with fetch := more } ∧ word t 4 = q.seq % 2 ^ 32 ∧
      (∀ a, a < base ∨ base + 32 ≤ a → rd t.sram a = rd s.sram a) ∧
      (∀ i, ln.persist = true → i ∈ ln.unplaced → ln.initial ≤ i → (∀ j ∈ ln.unplaced, ln.initial ≤ j → i ≤ j) → word t 0 = 1 ∧ word t 8 = i % ln.gx % 2 ^ 32 ∧ word t 12 = i / ln.gx % ln.gy % 2 ^ 32 ∧
        word t 16 = i / (ln.gx * ln.gy) % 2 ^ 32 ∧ t.launchOf lid = some { ln with unplaced := ln.unplaced.filter (· != i), claimed := ln.claimed ++ [i] }) ∧
      (ln.persist = false ∨ (∀ j ∈ ln.unplaced, j < ln.initial) → word t 0 = 2 ∧ t.launches = s.launches)) ∧
  (∀ grid, s.wgOf lid wg = some g → g.pre = .saved → exec (.barTimeout lid wg grid x) s = .next s) ∧
  (s.wgOf lid wg = some g → (s.region lid).bartmo ≠ 0 → g.pre ≠ .saved →
    (SMap.find x g.bars = some b → b.timedOut = false → b.since ≠ 0 → b.since + 800 * (s.region lid).bartmo ≤ s.clock →
      exec (.barTimeout lid wg false x) s = .next ((s.onWg lid wg fun g => { g with bars := SMap.insert x { b with timedOut := true } g.bars }).postTimeout lid (some wg) x (Wait.isBar x))) ∧
    ((s.gridOpen lid x).2 = false → (s.gridOpen lid x).1 ≠ 0 → (s.gridOpen lid x).1 + 800 * (s.region lid).bartmo ≤ s.clock → exec (.barTimeout lid wg true x) s =
      .next (State.postTimeout { s with wgs := s.wgs.map fun g => if g.launch = lid then (match SMap.find x g.gbars with
        | some gb => { g with gbars := SMap.insert x { gb with timedOut := true } g.gbars }
        | none => g) else g } lid none x fun y => y == .gbar x)))

/-- R206, R208: the engine moves the next element of the copy at the head of its queue, and once all are written adds CINC to the completion counter and takes the copy out. That the elements move
in ascending index order, and that the earlier of two copies goes first at a line that both own, are the model's choices (log entry 66). R211, R425–R428: a source is read under READ, its data
sent to each recipient, and a landing written under DEPOSIT and counted; each refused is logged, as event 1 or 2, and answered with a failure. A transfer's ACK steps once every recipient has
confirmed, and a silence of PTMO posts REMOTE_UNREACHABLE. -/
def Obligations.CopiesAndTransfersMove : Prop := ∀ (s u v : State) (id p q : Nat) (j : CopyJob) (t0 : Xfer) (rq : XferReq) (dp : Deposit) (bs : List Byte) (ps : List (Nat × Nat)) (o : Op) (l : LaneReq)
    (leaf : Leaf) (dev : Nat),
  let ends := copyElement j j.dims j.index (j.src, j.dst)
  let n := 2 ^ j.esize
  let m := u.mergeBytes (placePa p) n
  let moved (t : State) : Prop := ∃ j', t.copyJobs.find? (fun k => k.id == id) = some j' ∧ j'.index = j.index + 1 ∧ j'.written = decide (j.dims.foldl (fun x d => x * d.1) 1 ≤ j.index + 1)
  let counted (u t : State) (pa by_ : Nat) : Prop := (u.mergeBytes pa 8).StoresBytes t pa (leBytes 8 ((u.mergeBytes pa 8).memRead pa 8 + by_))
  (s.copyJobs.find? (fun k => k.id == id) = some j → s.copyHead j = true → j.parked = none →
    (j.written = false → placePeer q = false → v.ownedBefore j (placePa q) n = false →
      (j.zero = true → s.engineReach j ends.2 .w = (v, some q) → ∃ t, exec (.copyEngineCopy id) s = .next t ∧ (v.mergeBytes (placePa q) n).StoresBytes t (placePa q) (List.replicate n 0) ∧ moved t) ∧
      (j.zero = false → s.engineReach j ends.1 .r = (u, some p) → placePeer p = false → u.ownedBefore j (placePa p) n = false → m.engineReach j ends.2 .w = (v, some q) →
        ∃ t, exec (.copyEngineCopy id) s = .next t ∧ (v.mergeBytes (placePa q) n).StoresBytes t (placePa q) (leBytes n (m.memRead (placePa p) n)) ∧ moved t)) ∧
    (j.written = true →
      (j.cnt = 0 → exec (.copyCompletion id) s = .next (s.copyEnds id false)) ∧
      (j.cnt ≠ 0 → s.engineReach j j.cnt .rmw = (u, some p) → counterTrap p 0 j.cnt = none → u.bytesOwned (placePa p) 8 = false → (u.mergeBytes (placePa p) 8).memRead (placePa p) 8 + j.cinc.toNat < 2 ^ 64 →
        ∃ t, exec (.copyCompletion id) s = .next t ∧ counted u t (placePa p) j.cinc.toNat ∧ ∀ k ∈ t.copyJobs, k.id ≠ id))) ∧
  (let x : Xfer := { s.foreignXfer true rq.requester rq.cred with expWin := rq.window, src := rq.offset, len := rq.len, recips := rq.recips, landWin := rq.landWin, dstOff := rq.dstOff }
   let w : State := { s with nextOp := s.nextOp + 1, xfers := s.xfers ++ [x] }
   (s.windowCheck rq.window 9 rq.requester rq.cred rq.offset rq.len = none →
     exec (.transferSourceRead id (some rq) .here) s = .next (((w.logEvent 1 rq.requester rq.offset 0).dropXfer x.id).sendFailure x 0x2A 0 0)) ∧
   (s.windowCheck rq.window 9 rq.requester rq.cred rq.offset rq.len = some bs → rq.offset.toNat + rq.len ≤ recField bs 16 8 ∧
     ∀ a, w.letIn x rq.window 9 rq.offset rq.len = some a → a.asid = BitVec.ofNat 16 (recField bs 2 2) ∧ a.va = BitVec.ofNat 64 (recField bs 8 8) + rq.offset ∧
      ((w.onXfer x.id fun y => { y with admitted := some a }).reachRange x.who a.asid .r 4100 a.va rq.len = (u, .ok ps) → u.piecesOwned ps = false →
       let d := (u.readPieces ps).2
       let z := (u.readPieces ps).1.sendData x d
       z.outbox = (u.readPieces ps).1.outbox ++ ((rq.recips.filter (· != (u.readPieces ps).1.selfId)).map fun r =>
         { kind := 0x100, error := false, bytes := leBytes 2 r ++ peerPair rq.requester rq.cred ++ leBytes 2 rq.landWin ++ leBytes 8 rq.dstOff.toNat ++ d }) ∧
       (rq.recips.contains z.selfId = false → exec (.transferSourceRead id (some rq) .here) s = .next (z.dropXfer x.id)) ∧
       (rq.recips.contains z.selfId = true → let land (x : Xfer) : Xfer := { x with get := false, data := some d, admitted := none }
         exec (.transferSourceRead id (some rq) .here) s = .next ((z.onXfer x.id land).landForeign (land x)))))) ∧
  (let x : Xfer := { s.foreignXfer false dp.requester dp.cred with landWin := dp.window, dstOff := dp.offset, data := some dp.bytes, len := dp.bytes.length }
   let w : State := { s with nextOp := s.nextOp + 1, xfers := s.xfers ++ [x] }
   (s.windowCheck dp.window 10 dp.requester dp.cred dp.offset dp.bytes.length = none →
     exec (.transferLanding id dev (some dp) .here) s = .next (((w.logEvent 2 dp.requester dp.offset 0).dropXfer x.id).sendFailure x 0x2A 0 0)) ∧
   (s.windowCheck dp.window 10 dp.requester dp.cred dp.offset dp.bytes.length = some bs →
     ∀ a, w.letIn x dp.window 10 dp.offset dp.bytes.length = some a → a.asid = BitVec.ofNat 16 (recField bs 2 2) ∧ a.va = BitVec.ofNat 64 (recField bs 8 8) + dp.offset ∧
      a.cnt = BitVec.ofNat 64 (recField bs 24 8) ∧
      ((w.onXfer x.id fun y => { y with admitted := some a }).reachRange x.who a.asid .w 4100 a.va dp.bytes.length = (u, .ok ps) → u.piecesOwned ps = false →
       let y := (u.writePieces ps dp.bytes).onXfer x.id fun z => { z with landed := true }
       (a.cnt = 0 → exec (.transferLanding id dev (some dp) .here) s = .next ((y.dropXfer x.id).sendPeer 0x101 false (leBytes 2 dp.requester))) ∧
       (a.cnt ≠ 0 → y.agentTranslate x.who a.asid a.cnt .rmw false = (v, .ok q leaf) → counterTrap q 0 a.cnt = none → v.bytesOwned (placePa q) 8 = false →
         (v.mergeBytes (placePa q) 8).memRead (placePa q) 8 + 1 < 2 ^ 64 → ∃ t, exec (.transferLanding id dev (some dp) .here) s = .next t ∧ counted v t (placePa q) 1 ∧
           t.outbox = v.outbox ++ [{ kind := 0x101, error := false, bytes := leBytes 2 dp.requester }])))) ∧
  (s.foreignOf id = none → s.xferOf id = some t0 →
    (t0.data = none → t0.owner = s.selfId →
      (t0.get = true → s.sourceStage t0 = (u, .ok bs) → exec (.transferSourceRead id none .here) s = .next ((u.onXfer id fun t => { t with data := some bs, admitted := none }).sendData t0 bs)) ∧
      (t0.get = false → s.reachRange t0.who t0.asid .r 4100 t0.src t0.len = (u, .ok ps) → u.piecesOwned ps = false → let d := (u.readPieces ps).2
        exec (.transferSourceRead id none .here) s = .next (((u.readPieces ps).1.onXfer id fun t => { t with data := some d, admitted := none }).sendData t0 d))) ∧
    (t0.data ≠ none → dev ∈ t0.recips → dev ∉ t0.answered → dev ≠ s.selfId → exec (.transferLanding id dev none .confirmed) s = .next (s.xferAnswer t0 dev true)) ∧
    (t0.data ≠ none → t0.posted = false → (∀ d ∈ t0.recips, d ∈ t0.confirmed) →
      (t0.ack = 0 → exec (.transferConfirm id) s = .next { s with xfers := s.xfers.filter fun y => y.id != id }) ∧
      (t0.ack ≠ 0 → s.agentTranslate t0.who t0.asid t0.ack .rmw false = (v, .ok q leaf) → counterTrap q 0 t0.ack = none → v.bytesOwned (placePa q) 8 = false → (v.mergeBytes (placePa q) 8).memRead (placePa q) 8 + 1 < 2 ^ 64 →
        ∃ t, exec (.transferConfirm id) s = .next t ∧ counted v t (placePa q) 1 ∧ ∀ y ∈ t.xfers, y.id ≠ id)) ∧
    (t0.data = none → (∀ d ∈ t0.recips, t0.owner ≤ d) → t0.since + 800 * s.ptmo.toNat ≤ s.clock →
      exec (.peerTimeout id none) s = .next (s.xferFault t0 0x2B 0 (BitVec.ofNat 64 t0.owner) true))) ∧
  (s.request id dev = some (o, l) → placePeer l.pa = true →
    (l.since + 800 * s.ptmo.toNat ≤ s.clock → exec (.peerTimeout id (some dev)) s = .next ((s.sendAccess o l).laneFault o l 0x2B 0 l.va (BitVec.ofNat 64 (placeId l.pa)))) ∧
    (s.clock < l.since + 800 * s.ptmo.toNat → exec (.peerTimeout id (some dev)) s = .next s))

/-! Launches, queues, render passes and pre-emption (R329–R344, R362–R385). -/

/-- R375–R377: the next geometry warp of the submission order commits its primitives under the next PRIMSEQ values and stores their vertex data in the bin arena, and R376: a full arena that every bin has replayed is emptied. R379: a
cluster starts a fragment warp for the next covered quads of its bin. R382: the fragment of the lowest PRIMSEQ at a pixel retires: a killed one leaves nothing, and a colour sample becomes
the blend of its export; a sample that the depth test fails is not reached. The model's choices (log entry 39): how many bytes a primitive takes in the arena is a free value mod 2^16, and the
rights of a depth access. -/
def Obligations.RenderPassEvents : Prop := ∀ (s u v : State) (lid bx by_ px py core base sample pa n : Nat) (l : Launch) (p : Pass) (e : Nat × Nat × Nat × List PrimOut) (ts : List TakenQuad) (f : FragRec) (c : Nat × List Word),
  s.launchOf lid = some l → s.passOf lid = some p →
  (let q : Pass := e.2.2.2.foldl Pass.commitPrim { p with committed := n + 1, waiting := p.waiting.filter (fun x => l.warpOrder x.1 x.2.1 != n), geoInv := p.geoInv + e.2.2.1 }
   let size := Min.min ((q.primBin - p.primBin) * (s.freeValue.toNat % 2 ^ 16)) (p.binSize - p.arena)
   let pieces := pagePieces (size / 4096 + 2) (p.binMem + p.arena) size
   p.arena < p.binSize → n = l.skipClaimed (l.claimed.length * l.kd.warps) p.committed → p.waiting.find? (fun e => l.warpOrder e.1 e.2.1 == n) = some e → s.canReach none l .w pieces = (u, true) →
    exec (.primitiveCommit lid) s = .next (State.countFree ((u.storeArena l pieces).onPass lid fun _ => { q with arena := p.arena + size })) ∧ q.committed = n + 1 ∧ q.geoInv = p.geoInv + e.2.2.1 ∧
      q.primSub = p.primSub + e.2.2.2.length ∧ q.nextSeq = p.nextSeq + e.2.2.2.length ∧ q.primCull + q.primBin = p.primCull + p.primBin + e.2.2.2.length ∧
      q.prims.length + p.primBin = p.prims.length + q.primBin ∧ ∀ b ∈ q.prims, b ∈ p.prims ∨ (p.nextSeq ≤ b.seq ∧ b.seq < q.nextSeq)) ∧
  (p.binSize ≤ p.arena → p.allDrawn = true → exec (.binArenaReplay lid) s = .next (s.onPass lid fun p => { p with arena := 0, replays := p.replays + 1 })) ∧
  (let s1 := s.readyBlocks lid 1
   l.killed = false → l.complete = false → s1.updating = false → s1.readyc.getLsbD (s.binOwner bx by_) = true → s1.withinBudget l p.kernel.needs = true → s1.blocksReady lid 1 = true →
    s1.leafPick (s.binOwner bx by_) p.kernel.coreNeeds = some (core, base) → p.reruns = [] → s1.takeQuads l (by_ * p.binsWide + bx) (p.pending bx by_) [] = (u, ts) → ts ≠ [] →
    pickSlots (emptiest (u.slotsHeld core)) 1 0 (u.slotsHeld core) ≠ [] →
    ∃ t w, exec (.fragmentWarpLaunch lid bx by_) s = .next t ∧ t.warps = u.warps ++ [w] ∧ t.warp = u.warp ∧ t.nextUid = u.nextUid + 1 ∧ w.uid = u.nextUid + 1 ∧ w.kind = .fragment ∧
      w.quads = ts.map (·.1) ∧ w.Starts l p.kernel core (maskOf fun i => decide (i / 4 < ts.length)) ∧
      ∀ q, u.passOf lid = some q → (t.passOf lid).map (·.frags) = some (q.frags ++ fragRecs (u.nextUid + 1) ts)) ∧
  (leastBy FragRec.seq (p.frags.filter fun f => f.px == px && f.py == py) = some f → f.complete = true →
    let gone (s : State) : State := s.onPass lid fun p => { p with frags := p.frags.filter fun g => !(g.px == px && g.py == py && g.seq == f.seq) }
    (f.killed = true → exec (.fragmentRetire lid px py) s = .next (gone s)) ∧
    (f.killed = false → s.canReach (s.owner px py) l p.depthAcc (if p.earlyZ then [] else p.depthReach px py f.cover) = (u, true) →
      u.canReach (u.owner px py) l .w (p.colourReach { f with cover := (u.fragTest l p f).2 }) = (v, true) →
      exec (.fragmentRetire lid px py) s = .next (gone (v.retireFrag l p f)))) ∧
  (let m := u.mergeBytes pa n
   n = texelBytes (p.target c.1 8 1) → 0 < n → s.aim (s.owner f.px f.py) l (p.texelAddr (p.target c.1 0 8) n f.px f.py sample) n .w = (u, some (.home pa)) →
    m.StoresBytes (s.colourSample l p f c sample) pa (leBytes n (blendTexel (p.target c.1 8 1) (p.target c.1 9 1) (p.target c.1 10 1) (m.memRead pa n) c.2)))

/-- R330: a commit fills the other copy of a queue's state and turns SELECT to it. R331–R334: the front end that serves a queue records a new TAIL, adds INC to a counter, waits for a
target or goes on when it is met, and stores and signals in two steps, each a commit. R336: a halted queue is restarted by STATE 1. -/
def Obligations.QueueStepsRun : Prop := ∀ (s u v x : State) (q pa place : Nat) (bs : List Byte) (ch : QChange),
  let f := recField bs
  let cnt (off : Nat) : DWord := BitVec.ofNat 64 (f off 8)
  let room (m : State) (pa inc : Nat) : Prop := (m.mergeBytes pa 8).memRead pa 8 + inc < 2 ^ 64
  let step (m : State) (pa inc : Nat) : State := (m.counterAdd pa inc).1
  (ch.st < 256 → ch.step < 256 → ch.wval < 2 ^ 64 → (∀ i, i < 192 → s.inDram (s.qcb q + i) = true) →
    (∀ c ∈ s.comm, c.line < lineOf (s.qcb q) ∨ lineOf (s.qcb q + 191) < c.line) →
    let t := s.qCommit q ch
    t.qState q = ch.st ∧ t.qStep q = ch.step ∧ t.qWaddr q = ch.waddr ∧ t.qWval q = ch.wval ∧ t.qRing q = s.qRing q ∧ t.qQctr q = s.qQctr q ∧ t.qCopy q ≠ s.qCopy q ∧
      ∀ a, a < s.qcb q ∨ s.qcb q + 192 ≤ a → t.memByte a = s.memByte a) ∧
  (s.qEnabled q = true → s.feReady (s.feOf q) = true → s.qState q ≠ 3 → (s.qQctr q).toNat % 16 = 0 → s.agentCounter (s.qAsid q) (s.qQctr q) .rmw = (u, .ok pa) →
    let m := u.mergeBytes pa 8
    let tail := m.memRead pa 8
    let r := m.homeWrite none (m.qcb q + 8) (leBytes 8 tail)
    (tail = m.qSeen q → exec (.tailWake q) s = .next m) ∧
    (m.qSeen q < tail → tail ≤ m.qHead q + m.qSize q → exec (.tailWake q) s = .next (if r.qState q = 0 then r.qCommit q { r.qNow q with st := 1 } else r)) ∧
    (tail < m.qSeen q → exec (.tailWake q) s = .next (m.qFault q 11 (s.qQctr q) 0 false))) ∧
  (s.Serves q u bs → packetOk bs = true →
    (f 0 1 = 3 → u.qClear q = true → u.agentCounter (u.qAsid q) (cnt 8) .rmw = (v, .ok pa) → room v pa (f 16 8) → exec (.signal q) s = .next ((step v pa (f 16 8)).qAdvance q)) ∧
    (f 0 1 = 4 → u.agentCounter (u.qAsid q) (cnt 8) .r = (v, .ok pa) →
      let m := v.mergeBytes pa 8
      exec (.wait q) s = .next (if f 16 8 ≤ m.memRead pa 8 then m.qAdvance q else m.qCommit q ⟨2, 0, cnt 8, f 16 8⟩)) ∧
    (f 0 1 = 5 → u.qStep q = 0 → u.qClear q = true → u.agentCounter (u.qAsid q) (cnt 24) .rmw = (v, .ok pa) → v.agentPlace (v.qAsid q) (cnt 8) .w false = (x, .ok place) →
      let m := if placePeer place then x else x.homeWrite none (placePa place) (leBytes 8 (f 16 8))
      exec (.writesignalStore q) s = .next (m.qCommit q { m.qNow q with step := 1 })) ∧
    (f 0 1 = 5 → u.qStep q = 1 → u.agentCounter (u.qAsid q) (cnt 24) .rmw = (v, .ok pa) → room v pa (f 32 8) → exec (.writesignalSignal q) s = .next ((step v pa (f 32 8)).qAdvance q)) ∧
    (f 0 1 = 4 → ∀ code cause, u.agentCounter (u.qAsid q) (cnt 8) .r = (v, .bad code cause) → exec (.wait q) s = .next (v.qFault q 12 (v.headAddr q) (BitVec.ofNat 64 code) false))) ∧
  (s.qEnabled q = true → s.qState q = 2 → s.feReady (s.feOf q) = true → s.agentCounter (s.qAsid q) (s.qWaddr q) .r = (u, .ok pa) →
    let m := u.mergeBytes pa 8
    exec (.waitMet q) s = .next (if m.qWval q ≤ m.memRead pa 8 then m.qAdvance q else m)) ∧
  (s.qEnabled q = true → s.qState q = 3 → exec (.queueRestart q) s = .next (s.qCommit q { s.qNow q with st := 1 }))

/-- R333, R336, R337: a launch packet that resolves is accepted under the front end's next number, and one that does not is rejected with its cause. R371: a repeated hand-off is
answered with the launch that it had. R339–R341, R33, R43: Hawthorn places the next workgroup of a launch once a block of arrival counters is ready, its warps as they start, and a reply
returns its permit. R344: the standby takes over with the permits that the leaves report. R335: a launch whose workgroups have exited completes, and DONE
steps. That a workgroup's arrival counters lie in one block at a free address, its warp's at 8 times its number, is the model's choice (log entry 17). -/
def Obligations.LaunchesArePlaced : Prop := ∀ (s u v : State) (q lid core base idx pa cluster cause : Nat) (sent : List Nat) (bs : List Byte) (l l1 : Launch) (kd : KernelDesc) (path : List RegionItems) (ps : List DWord)
    (desc : List Byte) (r : LaunchReq),
  (s.Serves q u bs → packetOk bs = false → exec (.launchPacket q) s = .next (u.qFault q 1 (u.headAddr q) 0 true)) ∧
  (s.Serves q u bs → packetOk bs = true → recField bs 0 1 = 1 → let r := u.packetReq q 0 bs none none
    (u.resolve r = (v, .reject cause) → exec (.launchPacket q) s = .next (v.qReject q r cause)) ∧
    (u.resolve r = (v, .ok kd path ps desc) → exec (.launchPacket q) s = .next ((v.accept (v.feOf q) r kd path ps desc).1.qAdvance q))) ∧
  ((∀ m ∈ s.launches, r.handoff = none ∨ m.handoff ≠ r.handoff) →
    ∃ l, (s.accept q r kd path ps desc).1.launches = s.launches ++ [l] ∧ l.lid = 16 * ((s.fe q).count + 1) + q ∧ (s.accept q r kd path ps desc).2 = l.lid ∧ l.asid = r.asid ∧ l.kd = kd ∧ l.path = path ∧
      l.params = ps ∧ l.done = r.done ∧ l.handoff = r.handoff ∧ l.unplaced = List.range (r.gx * r.gy * r.gz) ∧ l.exited = [] ∧ (s.accept q r kd path ps desc).1.mem = s.mem) ∧
  (r.handoff ≠ none → s.launches.find? (fun m => m.handoff == r.handoff) = some l → s.accept q r kd path ps desc = (s, l.lid)) ∧
  (s.hawReady = true → s.launchOf lid = some l →
    let m : State := { s with gathering := s.bestGang }
    m.heldByGang l = false → (∀ n ∈ s.launches, n.lid ≠ lid → m.ahead n l = true → m.servable n = false) → m.placing l = 1 → m.readyBlocks lid 1 = v →
    v.blocksReady lid 1 = true → v.launchOf lid = some l1 → l1.gang = false → l1.killed = false → l1.complete = false → v.hasSaved lid = false →
    l1.next (v.idleLaunch lid) = some idx → v.findPlace l1 l1.kd.coreNeeds = some (core, base, sent) → v.leafActs (clusterOf core) (v.hawSeq + sent.length) = true →
    ∃ t ws g l' block, exec (.place lid) s = .next t ∧ t.warps = v.warps ++ ws ∧ t.warp = v.warp ∧ t.wgs = v.wgs ++ [g] ∧ g.launch = lid ∧ g.idx = idx ∧ g.core = core ∧ g.sramBase = base ∧ g.pre = .running ∧
      g.uids = ws.map (·.uid) ∧ t.launchOf lid = some l' ∧ idx ∉ l'.unplaced ∧ t.permitsUsed (clusterOf core) = v.permitsUsed (clusterOf core) + 1 ∧ t.hawSeq = v.hawSeq + sent.length ∧
      block ∈ l1.arrivals ∧ block ∉ l'.arrivals ∧ ws.map (·.slot) = pickSlots (emptiest (v.slotsHeld core)) l1.kd.warps 0 (v.slotsHeld core) ∧
      ∀ w ∈ ws, w.wg = idx ∧ w.Starts l1 l1.kd core (BitVec.allOnes 64) ∧ w.kind = (if l1.geometry then .geometry else .compute) ∧ w.arrival = block + BitVec.ofNat 64 (8 * w.inWg) ∧
        ∀ i, rd w.k i = l1.params.getD i 0) ∧
  (∃ t, exec (.placeReply cluster) s = .next t ∧ t.mem = s.mem ∧ s.SameWarps t ∧ ∀ c, t.permitsUsed c = if c = cluster then s.permitsUsed c - 1 else s.permitsUsed c) ∧
  (exec .hawthornTakeover s = .next (if s.hawActive = 0 then { (s.logEvent 5 0 0 0) with hawActive := 1, permits := s.leafOpen } else s)) ∧
  (s.launchOf lid = some l → s.launchOver l = true → s.passOf lid = none →
    (l.done = 0 → exec (.launchCompletion lid) s = .next { (s.onLaunch lid fun l => { l with complete := true }) with passes := s.passes.filter fun p => p.launch != lid }) ∧
    (l.done ≠ 0 → ∀ a, s.agentCounter l.asid l.done .rmw = (u, .ok a) → u.passOf lid = none → u.launchOf lid = some l → u.agentCounter l.asid l.done .rmw = (v, .ok pa) → v.launchOf lid = some l →
      (v.mergeBytes pa 8).memRead pa 8 + 1 < 2 ^ 64 →
      ∃ t, exec (.launchCompletion lid) s = .next t ∧ t.launchOf lid = some { l with complete := true } ∧
        (v.mergeBytes pa 8).StoresBytes t pa (leBytes 8 ((v.mergeBytes pa 8).memRead pa 8 + 1))))

/-- R338: a TYPE 2 packet starts a prologue whose handler registers hold the grid, the packet's address and the repeat count; its verdict launches, cancels or repeats over the kernel
descriptor and the region path read before it, more than 65,536 groups are cause 9, and a trap or another verdict is cause 8. R332, R372: a queue's slice ends when another can run, and
a front end that commits nothing for 1 ms is reset. -/
def Obligations.ProloguesAndFrontEnds : Prop := ∀ (s u v x : State) (q fe c other cause : Nat) (done : Bool) (bs ps : List Byte) (kd : KernelDesc) (path : List RegionItems) (p : Prologue) (w : Warp) (h : Solo)
    (kd2 : KernelDesc) (path2 : List RegionItems) (ps2 : List DWord) (desc : List Byte),
  let r (rep : Nat) : LaunchReq := u.packetReq q rep bs none none
  let f := u.feOf q
  let low (i : Nat) : Nat := (rd h.h i).toNat % 2 ^ 32
  let given := u.packetReq q p.rep bs (some (low 1, low 2, low 3)) (some ((List.range p.kd.nparam).map fun i => rd w.k i))
  (s.Serves q u bs → packetOk bs = true → recField bs 0 1 = 2 →
    ((u.fe f).prologue = none → u.resolveHead (r (u.qWval q)) = (v, .ok (kd, path)) → (r 0).params.toNat % 8 = 0 → v.agentRead (r 0).asid false 2 (r 0).params (8 * kd.nparam) = (x, .ok ps) →
      ∃ t w h, (u.qWval q = 0 → exec (.twoStageLaunch q) s = .next t) ∧ (u.qWval q ≠ 0 → exec (.prologueRepeat q) s = .next t) ∧ t.mem = x.mem ∧ w ∈ t.warps ∧ w.kind = .prologue (x.feOf q) ∧ w.solo = some h ∧
        h.pc = BitVec.ofNat 64 (recField bs 48 8) ∧ rd h.h 1 = BitVec.ofNat 64 (r 0).gx ∧ rd h.h 2 = BitVec.ofNat 64 (r 0).gy ∧ rd h.h 3 = BitVec.ofNat 64 (r 0).gz ∧ rd h.h 4 = x.headAddr q ∧
        rd h.h 5 = BitVec.ofNat 64 (u.qWval q) ∧ (t.fe (x.feOf q)).prologue = some { queue := q, rep := u.qWval q, groups := 0, kd := kd, path := path }) ∧
    ((u.fe f).prologue = some p → u.prologueWarp f = some w →
      (w.frag.state = .trapped ∨ u.killed (prologueLid f) = true → exec (.twoStageLaunch q) s = .next ((u.endPrologue f).qReject q (r p.rep) 8)) ∧
      (w.frag.state ≠ .trapped → u.killed (prologueLid f) = false →
        (65536 < p.groups → exec (.twoStageLaunch q) s = .next ((u.endPrologue f).qReject q (r p.rep) 9)) ∧
        (p.groups ≤ 65536 → w.solo = some h → h.wait = .parked → u.quiet w.uid = true →
          (3 ≤ (rd h.h 0).toNat → exec (.twoStageLaunch q) s = .next ((u.endPrologue f).qReject q (r p.rep) 8)) ∧
          (rd h.h 0 = 1 → u.stepDone (r p.rep).asid p.path (r p.rep).done 0 (r p.rep).rcb = (v, done) → exec (.twoStageLaunch q) s = .next (if done then (v.endPrologue f).qAdvance q else v)) ∧
          (rd h.h 0 = 0 ∨ rd h.h 0 = 2 → u.resolveAfter given p = (v, .reject cause) → exec (.twoStageLaunch q) s = .next ((v.endPrologue f).qReject q given cause)) ∧
          (u.resolveAfter given p = (v, .ok kd2 path2 ps2 desc) → let a := (v.accept f given kd2 path2 ps2 desc).1.endPrologue f
            (rd h.h 0 = 0 → exec (.twoStageLaunch q) s = .next (a.qAdvance q)) ∧ (rd h.h 0 = 2 → exec (.twoStageLaunch q) s = .next (a.qCommit q { a.qNow q with wval := p.rep + 1 }))))))) ∧
  ((s.fe fe).prologue = some p → 65536 < p.groups → s.headPacket p.queue = (u, .ok bs) →
    exec (.prologueGroupLimit fe) s = .next ((u.endPrologue fe).qReject p.queue (u.packetReq p.queue p.rep bs none none) 9)) ∧
  ((s.fe fe).cur = some c → (s.fe fe).prologue = none → s.qQuantum c ≠ 0 → (s.fe fe).since + 800 * s.qQuantum c ≤ s.clock →
    s.pickQueue fe ((s.runnableOf fe).filter fun q => q != c && decide (s.qPrio c ≤ s.qPrio q)) = some other →
    ∃ t, exec (.quantumExpiry fe) s = .next t ∧ (t.fe fe).cur = some other ∧ (t.fe fe).since = s.clock ∧ t.mem = (s.qCommit c (s.qNow c)).mem) ∧
  ((s.fe fe).prologue.isSome || !(s.runnableOf fe).isEmpty → (s.fe fe).commit + 800000 ≤ s.clock →
    ∃ t, exec (.frontEndWatchdog fe) s = .next t ∧ (t.fe fe).prologue = none ∧ (t.fe fe).cur = none ∧ (t.fe fe).commit = s.clock ∧ ∀ w, s.prologueWarp fe = some w → ∀ y ∈ t.allWarps, y.uid ≠ w.uid)

/-- R362, R363, R369: a pre-empted workgroup stops, its method is chosen once it stands, and a drain past its bound, at most 20 µs for a requester of PRIO 7, is saved or flushed. R364: a flush discards the
run and the workgroup is unplaced again. R365–R367: a save writes the image, whose warps then hold no slot; replies go into it; a restore loads registers and core SRAM from it. R124: a debug
stop is released. -/
def Obligations.PreemptionEvents : Prop := ∀ (s : State) (lid wg area wi lane core base uid op slot pa : Nat) (sent : List Nat) (l : Launch) (g : Wg) (w : Warp) (y at2 : DWord) (u : State) (h : Solo) (jobs : List Nat) (bad : Bool),
  let at_ (t : State) (p : PreState) : Prop := (t.wgOf lid wg).map (fun g => (g.pre, g.preSince)) = some (p, s.clock)
  let pend := s.recordAt g wi + 4352
  let pmeth := (l.path.headD RegionItems.empty).pmeth
  let waiter := (w.fragAt (s.memRead (pend + 1) 1)).wait
  s.launchOf lid = some l → s.wgOf lid wg = some g → s.wgs.filter (fun h => h.launch == lid && h.idx == wg) = [g] →
  (g.pre = .running → ∃ t, exec (.preemptionRequest lid wg) s = .next t ∧ t.mem = s.mem ∧ at_ t .stopping ∧ (t.wgOf lid wg).map (·.forPrio) = some (s.requester lid) ∧
    ∀ w ∈ t.allWarps, w.launch = lid → w.wg = wg → w.chainOpen = false) ∧
  (g.pre = .stopping → ∃ t, exec (.preemptStopped lid wg) s = .next t ∧ t.mem = s.mem ∧ s.SameWarps t ∧ at_ t (s.method l g)) ∧
  (l.gang = true → s.method l g = if pmeth.testBit 1 then .saving else .draining) ∧
  (l.gang = false → l.hint = 0 → s.method l g = if s.flushable l g then .flushing else if pmeth.testBit 1 then .saving else .draining) ∧
  (g.drainBound l ≤ 800 * (l.path.headD RegionItems.empty).pbound ∨ g.forPrio = 7 ∧ g.drainBound l = 16000) ∧ (g.forPrio = 7 → 0 < g.drainBound l ∧ g.drainBound l ≤ 16000) ∧
  (g.pre = .draining → g.drainBound l ≠ 0 → g.preSince + g.drainBound l ≤ s.clock →
    (pmeth.testBit 1 = true → ∃ t, exec (.drainBoundExpiry lid wg) s = .next t ∧ t.mem = s.mem ∧ at_ t .saving) ∧
    (pmeth.testBit 1 = false → s.flushable l g = true → ∃ t, exec (.drainBoundExpiry lid wg) s = .next t ∧ t.mem = s.mem ∧ at_ t .flushing)) ∧
  (g.pre = .saving → l.gang = false → (s.withdraw g).saveArea l.asid area ((s.withdraw g).imageLen g) = true → (∀ i, i < 16 → s.inDram (area + i) = true) → (s.withdraw g).saveReady g = true →
    ∃ t, exec (.workgroupSave lid wg area) s = .next t ∧ (t.wgOf lid wg).map (fun g => (g.pre, g.image)) = some (.saved, area) ∧ (∀ w ∈ t.allWarps, w.uid ∉ g.uids) ∧
      t.saved = (s.withdraw g).saved ++ (s.withdraw g).warpsOf g ∧ t.memRead area 4 = 0x49575350 ∧ t.memRead (area + 8) 8 = l.lid % 2 ^ 64 ∧
      t.mem = (((s.withdraw g).imageParts l g ((s.withdraw g).recordOrder g)).foldl (fun s p => s.homeWrite none (area + p.1) p.2) (s.withdraw g)).mem) ∧
  (g.pre = .flushing → s.flushBusy g = false → (∀ w ∈ (s.withdraw g).warpsOf g, w.kind ≠ .fragment) → ∃ t, exec (.workgroupFlush lid wg) s = .next t ∧ t.mem = (s.withdraw g).mem ∧ t.wgOf lid wg = none ∧
    (∀ w ∈ t.allWarps, w.uid ∉ g.uids) ∧ t.launchOf lid = ((s.withdraw g).launchOf lid).map fun l => { l with unplaced := insertBy id wg l.unplaced }) ∧
  (g.pre = .saved → lane < 64 → (s.savedOf g)[wi]? = some w → (s.memQ (pend + 8)).getLsbD lane = true → (s.memQ (pend + 16)).getLsbD lane = false →
    (s.memRead pend 1 = 1 → (∀ j ∈ s.copyJobs, ¬(j.uid = w.uid ∧ j.lane = lane)) → waiter = .cpyY at2 jobs bad →
      exec (.savedImageReplyWrite lid wg wi lane) s = .next ((if bad then s.homeWrite none (pend + 32) [1] else s).setReady (s.recordAt g wi) lane)) ∧
    (s.memRead pend 1 = 2 → waiter = .sysc op → s.takeReply op lane = some (u, y) →
      exec (.savedImageReplyWrite lid wg wi lane) s = .next ((u.homeWrite none (pend + 64 + 8 * lane) (leBytes 8 y.toNat)).setReady (s.recordAt g wi) lane)) ∧
    (s.memRead pend 1 = 3 → w.solo = some h → h.wait = .upcall at2 → s.reachAs (some (s.asidOf lid)) at2.toNat .r (s.region lid).system = some pa → bit at2 0 = false → s.bytesOwned pa 32 = false →
      let m := s.mergeBytes pa 32
      m.memQ (pa + 8) ≠ 0 → exec (.savedImageReplyWrite lid wg wi lane) s =
        .next ((m.homeWrite none (pend + 64) (leBytes 8 (m.memRead (pa + 16) 8) ++ leBytes 8 (m.memRead (pa + 24) 8))).setReady (s.recordAt g wi) 0))) ∧
  (g.pre = .saved → s.hawReady = true → l.killed = false → l.gang = false → s.heldByGang l = false → (∀ m ∈ s.launches, m.lid ≠ lid → s.ahead m l = true → s.servable m = false) →
    s.findPlace l (s.savedNeeds g) = some (core, base, sent) →
    ∃ t, exec (.workgroupRestore lid wg) s = .next t ∧ t.mem = s.mem ∧ (t.wgOf lid wg).map (fun g => (g.pre, g.core, g.sramBase)) = some (.running, core, base) ∧ (∀ w ∈ t.saved, w.uid ∉ g.uids) ∧
      (∀ i, i < g.sramSize → rd t.sram (core * 2 ^ 19 + base + i) = s.memByte (g.image + 512 + i)) ∧
      ((s.savedOf g)[wi]? = some w → (pickSlots (emptiest (s.slotsHeld core)) (s.savedOf g).length 0 (s.slotsHeld core))[wi]? = some slot →
        ∃ w' ∈ t.warps, w'.uid = w.uid ∧ w'.core = core ∧ w'.slot = slot ∧ w'.latValid = 0 ∧ ∀ i, i < 48 → rd w'.k i = s.memQ (s.recordAt g wi + 64 + 8 * i))) ∧
  (s.findWarp uid = some w → ∃ t w', exec (.debugRelease uid) s = .next t ∧ t.mem = s.mem ∧ t.findWarp uid = some w' ∧ w.SameRegs w' ∧ w'.debug = false ∧
    (∀ h, w'.solo = some h → h.debugStopped = false) ∧ ∀ e f, SMap.find e w.live = some f → f.mask ≠ 0 → f.state = .debugStopped →
      SMap.find e w'.live = some { f with state := if w.solo.any (fun h => h.entry == e) then .trapped else .ready })

/-! Tregrim's services (R307, R308, R315–R320, R394–R400, R432). -/

/-- R394–R397: a call that is run gets one result. MEMALLOC maps nothing yet for homes 00 and 11 and pins the others; MEMFREE unmaps a range whose addresses then belong to no allocation and have no cached translation; MEMPROTECT
changes rights with the shootdown; LINK stores a relocated image; SHAREMAP links a registered set, whose leaves are SHARED without W; R320: a context is created over a zeroed root and
has a queue. That a length of 0 answers BADARG (log entry 46), which base and frames a plan gives (log entry 27) and which rights the page of a lend or of a copy-on-write gets as COW
(log entry 45) are the model's choices. -/
def Obligations.MemoryServices : Prop := ∀ (s u : State) (c : Nat) (x : Call) (base code const kd rcb : DWord) (plan : List (Nat × DWord)) (asid : BitVec 16) (root : Nat) (bs rcbBytes : List Byte) (i : KImage) (set : SharedSet) (rt : Nat) (m : State)
    (sets : List (DWord × DWord)) (images : List (Bool × Nat × List Byte)) (queue : Option (Nat × DWord × Nat × Nat × DWord)),
  let lo := x.num 0
  let n := x.num 1
  (∀ r, (∀ k ∈ (s.answer x r).calls, k.id = x.id → k.result = some r) ∧ (s.answer x r).mem = s.mem ∧ s.SameWarps (s.answer x r)) ∧
  (let pl := x.num 1
   let home := x.num 2 % 4
   let bytes := (x.num 0 + 2 ^ pl - 1) / 2 ^ pl * 2 ^ pl
   let a : Alloc := { asid := x.asid, base := base, bytes := bytes, pageLog2 := pl, home := home, homeId := x.num 3, rights := (x.arg 2).extractLsb' 4 3 }
   let b := base.toNat
   s.Called c 0x01 x →
    (x.num 0 = 0 ∨ pl ∉ [12, 16, 21, 30] → exec (.memalloc c base plan) s = .next (s.answer x badArg)) ∧
    (x.clean 4 = true → x.num 0 ≠ 0 → pl ∈ [12, 16, 21, 30] → x.arg 2 &&& ~~~0x73 = 0 → s.homeOk home (x.num 3) pl = true → base ≠ noMem → s.pinFits home (x.num 3) bytes = true →
      canonicalRange b bytes = true → b % 2 ^ pl = 0 → (∀ z ∈ s.treg.allocs, z.asid = x.asid → overlap b bytes z.base.toNat z.bytes = false) →
      (home = 0 ∨ home = 3 → plan = [] → (∀ va ∈ pagesOf b (b + bytes), s.isMiss x.asid va = true) →
        exec (.memalloc c base plan) s = .next ((s.withTreg fun t => { t with allocs := t.allocs ++ [a] }).answer x base)) ∧
      (home = 1 ∨ home = 2 → s.mapRange x.asid b (b + bytes) plan a.allows = some u →
        exec (.memalloc c base plan) s = .next ((u.withTreg fun t => { t with allocs := t.allocs ++ [a] }).answer x base)))) ∧
  (s.Called c 0x02 x → x.clean 2 = true →
    (∀ r, s.rangeRefused x.asid lo n = some r → exec (.memfree c plan) s = .next (s.answer x r)) ∧
    (s.rangeRefused x.asid lo n = none → s.lent x.asid lo (lo + n) = false → s.unmapRange x.asid lo (lo + n) plan = some u →
      ∃ t, exec (.memfree c plan) s = .next t ∧ t.mem = u.mem ∧ t.calls = (u.answer x 0).calls ∧ (∀ va, lo ≤ va → va < lo + n → t.allocOf x.asid va = none) ∧
        ∀ e ∈ t.tlb, ¬(e.asid = x.asid ∧ e.vpn * 4096 < lo + n ∧ lo < (e.vpn + e.pages) * 4096))) ∧
  (let ls := s.leavesIn x.asid lo (lo + n)
   let rights : BitVec 3 := BitVec.ofNat 3 (x.num 2)
   let held (l : Leaf) : Bool := (pagesOf lo (lo + n)).any fun va => s.walkLeaf x.asid va == some l && s.leafHeld x.asid va l
   s.Called c 0x03 x → x.clean 3 = true → x.num 2 < 8 → s.rangeRefused x.asid lo n = none → s.planOk x.asid plan = true → (∀ l ∈ ls, ∃ e ∈ plan, e.1 = l.at_ ∧ reright rights (held l) l.entry e.2 = true) →
    (∀ e ∈ plan, ∃ l ∈ ls, l.at_ = e.1) → (∀ l ∈ ls, s.rangeBusy l.frame l.bytes = false) →
    ∃ t, exec (.memprotect c plan) s = .next t ∧ t.mem = (s.writePlan plan).mem ∧ t.calls = (s.answer x 0).calls ∧
      (∀ a ∈ t.treg.allocs, a.asid = x.asid → a.bytes ≠ 0 → overlap lo n a.base.toNat a.bytes = true → a.rights = rights) ∧
      ∀ e ∈ t.tlb, ¬(e.asid = x.asid ∧ e.vpn * 4096 < lo + n ∧ lo < (e.vpn + e.pages) * 4096)) ∧
  (s.Called c 0x20 x → x.clean 2 = true → 64 ≤ n → s.agentRead x.asid false (n / 4096 + 2) (x.arg 0) n = (u, .ok bs) →
    (imageOfBytes bs = none → exec (.link c code const kd plan) s = .next (u.answer x badArg)) ∧
    (let cb := code.toNat
     let db := const.toNat
     let kb := kd.toNat
     let r := i.rels.foldl (KImage.relocate cb db) i
     let parts := [(true, cb, r.code), (false, db, r.const), (true, kb, r.kds)]
     imageOfBytes bs = some i → i.ok = true → kd ≠ noMem → canonicalRange cb i.code.length = true → canonicalRange db i.const.length = true → canonicalRange kb i.kds.length = true →
      cb % i.codeAlign = 0 → db % i.constAlign = 0 → kb % 64 = 0 → overlap cb i.code.length kb i.kds.length = false → (∀ e ∈ plan, eV (u.memQ e.1) = false) →
      u.planned x.asid plan (fun va l shared => !shared && partLeaf parts va l) = some m →
      (∀ p ∈ parts, p.2.2 ≠ [] → ∀ va ∈ pagesOf p.2.1 (p.2.1 + p.2.2.length), u.isMiss x.asid va = true ∧ u.allocOf x.asid va = none ∧ ∃ l, m.walkLeaf x.asid va = some l ∧ linkedLeaf p.1 l = true) →
      exec (.link c code const kd plan) s = .next ((parts.foldl (fun t p => t.putVa x.asid (p.2.2.length / 4096 + 2) p.2.1 p.2.2) m).answer x kd))) ∧
  (s.setOk set = true → (s.registerSet (set.id, set.level, set.tables)).treg.sets = s.treg.sets ++ [set] ∧
    ∀ t ∈ set.tables, ∀ e ∈ s.leavesFrom (set.level - 1) t 0 true, eShared e.2.1.entry = true ∧ eW e.2.1.entry = false) ∧
  (let span := if set.level = 3 then 2 ^ 30 else 2 ^ 21
   s.Called c 0x21 x → x.clean 2 = true → s.treg.sets.find? (fun y => y.id == x.arg 0) = some set → s.rootOf x.asid = some rt → x.num 1 % span = 0 → canonicalRange (x.num 1) (span * set.tables.length) = true →
    (∀ e ∈ set.tables.zipIdx, ∀ a, s.entryAt (x.num 1 + span * e.2) set.level 4 rt = some a → eV (s.memQ a) = false) →
    (plan = [] → exec (.sharemap c { register := [], tables := plan }) s = .next (s.answer x noMem)) ∧
    (plan ≠ [] → (∀ e ∈ plan, eV (s.memQ e.1) = false) → s.planned x.asid plan (fun _ _ shared => shared) = some m →
      (∀ e ∈ set.tables.zipIdx, ∃ a, m.entryAt (x.num 1 + span * e.2) set.level 4 rt = some a ∧ m.memQ a = setBit (setField (1 : DWord) 12 36 (e.1 / 4096)) 59 true) →
      exec (.sharemap c { register := [], tables := plan }) s = .next (m.answer x 0))) ∧
  (let z : State := { s.zeroRange root 65536 with ctxs := (s.zeroRange root 65536).ctxs ++ [{ asid := asid, ptroot := root, rootRcb := rcb }] }
   let made : CtxPlan := { register := [], tables := plan, rcbBytes := rcbBytes, sets := sets, images := images, queue := queue }
   let t := images.foldl (fun t e => t.putVa asid (e.2.2.length / 4096 + 2) e.2.1 e.2.2) (m.putVa asid 2 rcb.toNat rcbBytes)
   s.asidFree asid = true → root % 65536 = 0 → s.inDram root = true → s.inDram (root + 65535) = true → s.dramReady root = true → rcbBytes.length = 256 → z.planned asid plan (ctxLeafOk made rcb) = some m →
    t.ctxMade asid root rcb made = true →
    t.rootOf asid = some root ∧ t.rootRcbOk asid root rcb = true ∧
    ∃ q ring lg prio ctr, queue = some (q, ring, lg, prio, ctr) ∧ exec (.contextCreate asid root rcb made) s = .next (t.openQueue q ring asid lg prio rcb ctr))

/-- R308, R315, R317, R318: QSDECLARE declares a region whose leaves are EMPTY; QSREARM and QSEVICT make FAILED and FILLED blocks EMPTY; QSWITHDRAW fails what is filling and unmaps the region; Tregrim does each for itself too. R395: QCREATE
writes a new queue's control block and QDESTROY disables an empty queue. -/
def Obligations.QuicksetAndQueueServices : Prop := ∀ (s u v t : State) (c q leader b pa : Nat) (x y : Call) (r : QRegion) (ring : DWord) (asid : BitVec 16) (plan : List (Nat × DWord)) (stock : List Nat) (bs kb pair : List Byte) (path : List RegionItems),
  let inMem : Prop := ∀ i, i < 8 → s.inDram (leader + i) = true
  (let lo := r.base.toNat
   (s.Called c 0x10 x → x.clean 1 = true → s.agentRead x.asid false 2 (x.arg 0) 64 = (u, .ok bs) → exec (.qsdeclare (.call c) stock plan) s = .next (u.declare x stock plan bs)) ∧
   (bs.length = 64 → exec (.qsdeclare (.own asid bs) stock plan) s = .next (s.declare (s.ownCall 0x10 asid 0) stock plan bs)) ∧
   (qregionOf y.asid bs = none → u.declare y stock plan bs = u.answer y badArg) ∧
   (qregionOf y.asid bs = some r → u.agentRead y.asid false 2 r.genKd 64 = (v, .ok kb) → recField kb 24 2 * recField kb 26 2 * recField kb 28 2 ≠ 64 →
      u.declare y stock plan bs = v.answer y badArg) ∧
   (qregionOf y.asid bs = some r → u.agentRead y.asid false 2 r.genKd 64 = (v, .ok kb) → recField kb 24 2 * recField kb 26 2 * recField kb 28 2 = 64 →
      (∀ va ∈ pagesOf lo (lo + r.size), v.isMiss y.asid va = true) → v.regionPath y.asid r.genRcb.toNat = some path →
      (plan = [] → u.declare y stock plan bs = v.answer y noMem) ∧
      (plan ≠ [] → v.mapRange y.asid lo (lo + r.size) plan r.leafOk = some t → u.declare y stock plan bs = (({ t with regions := t.regions ++ [r] } : State).stock stock).answer y 0))) ∧
  (let fresh (t : State) : Prop := t.memQ leader = setField (setField (s.memQ leader) 62 2 0) 12 36 0 ∧ ∀ a, a < leader ∨ leader + 8 ≤ a → t.memByte a = s.memByte a
   (s.Called c 0x11 x → x.clean 1 = true → s.leaderAt x.asid (x.num 0) = some (r, b, leader) →
    (eFill (s.memQ leader) ≠ 3 → exec (.qsrearm (.call c)) s = .next (s.answer x notFound)) ∧
    (eFill (s.memQ leader) = 3 → inMem → ∃ t, exec (.qsrearm (.call c)) s = .next t ∧ fresh t ∧ t.calls = (s.answer x 0).calls)) ∧
   (s.leaderAt asid ring.toNat = some (r, b, leader) → eFill (s.memQ leader) = 3 → inMem → ∃ t, exec (.qsrearm (.own asid ring)) s = .next t ∧ fresh t ∧ t.calls = s.calls)) ∧
  (s.Called c 0x13 x → x.clean 1 = true → s.leaderAt x.asid (x.num 0) = some (r, b, leader) →
    (eFill (s.memQ leader) ≠ 2 → exec (.qsevict (.call c)) s = .next (s.answer x 0)) ∧
    (eFill (s.memQ leader) = 2 → inMem → s.rangeBusy (ePa (s.memQ leader)) (2 ^ r.blkLog2) = false → (∀ i, i < 2 ^ r.blkLog2 / 128 → s.lineOwned (lineOf (ePa (s.memQ leader)) + i) = false) →
      ∃ t, exec (.qsevict (.call c)) s = .next t ∧ eFill (t.memQ leader) = 0 ∧ t.calls = (s.answer x 0).calls ∧ t.pool (homeDie leader) = s.pool (homeDie leader) ++ [ePa (s.memQ leader)])) ∧
  (let leaders := s.leadersOf r
   let failed := (s.fills.filter fun f => leaders.contains f.leader).foldl (fun s f =>
     let s := s.failBlock f.leader 0xFFFD
     match f.launch with
     | some lid => s.dropLaunchWarps lid
     | none => s) s
   let lo := r.base.toNat
   let ls := failed.leavesIn x.asid lo (lo + r.size)
   s.Called c 0x12 x → x.clean 1 = true → s.regions.find? (fun r => r.asid == x.asid && r.base == x.arg 0) = some r → (∀ l ∈ ls, failed.rangeBusy (ePa l.entry) l.bytes = false) →
    ∃ t, exec (.qswithdraw (.call c)) s = .next t ∧ t.mem = (failed.writePlan (ls.map fun l => (l.at_, 0))).mem ∧ t.calls = (failed.answer x 0).calls ∧ (∀ z ∈ t.regions, ¬(z.asid = r.asid ∧ z.base = r.base)) ∧
      ∀ e ∈ t.tlb, ¬(e.asid = x.asid ∧ e.vpn * 4096 < lo + r.size ∧ lo < (e.vpn + e.pages) * 4096)) ∧
  (let lg := x.num 0
   let lo := ring.toNat
   ∀ w m, s.Called c 0x30 x → x.clean 4 = true → 6 ≤ lg → lg ≤ 16 → x.num 1 ≤ 7 → x.num 2 % 256 = 0 → s.agentCounter x.asid (x.arg 3) .rmw = (u, .ok pa) → u.agentRead x.asid false 2 (x.arg 3) 16 = (w, .ok pair) →
    w.qctrOk x.asid (x.arg 3) = true → recZero pair 0 16 = true → w.regionPath x.asid (x.num 2) = some path → path.length = 1 →
    (w.qbase = 0 ∨ 1024 ≤ q → exec (.qcreate c q ring plan) s = .next (w.answer x noMem)) ∧
    (w.qbase ≠ 0 → q < 1024 → w.qEnabled q = false → lo % 4096 = 0 → canonicalRange lo (64 * 2 ^ lg) = true → (∀ va ∈ pagesOf lo (lo + 64 * 2 ^ lg), w.allocOf x.asid va = none) → w.mapRange x.asid lo (lo + 64 * 2 ^ lg) plan ringLeaf = some m →
      let n : State := { m.countFree with launches := m.launches.map fun l => if l.handoff.any (fun h => h.1 == q) then { l with handoff := none } else l }
      ∃ quantum, exec (.qcreate c q ring plan) s = .next (State.answer (State.qcbCommit (n.homeWrite none (n.qcb q + 8) (leBytes 16 0)) q (leBytes 8 lo ++ leBytes 2 x.asid.toNat ++ leBytes 1 lg ++ leBytes 1 (x.num 1 + 8) ++
        leBytes 2 0 ++ leBytes 2 quantum ++ leBytes 8 (x.num 2) ++ leBytes 16 0 ++ leBytes 8 (x.arg 3).toNat ++ leBytes 16 0)) x (BitVec.ofNat 64 q)))) ∧
  (let n := x.num 0
   s.Called c 0x31 x → x.clean 1 = true → n < 1024 → s.qEnabled n = true → s.qAsid n = x.asid → s.agentCounter x.asid (s.qQctr n) .r = (u, .ok pa) →
    let m := u.mergeBytes pa 8
    let old := (List.range 64).map fun i => m.memByte (m.qCopy n + i)
    (m.qHead n ≠ m.memRead pa 8 → exec (.qdestroy c) s = .next (m.answer x busyObject)) ∧
    (m.qHead n = m.memRead pa 8 → exec (.qdestroy c) s = .next ((m.qcbCommit n (old.take 11 ++ leBytes 1 (m.qPrio n) ++ old.drop 12)).answer x 0)))

/-- R394, R395: socket calls answer what the network makes of them, or BADARG and NOTFOUND for what names no socket. R398: SEND copies its bytes, or lends the pages and takes W from them until the lend ends and its counter
steps. R400: RECV maps what was received read-only, and RETURN unmaps it. That a socket from ACCEPT has the blocking mode of the socket that listens, that a COPY steps no counter and that pages
whose leaf had no W lend as COW (log entry 47), and which port sends (log entry 9), are the model's choices. -/
def Obligations.SocketServices : Prop := ∀ (s u v : State) (c lend pa : Nat) (places : List (Nat × Nat)) (x : Call) (r base : DWord) (plan : List (Nat × DWord)) (bs bytes : List Byte) (k : Sock) (ln : Lend),
  let known (named : Nat) : Prop := x.clean named = true ∧ s.sockOf x = some k
  let accepted (named : Nat) : Prop := known named ∧ sockFailure k r = false
  (s.Called c 0x40 x → x.clean 2 = true → x.num 0 ≤ 1 → x.num 1 ≤ 1 → r ≠ noMem → s.freshSock x r = true →
    exec (.socket c r) s = .next ((s.addSock { id := r, asid := x.asid, udp := x.num 0 == 1, nonblocking := x.num 1 == 1 }).answer x r)) ∧
  (accepted 2 → r = 0 →
    (s.Called c 0x43 x → exec (.listen c r) s = .next (s.answer x 0)) ∧
    (s.agentRead x.asid false 2 (x.arg 1) 32 = (u, .ok bs) → recField bs 0 2 = 2 ∨ recField bs 0 2 = 10 →
      (s.Called c 0x41 x → exec (.bind c r) s = .next (u.answer x 0)) ∧ (s.Called c 0x42 x → exec (.connect c r) s = .next (u.answer x 0)))) ∧
  (known 2 → sockFailure k r = true → (s.Called c 0x41 x → exec (.bind c r) s = .next (s.answer x r)) ∧ (s.Called c 0x42 x → exec (.connect c r) s = .next (s.answer x r))) ∧
  (s.Called c 0x43 x → x.clean 2 = true → s.sockOf x = none → exec (.listen c r) s = .next (s.answer x notFound)) ∧
  (accepted 1 → s.Called c 0x44 x → s.freshSock x r = true → exec (.accept c r) s = .next ((s.addSock { k with id := r }).answer x r)) ∧
  (known 1 → s.Called c 0x48 x → ∃ t, exec (.close c) s = .next t ∧ t.mem = s.mem ∧ t.calls = (s.answer x 0).calls ∧ t.sockOf x = none) ∧
  (let n := x.num 2
   let lo := x.num 1
   let vpns := (pagesOf lo (lo + n)).map (· / 4096)
   let ps := u.leafPages x.asid lo (lo + n)
   let ls := u.leavesIn x.asid (lo / 4096 * 4096) (lo + n)
   accepted 5 → s.Called c 0x45 x → n ≠ 0 → n ≤ 2 ^ 24 → x.num 3 % 8 = 0 → s.agentRead x.asid false (n / 4096 + 2) (x.arg 1) n = (u, .ok bs) → r.toNat ≤ n →
    (x.num 4 = 1 → exec (.send c r) s = .next ((u.transmit (bs.take r.toNat)).answer x r)) ∧
    (x.num 4 = 0 → (∀ l ∈ ls, eQs l.entry = false ∧ u.rangeBusy l.frame l.bytes = false) →
      ∃ t ld, exec (.send c r) s = .next t ∧ t.mem = (u.lendPages x.asid ps).mem ∧ t.tlb = (u.lendPages x.asid ps).tlb ∧ t.calls = (u.answer x r).calls ∧ t.treg.lends = u.treg.lends ++ [ld] ∧ ld.asid = x.asid ∧ ld.vpns = vpns ∧
        ld.counter = x.arg 3 ∧ ∃ p, p < 2 ∧ t.outbox = u.outbox ++ [{ kind := 0x45, error := false, bytes := (leBytes 6 (u.portMac p).toNat).reverse ++ bs.take r.toNat }])) ∧
  (s.treg.lends.find? (fun l => l.id == lend) = some ln →
    let over_ (s : State) : State := ln.added.foldl (fun s v => s.unlend ln.asid false v)
      (ln.taken.foldl (fun s v => s.unlend ln.asid true v) (s.withTreg fun t => { t with lends := t.lends.filter fun k => k.id != lend }))
    (ln.counter = 0 → exec (.sendLendEnd lend) s = .next (over_ s)) ∧
    (ln.counter ≠ 0 → s.agentCounter ln.asid ln.counter .rmw = (u, .ok pa) → exec (.sendLendEnd lend) s = .next ((over_ u).counterAdd pa 1).1)) ∧
  (let lo := base.toNat
   let n := bytes.length
   let readOnly (l : Leaf) : Bool := eR l.entry && eUser l.entry && !eW l.entry && !eCow l.entry && !eX l.entry && !eQs l.entry && !ePeer l.entry && unpinned l
   accepted 3 → s.Called c 0x46 x → s.reachRange 0 x.asid .w 2 (x.arg 2) 16 = (u, .ok places) → (∀ p ∈ places, placePeer p.1 = false) → u.piecesOwned places = false →
    (∀ va ∈ pagesOf lo (lo + n), u.allocOf x.asid va = none) → r.toNat = n → n ≤ x.num 1 → lo % 2 ^ 16 = 0 → canonicalRange lo n = true → n ≠ 0 →
    u.mapRange x.asid lo (lo + n) plan readOnly = some v →
    ∃ t, exec (.recv c r base bytes plan) s = .next t ∧ t.mem = ((v.putVa x.asid (n / 4096 + 2) lo bytes).writePieces places (leBytes 8 lo ++ leBytes 8 n)).mem ∧ t.calls = (v.answer x r).calls ∧
      t.treg.recvs = v.treg.recvs ++ [(x.asid, base, n)]) ∧
  (∀ n, s.Called c 0x47 x → x.clean 1 = true → s.treg.recvs.find? (fun e => e.1 == x.asid && e.2.1 == x.arg 0) = some (x.asid, base, n) → s.unmapRange x.asid base.toNat (base.toNat + n) plan = some u →
    ∃ t, exec (.returnRange c plan) s = .next t ∧ t.mem = u.mem ∧ t.calls = (u.answer x 0).calls ∧ (∀ e ∈ t.treg.recvs, ¬(e.1 = x.asid ∧ e.2.1 = base)) ∧
      ∀ e ∈ t.tlb, ¬(e.asid = x.asid ∧ e.vpn * 4096 < base.toNat + n ∧ base.toNat < (e.vpn + e.pages) * 4096))

/-! The device (R393, R405–R420, R422, R426). -/

/-- R393, R413–R417, R422, R426: the host writes PWRCAP alone and reads each register, service cores write the registers that the table gives them, and a load of one reads a register, or zero where none is
listed; a window's write waits for what is under way on its window; a cap is held between 100 W and the package limit; a monitor is cleared by CLEAR and captures a value in its bin, and what is sampled is what
the sensors read. That QBASE reads zero in its low 16 bits and that a base over memory in use is not taken (log entry 48), what the words of a service core mean (log entry 56), and that PWRNOW is a free
value under the cap (log entry 9), are the model's choices. -/
def Obligations.DeviceRegisters : Prop := ∀ (s : State) (v : DWord) (m src inst w j island mhz off : Nat) (x : Monitor),
  (∃ t, exec (.pwrcapWrite v) s = .next t ∧ exec (.deviceRegisterWrite true 0x78 v) s = .next t ∧ exec (.deviceRegisterWrite false 0x800000000078 v) s = .next t ∧ t = { s with pwrcap := t.pwrcap } ∧
    t.pwrcap.toNat = if field v 0 16 < 100 then 100 else if s.packageLimit < field v 0 16 then s.packageLimit else field v 0 16) ∧
  (off ≠ 0x78 → exec (.deviceRegisterWrite true off v) s = .next s) ∧
  exec (.deviceRegisterWrite false 0x800000000058 v) s = .next (if v &&& ~~~0xFFFF = 0 ∨ s.rangeUsed (v &&& ~~~0xFFFF).toNat (2 ^ 18) = false then { s with qbase := v &&& ~~~0xFFFF } else s) ∧
  exec (.deviceRegisterWrite false 0x800000000060 v) s = .next { s with sfrbase := v } ∧
  exec (.deviceRegisterWrite false 0x800000000070 v) s = .next { s with evlbase := v } ∧
  exec (.deviceRegisterWrite false 0x800000000088 v) s = .next { s with updaddr := v } ∧
  exec (.deviceRegisterWrite false 0x800100000000 v) s = .next { s with selfid := v &&& 0x1FF } ∧
  (∀ (c : Nat) (y : Word), (s.svc c).priv = 3 → field y 0 7 = 3 → field y 12 3 = 3 → ((s.svc c).reg (y.extractLsb' 15 5) + rvImmI y).toNat = 0x800000000000 + off → off < 2 ^ 32 → off % 8 = 0 →
    s.rv64 c y = some (s.rvDone c 4 (y.extractLsb' 7 5) (s.controlRead off))) ∧
  (off % 8 = 0 → off < 2 ^ 16 → exec (.hostApertureRead (.bar0 off) 8) s = .next (s.reply 0x420 false (leBytes 8 (s.controlRead off).toNat))) ∧
  s.controlRead 0 = s.devcap ∧ s.controlRead 0x48 = s.readyf ∧ s.controlRead 0x68 = s.sfrlost ∧ s.controlRead 0x80 = s.pwrnow ∧ (0x98 ≤ off → off < 0x1000 → s.controlRead off = 0) ∧
  (w < 4096 → j < 8 → ∃ t, exec (.windowEntryWrite w j v) s = .next t ∧ exec (.deviceRegisterWrite false (0x800100004000 + 64 * w + 8 * j) v) s = .next t ∧
    t = { s with ports := t.ports, windowWrites := t.windowWrites } ∧ (∀ n, rd t.ports n = if n = 0x4000 + 64 * w + 8 * j then v else rd s.ports n) ∧
    let on := (s.xfers.filter fun x => x.admitted.any fun a => a.window == w).map (·.id)
    t.windowWrites = if on = [] then s.windowWrites else s.windowWrites ++ [{ window := w, svc := none, on := on }]) ∧
  (m < 64 → ∃ t, exec (.captureCtlWrite m v) s = .next t ∧ exec (.deviceRegisterWrite false (0x800000001000 + 128 * m) v) s = .next t ∧ t = { s with monitors := t.monitors } ∧ (∀ n, n ≠ m → t.monitor n = s.monitor n) ∧
    (t.monitor m).ctl = v &&& 0x0000FFFF00FF3F0D ∧ (t.monitor m).binBase = (s.monitor m).binBase ∧
    (let q := t.monitor m
     if v.getLsbD 1 then q.min = BitVec.allOnes 64 ∧ q.max = 0 ∧ q.count = 0 ∧ q.sum = 0 ∧ q.bins = []
     else q.min = (s.monitor m).min ∧ q.max = (s.monitor m).max ∧ q.count = (s.monitor m).count ∧ q.sum = (s.monitor m).sum ∧ q.bins = (s.monitor m).bins)) ∧
  (s.sourceOk src inst = true → ∃ t, exec (.captureSample src inst v) s = .next t ∧ t.mem = s.mem ∧ s.SameWarps t ∧
    (∀ n, SMap.find n s.monitors = some x →
      let takes : Prop := x.ctl.getLsbD 0 = true ∧ x.ctl.getLsbD 2 = false ∧ field x.ctl 16 8 = src ∧ field x.ctl 32 16 = inst
      (takes → ∃ y, SMap.find n t.monitors = some y ∧ y.ctl = x.ctl ∧ y.binBase = x.binBase ∧ y.count = x.count + 1 ∧ y.min.toNat = Nat.min x.min.toNat v.toNat ∧ y.max.toNat = Nat.max x.max.toNat v.toNat ∧
        y.sum.toNat = Nat.min (2 ^ 64 - 1) (x.sum.toNat + v.toNat) ∧ ∀ i, (rd y.bins i).toNat = if i = x.bin v.toNat then Nat.min (2 ^ 32 - 1) ((rd x.bins i).toNat + 1) else (rd x.bins i).toNat) ∧
      (¬takes → SMap.find n t.monitors = some x)) ∧
    (src = 11 → SMap.getD 0 t.temps inst = v.toNat) ∧ (src = 10 → t.pwrnow.toNat ≤ s.pwrcap.toNat)) ∧
  (let base := x.binBase.toNat
   let edge (i : Nat) : Nat := base + (if x.ctl.getLsbD 3 then 2 ^ i - 1 else i) * 2 ^ field x.ctl 8 6
   ∀ n, (n < base → x.bin n = 0) ∧ (∀ i, 1 ≤ i → i ≤ 14 → edge (i - 1) ≤ n → n < edge i → x.bin n = i) ∧ (edge 14 ≤ n → x.bin n = 15)) ∧
  (island < 8 * s.dieCount → ∃ t, exec (.islandClockControl island mhz) s = .next t ∧ t = { s with islandClk := t.islandClk } ∧ SMap.getD 0 t.islandClk island = mhz) ∧
  exec (.i3cSensorRead 0) s = .next (s.reply 0x417 false (leBytes 8 s.pwrnow.toNat)) ∧
  exec (.i3cSensorRead 1) s = .next (s.reply 0x417 false (leBytes 8 s.pwrcap.toNat)) ∧
  (∀ d, s.diePresent d = true → exec (.i3cSensorRead (d + 2)) s = .next (s.reply 0x417 false (leBytes 8 (SMap.getD 0 s.temps d)))) ∧
  (∀ d, s.diePresent d = false → exec (.i3cSensorRead (d + 2)) s = .next (s.reply 0x417 true []))

/-- R405, R407–R409: a reset wipes memory and warps, keeps the fuses, and boots or stops at a step of the boot; readiness follows the dies' wipes and the links; a life-cycle change that the tokens allow
advances the fused state, wipes and boots. R420: a host access through a valid aperture entry reaches device memory at its home, and waits while a copy engine owns a line of it. R351: an interrupt stops a
service core. The model's choices: that the step at which a boot stops is a free value (log entry 7); that a UALink port's READYF bit is set once ATTEST is set and the boot completed (log entry 79); and
where the pc and the cause of an interrupt are saved (log entry 3). -/
def Obligations.BootAndHost : Prop := ∀ (s : State) (die port off n pa core : Nat) (up owner vendor : Bool) (target : BitVec 3) (bytes : List Byte) (cause : DWord),
  (∃ t, exec .reset s = .next t ∧ t.mem = [] ∧ t.warps = [] ∧ t.copies = [] ∧ t.devcap = s.devcap ∧ t.unitcap = s.unitcap ∧ t.sizecap = s.sizecap ∧ t.rollback = s.rollback ∧ t.lifeState = s.lifeState ∧ t.pwrcap.toNat = s.packageLimit ∧
    t.qbase = 0 ∧ t.sfrbase = 0 ∧ t.evlbase = 0 ∧ t.outbox = s.outbox ∧
    (s.lifeState = 4 → t.readyf = 0x20000 ∧ t.readyc = 0) ∧
    (s.lifeState ≠ 4 → let e := field t.lcs 8 8
      e ≤ 5 ∧ (1 ≤ e → e ≤ 3 → t.readyf = 0 ∧ t.readyc = 0) ∧ (e = 4 → t.readyf = 0x20000 ∧ t.readyc = 0) ∧
      (e = 0 ∨ e = 5 → field t.readyf 12 4 = 2 ^ s.dieCount - 1 ∧ field t.readyf 8 4 = 2 ^ s.dieCount - 1 ∧ field t.readyf 4 4 = 2 ^ s.dieCount - 1 ∧ field t.readyf 0 4 = 0 ∧ field t.readyf 16 17 = 3 ∧
        ∀ c, t.readyc.getLsbD c = (decide (c < field s.devcap 16 8) && decide (c < 64))))) ∧
  (s.diePresent die = true → s.readyf.getLsbD (4 + die) = true → s.readyf.getLsbD die = false →
    ∃ t, exec (.dramWipeDone die) s = .next t ∧ t.readyf = s.readyf ||| (1 <<< die) ∧ s.SameWarps t ∧
      let all : Prop := ∀ d, d < 4 → s.diePresent d = true → d = die ∨ s.readyf.getLsbD d = true
      (all → t.lcs = setBit s.lcs 3 false) ∧ (¬all → t.lcs = s.lcs)) ∧
  (port < field s.sizecap 8 8 → port < 12 → ∃ t, exec (.linkTraining port up) s = .next t ∧ t = { s with portstat := t.portstat, readyf := t.readyf } ∧ (∀ i, i < 64 → t.portstat.getLsbD i = if i = port then up else s.portstat.getLsbD i) ∧
    ∀ i, i < 64 → t.readyf.getLsbD i = (s.readyf.getLsbD i || (decide (i = 21 + port) && up && s.readyf.getLsbD 17 && decide (field s.lcs 8 8 = 0 ∧ s.lifeState ≠ 4)))) ∧
  (match lifeNext s.lifeState owner vendor target.toNat with
   | none => exec (.lifeCycleChange owner vendor target) s = .next (s.reply 0x407 true [])
   | some n => n = target.toNat ∧ ∃ t, exec (.lifeCycleChange owner vendor target) s = .next t ∧ t.lifeState = n ∧ t.mem = [] ∧ t.warps = [] ∧ t.devcap = s.devcap ∧ t.outbox = s.outbox ++ [{ kind := 0x407, error := false, bytes := [] }]) ∧
  (let e := rd s.ports (0x200000 + 8 * (off / 2 ^ 21))
   let at_ := field e 21 27 * 2 ^ 21 + off % 2 ^ 21
   let r : State := { s with hostQueue := [{ off := off, len := n, bytes := none }] }
   let w : State := { s with hostQueue := [{ off := off, len := bytes.length, bytes := some bytes }] }
   let answered (t : State) : State := { t with hostQueue := [] }
   pa = at_ → s.readyf.getLsbD 18 = true → off < 2 ^ 36 → s.inDram pa = true → s.hostQueue = [] →
    (n ≠ 0 → off % 2 ^ 21 + n ≤ 2 ^ 21 → e.getLsbD 0 = true →
      (r.bytesOwned pa n = false → exec (.hostApertureRead (.bar2 off) n) s = .next (answered (State.reply (r.mergeBytes pa n) 0x420 false (leBytes n ((r.mergeBytes pa n).memRead pa n))))) ∧
      (r.bytesOwned pa n = true → exec (.hostApertureRead (.bar2 off) n) s = .next r)) ∧
    (n ≠ 0 → e.getLsbD 0 = false → exec (.hostApertureRead (.bar2 off) n) s = .next (answered (r.reply 0x420 true []))) ∧
    (bytes ≠ [] → off % 2 ^ 21 + bytes.length ≤ 2 ^ 21 → e.getLsbD 0 = true → e.getLsbD 1 = true →
      (w.bytesOwned pa bytes.length = false → exec (.hostApertureWrite off bytes) s = .next (answered (w.homeWrite none pa bytes))) ∧
      (w.bytesOwned pa bytes.length = true → exec (.hostApertureWrite off bytes) s = .next w)) ∧
    (bytes ≠ [] → e.getLsbD 1 = false → exec (.hostApertureWrite off bytes) s = .next (answered (w.reply 0x420 true [])))) ∧
  (s.svcReady core = true → ∃ t, exec (.serviceCoreInterrupt core cause) s = .next t ∧ (t.svc core).epc = (s.svc core).pc ∧ (t.svc core).cause = cause ∧ (t.svc core).waiting = false ∧ (t.svc core).x = (s.svc core).x ∧
    t.mem = s.mem ∧ s.SameWarps t ∧ ∀ c, c ≠ core → t.svc c = s.svc c)

/-- R406: Yew answers SPDM requests while READYF.ATTEST is set; a requester gets no session without ML-DSA-65 and SHAKE256. R411, R412: GO starts the check of an image; a refused image stops nothing;
an accepted one ends with the handover image and STATUS 5, from which UPDATE_RESET keeps the preserved ranges, wipes the rest and boots. The model's choices: the contents of the answers, and that one of
the two algorithms alone is answered with an error (log entry 7); the AUX of event 8 and what of the model's own records an update reset keeps (log entry 49). -/
def Obligations.UpdateAndAttest : Prop := ∀ (s : State) (v : DWord) (off len at_ : Nat) (nonce : List Byte),
  (s.readyf.getLsbD 17 = true →
    exec .getVersion s = .next (State.reply { s with spdm := { versioned := true, session := false } } 0x406 false (Config.spdmBytes 0 [])) ∧
    exec .getCapabilities s = .next (s.reply 0x406 false (Config.spdmBytes 1 [])) ∧
    exec (.negotiateAlgorithms true true) s = .next (State.reply { s with spdm := { s.spdm with session := true } } 0x406 false (Config.spdmBytes 2 [])) ∧
    (∀ a b, (a && b) = false → exec (.negotiateAlgorithms a b) s = .next (State.reply { s with spdm := { s.spdm with session := false } } 0x406 true [])) ∧
    (s.spdm.session = true →
      exec .getDigests s = .next (s.reply 0x406 false (Config.spdmBytes 3 [])) ∧ exec (.getCertificate off len) s = .next (s.reply 0x406 false (Config.spdmBytes 4 [off, len])) ∧
      exec (.challenge nonce) s = .next (s.reply 0x406 false (Config.spdmBytes 5 (nonce.map (·.toNat)))) ∧
      exec (.getMeasurements 5) s = .next (s.reply 0x406 false (Config.spdmBytes 6 [s.lcs.toNat, s.rollback])) ∧
      (s.measured = none → exec (.getMeasurements 6) s = .next (s.reply 0x406 false (List.replicate 64 0))) ∧
      (∀ bs, s.measured = some bs → exec (.getMeasurements 6) s = .next (s.reply 0x406 false (Config.spdmBytes 7 (bs.map (·.toNat))))) ∧
      ∀ i, 1 ≤ i → i ≤ 4 → exec (.getMeasurements i) s = .next (s.reply 0x406 false (Config.digest i)))) ∧
  (let status := field s.updctl 1 3
   let len (t : State) (n : Nat) : Prop := t = { s with updctl := t.updctl } ∧ field t.updctl 8 32 = n
   let handed (t : State) : Prop := field t.updctl 1 3 = 5 ∧ ∃ a, t.handover = some a ∧ a % 4096 = 0 ∧ homeDie a = 0 ∧ (s.inDram a = true → s.inDram (a + 3) = true → t.memRead a 4 = 0x4F444E48)
   let idle : Prop := (∀ g ∈ s.wgs, g.pre ≠ .running ∧ g.onCore = false) ∧ s.copyJobs = [] ∧ s.xfers = [] ∧ ∀ f, f < 16 → (s.fe f).prologue = none
   (∃ t, exec (.updctlGo v none) s = .next t ∧ len t (field v 8 32) ∧ field t.updctl 1 3 = if v.getLsbD 0 = true ∧ status ≠ 1 ∧ status ≠ 2 ∧ status ≠ 5 then 1 else status) ∧
   (status = 1 →
     (∃ t, exec (.updctlGo v (some .badSignature)) s = .next t ∧ len t (field s.updctl 8 32) ∧ field t.updctl 1 3 = 3) ∧
     (∃ t, exec (.updctlGo v (some .rollback)) s = .next t ∧ len t (field s.updctl 8 32) ∧ field t.updctl 1 3 = 4) ∧
     (idle → ∃ t, exec (.updctlGo v (some .accepted)) s = .next t ∧ handed t)) ∧
   (status = 2 → idle → ∀ r, ∃ t, exec (.updctlGo v (some r)) s = .next t ∧ handed t) ∧
   (status ≠ 1 → status ≠ 2 → ∀ r, exec (.updctlGo v (some r)) s = .next s)) ∧
  (field s.updctl 1 3 ≠ 5 → exec .updateReset s = .next s) ∧
  (field s.updctl 1 3 = 5 → s.handover = some at_ →
    let m := s.comm.foldl (fun s c => s.mergeLine c.line) s
    let kept (a : Nat) : Prop := ∃ i, i < m.memRead (at_ + 6) 2 ∧ m.memRead (at_ + 192 + 16 * i) 8 ≤ a ∧ a < m.memRead (at_ + 192 + 16 * i) 8 + m.memRead (at_ + 200 + 16 * i) 8
    ∃ (t : State), ((field t.lcs 8 8 = 0 ∧ t.lifeState ≠ 4 ∧ t.qbase = m.memQ (at_ + 8) ∧ t.sfrbase = m.memQ (at_ + 16) ∧ ∃ aux, exec .updateReset s = .next (t.logEvent 8 0 0 aux)) ∨
        (¬(field t.lcs 8 8 = 0 ∧ t.lifeState ≠ 4) ∧ t.qbase = 0 ∧ t.sfrbase = 0 ∧ exec .updateReset s = .next t)) ∧ t.warps = [] ∧ t.copies = [] ∧ (∀ a, kept a → rd t.mem a = rd m.mem a) ∧ (∀ a, ¬kept a → rd t.mem a = 0) ∧
      (∀ f, f < 16 → (t.fe f).count = m.memRead (at_ + 64 + 8 * f) 8) ∧ t.lifeState = s.lifeState ∧ field t.updctl 1 3 = 0)

/-! The whole machine: encodings, reset, the step, and traps. -/

/-- R74–R76, R95, R96, R126, R150, R164, R197, R218, R239, R348: every well-formed instruction that a word encodes is read back from its word with every operand, and every word stands for exactly one well-formed instruction of the warps, which its encoding
gives back; a custom-0 word of R348 stands for one of the service cores and no other word does. -/
def Obligations.EncodeDecode : Prop :=
  (∀ (i : Instr) (w : Word), i.wf = true → encode i = some w → decodePsv w = some i ∨ decode w = i) ∧
  (∀ w : Word, (decode w).wf = true ∧ encode (decode w) = some w) ∧
  (∀ (w : Word) (i : Instr), decodePsv w = some i → i.wf = true ∧ encode i = some w) ∧
  (∀ w : Word, (decodePsv w).isSome = true ↔ field w 0 7 = 0x0B ∧ field w 25 7 = 0 ∧ field w 12 3 ≤ 1) ∧
  (∀ w : Word, legalWord w = true → decodePsv w = none ∧ ∃ i, decode w = i ∧ i ≠ .illegalOp w) ∧
  ∀ w : Word, legalWord w = false → decode w = .illegalOp w

/-- Every step keeps the memory in its canonical form, in every state: whatever agent acts, and whether its instruction or event reads, stores, traps, faults, copies, zeroes or resets. -/
def Obligations.StepKeepsMemoryForm : Prop := ∀ s t : State, Memory.wf s.mem → step s = .next t → Memory.wf t.mem

/-- R4–R7, R393, R408, R422: what reset leaves. Nothing runs, nothing is stored, and the registers of the device hold their reset values. The fused capability values and the life-cycle state are the model's choice (log entry 1), and so is that memory reads 0
here already, before the wipe that follows a reset (log entry 57). -/
def Obligations.ResetState : Prop :=
  let s := State.reset
  Memory.wf s.mem ∧ (∀ pa, s.inDram pa = true → s.memByte pa = 0) ∧ s.allWarps = [] ∧ s.wgs = [] ∧ s.launches = [] ∧ s.ops = [] ∧ s.ctxs = [] ∧ s.tlb = [] ∧ s.copies = [] ∧ s.calls = [] ∧
  s.readyc = 0 ∧ s.readyf = 0 ∧ s.qbase = 0 ∧ s.sfrbase = 0 ∧ s.sfrlost = 0 ∧ s.evlbase = 0 ∧ s.pwrcap.toNat = s.packageLimit ∧ s.updctl = 0 ∧ (∀ m, s.monitor m = Monitor.zero) ∧
  s.selfid = 0 ∧ s.ptmo = 10000 ∧ s.portstat = 0 ∧ (∀ n, rd s.ports n = 0) ∧ s.clock = 0 ∧
  field s.devcap 32 16 = 0x940 ∧ field s.devcap 16 8 = 48 ∧ field s.devcap 8 8 = 192 ∧ field s.devcap 0 8 = 16 ∧ field s.unitcap 0 8 = 0xFF

/-- R105, R126, R150, R164, R197, R218, R239, R348: words that the spec writes out decode to the instructions they stand for. -/
def Obligations.DecodeWords : Prop :=
  let word (w : Nat) (i : Instr) : Prop := decodeTableWord 32 w = some i
  word 0x06000007 (.guard 7) ∧ word 0x0B000009 (.join 9) ∧ word 0x07000005 (.bra 5) ∧ word 0x0C000000 .exit ∧ word 0x100303F4 (.add 0x03 0x03 0xF4) ∧
  word 0x23040102 (.sel 3 0x04 0x01 0x02) ∧ word 0x19220102 (.cmp 2 0 2 0x01 0x02) ∧ word 0x5704020B (.matchLanes 0x04 0x02 1 3) ∧ word 0x49060400 (.popc 0x06 0x04) ∧
  word 0x58C30200 (.redux 0xC3 0x02 0) ∧ word 0x59070280 (.scan 0x07 0x02 1 0) ∧ word 0x7403F601 (.st8 0x03 0xF6 0x01) ∧ word 0x73080203 (.ldq 0x08 0x02 0x03) ∧ word 0x7B080103 (.lds 0x08 0x01 3) ∧
  word 0x7F020100 (.pref 2 0x01 0x00) ∧ word 0x80040607 (.atom 0x04 0x06 7) ∧ word 0x8305C802 (.mcas 0x05 0xC8 2) ∧ word 0x7D000007 (.fence 0 0 0 1 1 1) ∧ word 0x85000021 (.fillfail 0x0021) ∧
  word 0x9004C2F4 (.cadd 0x04 0xC2 0xF4) ∧ word 0x91F5C9CA (.cwait 0xF5 0xC9 0xCA) ∧ word 0x92000401 (.bar 4 1) ∧ word 0x980803CC (.rwr 0x08 0x03 0xCC) ∧ word 0x9A820002 (.racq 1 2 2) ∧ word 0x9D000001 (.trel 1) ∧
  word 0xA0901030 (.mma 1 2 0 0x10 0x30) ∧ word 0xA1131030 (.mmas 0 2 3 0x10 0x30) ∧ word 0xA20C0000 (.mcommit 0x0C) ∧ word 0xA4090402 (.tld 1 1 0x04 0x02) ∧ word 0xA74900F5 (.tcvt 2 1 1 0 0xF5) ∧
  word 0xA810020B (.tmov 0x10 0x02 0 1 3) ∧ word 0xC01404C6 (.tex 0x14 0x04 0xC6) ∧ word 0xC30120C8 (.trace 1 0x20 0xC8) ∧ word 0xC60C8200 (.attr 0x0C 1 0 2) ∧ word 0xC60C4500 (.attr 0x0C 0 2 5) ∧
  word 0xC7001001 (.expf 0 0x10 1) ∧ word 0x5C02000C (.sreg 0x02 0x0C) ∧ word 0x9E06C3C4 (.sysc 0x06 0xC3 0xC4) ∧ word 0xD5FA0100 (.vset 0xFA 0x01 0x00) ∧ word 0xD8000040 (.upcall 0x0040) ∧
  word 0x00C5850B (.psvSpawn 10 11 12) ∧ word 0x00C5950B (.psvCwait 10 11 12) ∧ word 0x01000001 (.illegalOp 0x01000001) ∧ word 0 (.illegalOp 0)

/-- R345, R338, R348, R81–R88, R175: a step runs the decoded instruction. The partition that the agenda names chooses a warp among those that have a ready group, and one of its fragments; the group at its PC is fetched, from a copy of the instruction
cache or the home, or is the repeated one that has begun, and `exec` of its instruction is the step's answer, a held group aside; so with a prologue's group, a service core's word, and an event. The model's choices: that the
agenda says who acts and that one agent does (log entry 2), that a fetch reads a copy that the cache has (log entry 26), what the words of a service core mean (log entry 56), and that a repeated group
keeps the words that it began with (log entry 61). -/
def Obligations.StepRunsDecoded : Prop := ∀ (s v t : State) (p c n place : Nat) (rest : List Turn) (w w' : Warp) (g : Group) (x : Word) (i : Instr) (va : DWord),
  (let u : State := { s.tick.settled with agenda := rest }
   let a := u.ages p (u.offers p)
   s.agenda = .part p :: rest → a.choose p (u.offers p) = some w → w.parkMarked.pick a.wouldHold 128 = (w', some n) →
    let f := (a.onWarp w.uid fun _ => w').select w.uid n true
    f.pendingTrap = none →
    (f.nextGroup = (v, .ok g) → (v.openGroup g).grp.over = false → step s = keepHeld a w.uid n (exec (v.openGroup g).grp.instr (v.openGroup g))) ∧
    (f.nextGroup = (v, .bad g) → step s = keepHeld a w.uid n (exec (.illegalOp g.word) (v.openGroup g)))) ∧
  (let u : State := { s.tick.settled with agenda := rest }
   s.agenda = .prologue p :: rest → u.allWarps.find? (fun w => w.kind == .prologue p && w.canIssue w.fragIx && w.frag.state != .trapped) = some w →
    let f := u.select w.uid w.fragIx false
    f.pendingTrap = none → f.nextGroup = (v, .ok g) → (v.openGroup g).grp.over = false →
    step s = countIssued p (keepHeld u w.uid w.fragIx (exec (v.openGroup g).grp.instr (v.openGroup g)))) ∧
  (∀ uid e r, exec i s = r → (∀ t, r = .next t → t.stalled = false) → keepHeld v uid e r = exec i s) ∧
  (s.begun = none → s.nextGroup = s.fetchGroup s.grp) ∧ (∀ g, s.begun = some g → s.nextGroup = (s, .ok g)) ∧
  (let u : State := { s.tick.settled with agenda := rest }
   s.agenda = .svc c :: rest → u.windowWrites.any (fun w => w.svc == some c) = false → u.svcReady c = true → u.svcFetch c = (v, .word x) →
    (field x 0 7 = 0x0B → decodePsv x = some i → step s = exec i { v with svcIx := c }) ∧
    (field x 0 7 ≠ 0x0B → v.rv64 c x = some t → step s = .next t)) ∧
  (s.agenda = .event i :: rest → encode i = none → step s = exec i { s.tick.settled with agenda := rest }) ∧
  (g.rep = none → g.instr = decode g.word) ∧
  (∀ r : BitVec 24, g.rep = some r → legalWord g.word = true → g.instr = decodeFields (field g.word 24 8)
    (BitVec.ofNat 8 (field g.word 24 8) ++ BitVec.ofNat 8 (field g.word 16 8 + g.repIx * field r 12 6) ++ BitVec.ofNat 8 (field g.word 8 8 + g.repIx * field r 6 6) ++ BitVec.ofNat 8 (field g.word 0 8 + g.repIx * field r 0 6))) ∧
  (s.fetchWord g.pc = (v, .word x) → (∀ o ∈ [2, 3, 4], field x 24 8 ≠ o) → s.fetchGroup g = (v, .ok { g with word := x, bytes := 4, lit := none, rep := none })) ∧
  (s.pre va .x = (v, .ok place) → placePeer place = false →
    (v.hasWord (icOf v.warp.core) (placePa place / 4) = true → s.fetchWord va = (v, .word (BitVec.ofNat 32 (v.copyRead (icOf v.warp.core) (placePa place) 4)))) ∧
    (v.hasWord (icOf v.warp.core) (placePa place / 4) = false → v.lineOwned (lineOf (placePa place)) = false → ∃ t, s.fetchWord va = (t, .word (BitVec.ofNat 32 ((v.mergeBytes (placePa place) 4).memRead (placePa place) 4)))))

/-- R37, R39, R47, R258–R260, R355, R356: a trap enters the handler at TRAPVEC with the group's PC, the code, the lanes, the address, the repeat counter, the latch-restart PC and WMODE saved, and the fragment frozen with its registers; while another fragment
is in solo mode it is held; without a handler it is delivered unhandled, and so is a trap inside one. R88: the checks at issue come in their order, each with its code. -/
def Obligations.TrapEntry : Prop := ∀ (s : State) (t : TrapInfo) (i : Ins),
  let r := s.region s.warp.launch
  let parks : Bool := match s.launchOf s.warp.launch with
    | some l => (actingDomain l.path false).2.1 == 1
    | none => false
  let u := s.takeTrap t
  let stopped (f : Frag) : Prop := f.state = (if parks then .waiting else .trapped) ∧ f.wait = (if parks then .parked else .none) ∧ f.parkPend = false
  ((∀ fe, s.warp.kind ≠ .prologue fe) → u.warp.v = s.warp.v ∧ u.warp.k = s.warp.k ∧ u.warp.p = s.warp.p ∧ u.warp.tiles = s.warp.tiles ∧ u.warp.uid = s.warp.uid ∧
    (s.grp.solo = false → s.warp.solo = none → r.trapvec ≠ 0 → ∃ h, u = { s with warp := u.warp } ∧ u.warp.solo = some h ∧ h.entry = s.warp.fragIx ∧ h.pc = r.trapvec ∧ h.wmode = 0x000007 ∧ (∀ n, rd h.h n = 0) ∧ h.hp = 0 ∧
      h.trapPc = s.grp.pc ∧ h.trapCode = BitVec.ofNat 32 t.code ∧ h.trapMask = t.mask ∧ h.sfaddr = t.addr ∧ h.sfcause = BitVec.ofNat 8 t.cause ∧ h.repcnt = BitVec.ofNat 7 s.grp.repIx ∧ h.swmode = s.warp.frag.wmode ∧
      h.fragMask = s.warp.frag.mask ∧ h.wait = .none ∧ (h.sstatus.getLsbD 5 = r.system) ∧ (h.sstatus.getLsbD 3 = r.debug) ∧ h.slrpc = (match s.warp.frag.lrpc with
        | some a => a ||| 1
        | none => 0) ∧
      u.warp.frag = { s.warp.frag with state := .trapped, pc := s.grp.pc, repcnt := s.grp.repIx, lrpc := none, group := none, parkPc := none } ∧ u.warp.latValid = 0 ∧ u.warp.trapCode = BitVec.ofNat 32 t.code ∧ u.warp.trapMask = t.mask) ∧
    (∀ h, s.grp.solo = false → s.warp.solo = some h → u = { s with warp := u.warp } ∧ u.warp.solo = some h ∧ u.warp.frag.state = .waiting ∧ u.warp.frag.wait = .held ∧ u.warp.frag.mask = s.warp.frag.mask ∧
      u.warp.frag.pc = s.warp.frag.lrpc.getD s.grp.pc) ∧
    (s.grp.solo = false → s.warp.solo = none → r.trapvec = 0 → u.warp.solo = none ∧ stopped u.warp.frag) ∧
    (∀ h, s.grp.solo = true → s.warp.solo = some h → u.warp.solo = none ∧ (h.entry = s.warp.fragIx → stopped u.warp.frag))) ∧
  (∀ code, s.gate i = some { code := code, mask := s.active, addr := 0, cause := 0 } ↔
    (s.illegal i = true ∧ code = 0x01) ∨ (s.illegal i = false ∧ s.absent i = true ∧ code = 0x03) ∨ (s.illegal i = false ∧ s.absent i = false ∧ s.badOperand i = true ∧ code = 0x02) ∨
    (let q := s.warp.quota
     let regs := i.d.overQuota s.grp.solo q || i.a.overQuota s.grp.solo q || i.b.overQuota s.grp.solo q
     let tiles := i.d.overTiles s.warp.tquota || i.a.overTiles s.warp.tquota
     s.illegal i = false ∧ s.absent i = false ∧ s.badOperand i = false ∧ ((regs = true ∧ code = 0x04) ∨ (regs = false ∧ tiles = true ∧ code = 0x05)))) ∧
  (∀ d a b, s.gate (s.alu3 0x10 etAny d a b) = some t → exec (.add d a b) s = .next u) ∧ (∀ o, s.gate braIns = some t → exec (.bra o) s = .next u) ∧
  (∀ d a b, s.gate (s.loadIns 0x72 s.widthBytes d a b) = some t → exec (.ld d a b) s = .next u)
end

