-- ==== Sys2Proof/Laws/Cells.lean ====
section
/-! SUPPORT. Sparse tables: a read after a write, what a write leaves alone, and the canonical form that it keeps. -/

namespace Sys2Proof.Machine

section
variable {β : Type}

/-! Reads after writes. -/

@[simp] theorem SMap.find_nil (n : Nat) : SMap.find n ([] : SMap β) = none := rfl

theorem SMap.find_cons (n k : Nat) (b : β) (m : SMap β) :
    SMap.find n ((k, b) :: m) = if k = n then some b else SMap.find n m := rfl

theorem SMap.find_erase (i n : Nat) (m : SMap β) :
    SMap.find i (SMap.erase n m) = if i = n then none else SMap.find i m := by
  induction m with
  | nil => simp [SMap.erase]
  | cons e m ih =>
    obtain ⟨k, b⟩ := e
    unfold SMap.erase at *
    by_cases hk : k = n
    · subst hk
      rw [List.filter_cons_of_neg (by simp), ih, SMap.find_cons]
      by_cases h : i = k
      · simp [h]
      · simp [h, Ne.symm h]
    · rw [List.filter_cons_of_pos (by simpa using hk), SMap.find_cons, ih, SMap.find_cons]
      by_cases h : i = n
      · subst h; simp [hk]
      · simp [h]

theorem SMap.find_insert (i n : Nat) (b : β) (m : SMap β) :
    SMap.find i (SMap.insert n b m) = if i = n then some b else SMap.find i m := by
  induction m with
  | nil => by_cases h : i = n <;> simp [SMap.insert, SMap.find_cons, h, eq_comm]
  | cons e m ih =>
    obtain ⟨k, c⟩ := e
    unfold SMap.insert
    split
    · next h => subst h; by_cases hi : i = k <;> simp [SMap.find_cons, hi, Ne.symm]
    · split
      · by_cases hi : i = n
        · simp [SMap.find_cons, hi]
        · simp [SMap.find_cons, hi, Ne.symm hi]
      · next hk _ =>
        rw [SMap.find_cons, ih, SMap.find_cons]
        by_cases hi : i = n
        · subst hi; simp [hk]
        · simp [hi]

/-- A table read after one entry was written. -/
theorem rd_wr {w : Nat} (m : SMap (BitVec w)) (n i : Nat) (x : BitVec w) :
    rd (wr m n x) i = if i = n then x else rd m i := by
  unfold rd wr SMap.put SMap.getD
  split
  · next h => subst h; rw [SMap.find_erase]; split <;> simp
  · rw [SMap.find_insert]; split <;> simp

@[simp] theorem rd_wr_same {w : Nat} (m : SMap (BitVec w)) (n : Nat) (x : BitVec w) : rd (wr m n x) n = x := by
  simp [rd_wr]

theorem rd_wr_other {w : Nat} (m : SMap (BitVec w)) {n i : Nat} (x : BitVec w) (h : i ≠ n) : rd (wr m n x) i = rd m i := by
  simp [rd_wr, h]

@[simp] theorem rd_nil {w : Nat} (i : Nat) : rd ([] : SMap (BitVec w)) i = 0 := rfl

/-! The canonical form. -/

theorem SMap.rises_mono {lo lo' : Nat} (h : lo' ≤ lo) {m : SMap β} (hm : SMap.rises lo m = true) : SMap.rises lo' m = true := by
  cases m with
  | nil => rfl
  | cons e m => simp only [SMap.rises, Bool.and_eq_true, decide_eq_true_eq] at *; exact ⟨by omega, hm.2⟩

theorem SMap.rises_filter {p : Nat × β → Bool} {lo : Nat} {m : SMap β} (hm : SMap.rises lo m = true) :
    SMap.rises lo (m.filter p) = true := by
  induction m generalizing lo with
  | nil => rfl
  | cons e m ih =>
    simp only [SMap.rises, Bool.and_eq_true, decide_eq_true_eq] at hm
    rw [List.filter_cons]
    split
    · simp only [SMap.rises, Bool.and_eq_true, decide_eq_true_eq]; exact ⟨hm.1, ih hm.2⟩
    · exact SMap.rises_mono (by omega) (ih hm.2)

theorem SMap.rises_insert {n lo : Nat} {b : β} {m : SMap β} (hn : lo ≤ n) (hm : SMap.rises lo m = true) :
    SMap.rises lo (SMap.insert n b m) = true := by
  induction m generalizing lo with
  | nil => simp [SMap.insert, SMap.rises, hn]
  | cons e m ih =>
    obtain ⟨k, c⟩ := e
    simp only [SMap.rises, Bool.and_eq_true, decide_eq_true_eq] at hm
    unfold SMap.insert
    split
    · next h => subst h; simp [SMap.rises, hm]
    · split
      · simp only [SMap.rises, Bool.and_eq_true, decide_eq_true_eq]; exact ⟨hn, by omega, hm.2⟩
      · simp only [SMap.rises, Bool.and_eq_true, decide_eq_true_eq]; exact ⟨hm.1, ih (by omega) hm.2⟩

theorem SMap.mem_insert {n : Nat} {b : β} {m : SMap β} {e : Nat × β} (h : e ∈ SMap.insert n b m) : e = (n, b) ∨ e ∈ m := by
  induction m with
  | nil => simpa [SMap.insert] using h
  | cons f m ih =>
    obtain ⟨k, c⟩ := f
    unfold SMap.insert at h
    split at h
    · simp only [List.mem_cons] at h ⊢; tauto
    · split at h
      · simpa using h
      · simp only [List.mem_cons] at h ⊢; tauto

variable [DecidableEq β] {d : β}

theorem SMap.wf_filter {p : Nat × β → Bool} {m : SMap β} (hm : SMap.wf d m = true) : SMap.wf d (m.filter p) = true := by
  simp only [SMap.wf, Bool.and_eq_true, List.all_eq_true] at *
  exact ⟨SMap.rises_filter hm.1, fun e he => hm.2 e (List.mem_of_mem_filter he)⟩

/-- A write keeps the canonical form. -/
theorem SMap.wf_put {m : SMap β} {n : Nat} {b : β} (hm : SMap.wf d m = true) : SMap.wf d (SMap.put d m n b) = true := by
  unfold SMap.put
  split
  · exact SMap.wf_filter hm
  · next h =>
    simp only [SMap.wf, Bool.and_eq_true, List.all_eq_true] at *
    refine ⟨SMap.rises_insert (Nat.zero_le _) hm.1, fun e he => ?_⟩
    rcases SMap.mem_insert he with rfl | h'
    · simpa using h
    · exact hm.2 e h'

theorem wf_wr {w : Nat} {m : SMap (BitVec w)} {n : Nat} {x : BitVec w} (hm : SMap.wf 0 m = true) : SMap.wf 0 (wr m n x) = true :=
  SMap.wf_put hm

end

end Sys2Proof.Machine
end

