-- ==== Sys2Proof/Laws/Dispatch.lean ====
section
/-! SUPPORT. `exec` on each instruction is its meaning. -/

namespace Sys2Proof.Machine

@[simp] theorem exec_nop (s : State) : exec (.nop) s = execNop s := rfl
@[simp] theorem exec_mode (w : BitVec 24) (s : State) : exec (.mode w) s = execMode w s := rfl
@[simp] theorem exec_guard (g : BitVec 4) (s : State) : exec (.guard g) s = execGuard g s := rfl
@[simp] theorem exec_bra (o : BitVec 24) (s : State) : exec (.bra o) s = execBra o s := rfl
@[simp] theorem exec_brx (d : Code) (a : Code) (b : Code) (s : State) : exec (.brx d a b) s = execBrx d a b s := rfl
@[simp] theorem exec_call (o : BitVec 24) (s : State) : exec (.call o) s = execCall o s := rfl
@[simp] theorem exec_ret (s : State) : exec (.ret) s = execRet s := rfl
@[simp] theorem exec_join (o : BitVec 24) (s : State) : exec (.join o) s = execJoin o s := rfl
@[simp] theorem exec_exit (s : State) : exec (.exit) s = execExit s := rfl
@[simp] theorem exec_yield (s : State) : exec (.yield) s = execYield s := rfl
@[simp] theorem exec_bkpt (id : BitVec 16) (s : State) : exec (.bkpt id) s = execBkpt id s := rfl
@[simp] theorem exec_trap (c : BitVec 16) (s : State) : exec (.trap c) s = execTrap c s := rfl
@[simp] theorem exec_add (d : Code) (a : Code) (b : Code) (s : State) : exec (.add d a b) s = execAdd d a b s := rfl
@[simp] theorem exec_sub (d : Code) (a : Code) (b : Code) (s : State) : exec (.sub d a b) s = execSub d a b s := rfl
@[simp] theorem exec_mul (d : Code) (a : Code) (b : Code) (s : State) : exec (.mul d a b) s = execMul d a b s := rfl
@[simp] theorem exec_mulh (d : Code) (a : Code) (b : Code) (s : State) : exec (.mulh d a b) s = execMulh d a b s := rfl
@[simp] theorem exec_mac (d : Code) (a : Code) (b : Code) (s : State) : exec (.mac d a b) s = execMac d a b s := rfl
@[simp] theorem exec_min (d : Code) (a : Code) (b : Code) (s : State) : exec (.min d a b) s = execMin d a b s := rfl
@[simp] theorem exec_max (d : Code) (a : Code) (b : Code) (s : State) : exec (.max d a b) s = execMax d a b s := rfl
@[simp] theorem exec_abs (d : Code) (a : Code) (s : State) : exec (.abs d a) s = execAbs d a s := rfl
@[simp] theorem exec_neg (d : Code) (a : Code) (s : State) : exec (.neg d a) s = execNeg d a s := rfl
@[simp] theorem exec_cmp (c : BitVec 4) (n : BitVec 1) (p : BitVec 3) (a : Code) (b : Code) (s : State) : exec (.cmp c n p a b) s = execCmp c n p a b s := rfl
@[simp] theorem exec_dot4 (d : Code) (a : Code) (b : Code) (s : State) : exec (.dot4 d a b) s = execDot4 d a b s := rfl
@[simp] theorem exec_addx (d : Code) (a : Code) (b : Code) (s : State) : exec (.addx d a b) s = execAddx d a b s := rfl
@[simp] theorem exec_sel (n : BitVec 3) (d : Code) (a : Code) (b : Code) (s : State) : exec (.sel n d a b) s = execSel n d a b s := rfl
@[simp] theorem exec_div (d : Code) (a : Code) (b : Code) (s : State) : exec (.div d a b) s = execDiv d a b s := rfl
@[simp] theorem exec_rcp (d : Code) (a : Code) (s : State) : exec (.rcp d a) s = execRcp d a s := rfl
@[simp] theorem exec_rsq (d : Code) (a : Code) (s : State) : exec (.rsq d a) s = execRsq d a s := rfl
@[simp] theorem exec_sqrt (d : Code) (a : Code) (s : State) : exec (.sqrt d a) s = execSqrt d a s := rfl
@[simp] theorem exec_exp2 (d : Code) (a : Code) (s : State) : exec (.exp2 d a) s = execExp2 d a s := rfl
@[simp] theorem exec_log2 (d : Code) (a : Code) (s : State) : exec (.log2 d a) s = execLog2 d a s := rfl
@[simp] theorem exec_sin (d : Code) (a : Code) (s : State) : exec (.sin d a) s = execSin d a s := rfl
@[simp] theorem exec_cos (d : Code) (a : Code) (s : State) : exec (.cos d a) s = execCos d a s := rfl
@[simp] theorem exec_rint (d : Code) (a : Code) (s : State) : exec (.rint d a) s = execRint d a s := rfl
@[simp] theorem exec_classify (d : Code) (a : Code) (s : State) : exec (.classify d a) s = execClassify d a s := rfl
@[simp] theorem exec_scale (d : Code) (a : Code) (b : Code) (s : State) : exec (.scale d a b) s = execScale d a b s := rfl
@[simp] theorem exec_and (d : Code) (a : Code) (b : Code) (s : State) : exec (.and d a b) s = execAnd d a b s := rfl
@[simp] theorem exec_or (d : Code) (a : Code) (b : Code) (s : State) : exec (.or d a b) s = execOr d a b s := rfl
@[simp] theorem exec_xor (d : Code) (a : Code) (b : Code) (s : State) : exec (.xor d a b) s = execXor d a b s := rfl
@[simp] theorem exec_not (d : Code) (a : Code) (s : State) : exec (.not d a) s = execNot d a s := rfl
@[simp] theorem exec_shl (d : Code) (a : Code) (b : Code) (s : State) : exec (.shl d a b) s = execShl d a b s := rfl
@[simp] theorem exec_shr (d : Code) (a : Code) (b : Code) (s : State) : exec (.shr d a b) s = execShr d a b s := rfl
@[simp] theorem exec_rot (d : Code) (a : Code) (b : Code) (s : State) : exec (.rot d a b) s = execRot d a b s := rfl
@[simp] theorem exec_bfx (d : Code) (a : Code) (b : Code) (s : State) : exec (.bfx d a b) s = execBfx d a b s := rfl
@[simp] theorem exec_bfi (d : Code) (a : Code) (b : Code) (s : State) : exec (.bfi d a b) s = execBfi d a b s := rfl
@[simp] theorem exec_popc (d : Code) (a : Code) (s : State) : exec (.popc d a) s = execPopc d a s := rfl
@[simp] theorem exec_clz (d : Code) (a : Code) (s : State) : exec (.clz d a) s = execClz d a s := rfl
@[simp] theorem exec_brev (d : Code) (a : Code) (s : State) : exec (.brev d a) s = execBrev d a s := rfl
@[simp] theorem exec_perm (d : Code) (a : Code) (b : Code) (s : State) : exec (.perm d a b) s = execPerm d a b s := rfl
@[simp] theorem exec_hash (d : Code) (a : Code) (b : Code) (s : State) : exec (.hash d a b) s = execHash d a b s := rfl
@[simp] theorem exec_cvt (d : Code) (a : Code) (r : BitVec 1) (h : BitVec 2) (t : BitVec 5) (s : State) : exec (.cvt d a r h t) s = execCvt d a r h t s := rfl
@[simp] theorem exec_shflPick (d : Code) (a : Code) (b : Code) (s : State) : exec (.shflPick d a b) s = execShflPick d a b s := rfl
@[simp] theorem exec_shflLow (d : Code) (a : Code) (b : Code) (s : State) : exec (.shflLow d a b) s = execShflLow d a b s := rfl
@[simp] theorem exec_shflHigh (d : Code) (a : Code) (b : Code) (s : State) : exec (.shflHigh d a b) s = execShflHigh d a b s := rfl
@[simp] theorem exec_shflFlip (d : Code) (a : Code) (b : Code) (s : State) : exec (.shflFlip d a b) s = execShflFlip d a b s := rfl
@[simp] theorem exec_voteAny (p : BitVec 3) (n : BitVec 1) (q : BitVec 3) (s : State) : exec (.voteAny p n q) s = execVoteAny p n q s := rfl
@[simp] theorem exec_voteAll (p : BitVec 3) (n : BitVec 1) (q : BitVec 3) (s : State) : exec (.voteAll p n q) s = execVoteAll p n q s := rfl
@[simp] theorem exec_voteBallot (d : Code) (n : BitVec 1) (q : BitVec 3) (s : State) : exec (.voteBallot d n q) s = execVoteBallot d n q s := rfl
@[simp] theorem exec_matchLanes (d : Code) (a : Code) (l : BitVec 1) (p : BitVec 3) (s : State) : exec (.matchLanes d a l p) s = execMatchLanes d a l p s := rfl
@[simp] theorem exec_redux (d : Code) (a : Code) (o : BitVec 3) (s : State) : exec (.redux d a o) s = execRedux d a o s := rfl
@[simp] theorem exec_scan (d : Code) (a : Code) (e : BitVec 1) (o : BitVec 3) (s : State) : exec (.scan d a e o) s = execScan d a e o s := rfl
@[simp] theorem exec_elect (p : BitVec 3) (s : State) : exec (.elect p) s = execElect p s := rfl
@[simp] theorem exec_kget (d : Code) (a : Code) (f : BitVec 1) (s : State) : exec (.kget d a f) s = execKget d a f s := rfl
@[simp] theorem exec_sreg (d : Code) (sel : Code) (s : State) : exec (.sreg d sel) s = execSreg d sel s := rfl
@[simp] theorem exec_kadd (d : Code) (a : Code) (b : Code) (s : State) : exec (.kadd d a b) s = execKadd d a b s := rfl
@[simp] theorem exec_ksub (d : Code) (a : Code) (b : Code) (s : State) : exec (.ksub d a b) s = execKsub d a b s := rfl
@[simp] theorem exec_kmul (d : Code) (a : Code) (b : Code) (s : State) : exec (.kmul d a b) s = execKmul d a b s := rfl
@[simp] theorem exec_kand (d : Code) (a : Code) (b : Code) (s : State) : exec (.kand d a b) s = execKand d a b s := rfl
@[simp] theorem exec_kor (d : Code) (a : Code) (b : Code) (s : State) : exec (.kor d a b) s = execKor d a b s := rfl
@[simp] theorem exec_kxor (d : Code) (a : Code) (b : Code) (s : State) : exec (.kxor d a b) s = execKxor d a b s := rfl
@[simp] theorem exec_kshl (d : Code) (a : Code) (b : Code) (s : State) : exec (.kshl d a b) s = execKshl d a b s := rfl
@[simp] theorem exec_kshr (d : Code) (a : Code) (b : Code) (s : State) : exec (.kshr d a b) s = execKshr d a b s := rfl
@[simp] theorem exec_kmov (d : Code) (a : Code) (s : State) : exec (.kmov d a) s = execKmov d a s := rfl
@[simp] theorem exec_kcmp (c : BitVec 4) (p : BitVec 3) (a : Code) (b : Code) (s : State) : exec (.kcmp c p a b) s = execKcmp c p a b s := rfl
@[simp] theorem exec_ksel (d : Code) (a : Code) (b : Code) (s : State) : exec (.ksel d a b) s = execKsel d a b s := rfl
@[simp] theorem exec_kld (d : Code) (a : Code) (b : Code) (s : State) : exec (.kld d a b) s = execKld d a b s := rfl
@[simp] theorem exec_ld8 (d : Code) (a : Code) (b : Code) (s : State) : exec (.ld8 d a b) s = execLd8 d a b s := rfl
@[simp] theorem exec_ld16 (d : Code) (a : Code) (b : Code) (s : State) : exec (.ld16 d a b) s = execLd16 d a b s := rfl
@[simp] theorem exec_ld (d : Code) (a : Code) (b : Code) (s : State) : exec (.ld d a b) s = execLd d a b s := rfl
@[simp] theorem exec_ldq (d : Code) (a : Code) (b : Code) (s : State) : exec (.ldq d a b) s = execLdq d a b s := rfl
@[simp] theorem exec_st8 (d : Code) (a : Code) (b : Code) (s : State) : exec (.st8 d a b) s = execSt8 d a b s := rfl
@[simp] theorem exec_st16 (d : Code) (a : Code) (b : Code) (s : State) : exec (.st16 d a b) s = execSt16 d a b s := rfl
@[simp] theorem exec_st (d : Code) (a : Code) (b : Code) (s : State) : exec (.st d a b) s = execSt d a b s := rfl
@[simp] theorem exec_stq (d : Code) (a : Code) (b : Code) (s : State) : exec (.stq d a b) s = execStq d a b s := rfl
@[simp] theorem exec_ldnc (d : Code) (a : Code) (b : Code) (s : State) : exec (.ldnc d a b) s = execLdnc d a b s := rfl
@[simp] theorem exec_lda (d : Code) (a : Code) (b : Code) (s : State) : exec (.lda d a b) s = execLda d a b s := rfl
@[simp] theorem exec_stl (d : Code) (a : Code) (b : Code) (s : State) : exec (.stl d a b) s = execStl d a b s := rfl
@[simp] theorem exec_lds (d : Code) (a : Code) (z : BitVec 3) (s : State) : exec (.lds d a z) s = execLds d a z s := rfl
@[simp] theorem exec_sts (d : Code) (a : Code) (z : BitVec 3) (s : State) : exec (.sts d a z) s = execSts d a z s := rfl
@[simp] theorem exec_fence (t : BitVec 1) (im : BitVec 1) (sr : BitVec 1) (gl : BitVec 1) (rel : BitVec 1) (acq : BitVec 1) (s : State) : exec (.fence t im sr gl rel acq) s = execFence t im sr gl rel acq s := rfl
@[simp] theorem exec_ifence (s : State) : exec (.ifence) s = execIfence s := rfl
@[simp] theorem exec_pref (l : BitVec 2) (a : Code) (b : Code) (s : State) : exec (.pref l a b) s = execPref l a b s := rfl
@[simp] theorem exec_atom (d : Code) (a : Code) (o : BitVec 3) (s : State) : exec (.atom d a o) s = execAtom d a o s := rfl
@[simp] theorem exec_red (d : Code) (a : Code) (o : BitVec 3) (s : State) : exec (.red d a o) s = execRed d a o s := rfl
@[simp] theorem exec_atoms (d : Code) (a : Code) (o : BitVec 3) (s : State) : exec (.atoms d a o) s = execAtoms d a o s := rfl
@[simp] theorem exec_mcas (d : Code) (a : Code) (p : BitVec 3) (s : State) : exec (.mcas d a p) s = execMcas d a p s := rfl
@[simp] theorem exec_filldone (s : State) : exec (.filldone) s = execFilldone s := rfl
@[simp] theorem exec_fillfail (c : BitVec 16) (s : State) : exec (.fillfail c) s = execFillfail c s := rfl
@[simp] theorem exec_cadd (d : Code) (a : Code) (b : Code) (s : State) : exec (.cadd d a b) s = execCadd d a b s := rfl
@[simp] theorem exec_cwait (d : Code) (a : Code) (b : Code) (s : State) : exec (.cwait d a b) s = execCwait d a b s := rfl
@[simp] theorem exec_bar (c : Code) (n : BitVec 3) (s : State) : exec (.bar c n) s = execBar c n s := rfl
@[simp] theorem exec_gbar (n : BitVec 2) (s : State) : exec (.gbar n) s = execGbar n s := rfl
@[simp] theorem exec_cpy (a : Code) (s : State) : exec (.cpy a) s = execCpy a s := rfl
@[simp] theorem exec_cpyY (a : Code) (b : Code) (s : State) : exec (.cpyY a b) s = execCpyY a b s := rfl
@[simp] theorem exec_getx (a : Code) (s : State) : exec (.getx a) s = execGetx a s := rfl
@[simp] theorem exec_putx (a : Code) (s : State) : exec (.putx a) s = execPutx a s := rfl
@[simp] theorem exec_rwr (d : Code) (a : Code) (b : Code) (s : State) : exec (.rwr d a b) s = execRwr d a b s := rfl
@[simp] theorem exec_fetchw (a : Code) (s : State) : exec (.fetchw a) s = execFetchw a s := rfl
@[simp] theorem exec_racq (t : BitVec 1) (p : BitVec 3) (n : BitVec 16) (s : State) : exec (.racq t p n) s = execRacq t p n s := rfl
@[simp] theorem exec_rrel (n : BitVec 16) (s : State) : exec (.rrel n) s = execRrel n s := rfl
@[simp] theorem exec_tacq (t : BitVec 1) (p : BitVec 3) (n : BitVec 16) (s : State) : exec (.tacq t p n) s = execTacq t p n s := rfl
@[simp] theorem exec_trel (n : BitVec 16) (s : State) : exec (.trel n) s = execTrel n s := rfl
@[simp] theorem exec_sysc (d : Code) (a : Code) (b : Code) (s : State) : exec (.sysc d a b) s = execSysc d a b s := rfl
@[simp] theorem exec_mma (c : BitVec 1) (f : BitVec 4) (t : BitVec 3) (a : Code) (b : Code) (s : State) : exec (.mma c f t a b) s = execMma c f t a b s := rfl
@[simp] theorem exec_mmas (c : BitVec 1) (f : BitVec 4) (t : BitVec 3) (a : Code) (b : Code) (s : State) : exec (.mmas c f t a b) s = execMmas c f t a b s := rfl
@[simp] theorem exec_mcommit (m : Code) (s : State) : exec (.mcommit m) s = execMcommit m s := rfl
@[simp] theorem exec_mdiscard (m : Code) (s : State) : exec (.mdiscard m) s = execMdiscard m s := rfl
@[simp] theorem exec_tld (c : BitVec 1) (t : BitVec 3) (a : Code) (b : Code) (s : State) : exec (.tld c t a b) s = execTld c t a b s := rfl
@[simp] theorem exec_tst (c : BitVec 1) (t : BitVec 3) (a : Code) (b : Code) (s : State) : exec (.tst c t a b) s = execTst c t a b s := rfl
@[simp] theorem exec_tzero (m : Code) (s : State) : exec (.tzero m) s = execTzero m s := rfl
@[simp] theorem exec_tcvt (f : BitVec 2) (o : BitVec 2) (d : BitVec 3) (src : BitVec 3) (b : Code) (s : State) : exec (.tcvt f o d src b) s = execTcvt f o d src b s := rfl
@[simp] theorem exec_tmov (d : Code) (a : Code) (r : BitVec 2) (t : BitVec 1) (g : BitVec 3) (s : State) : exec (.tmov d a r t g) s = execTmov d a r t g s := rfl
@[simp] theorem exec_tfill (t : BitVec 3) (a : Code) (c : BitVec 1) (s : State) : exec (.tfill t a c) s = execTfill t a c s := rfl
@[simp] theorem exec_tldS (c : BitVec 1) (t : BitVec 3) (a : Code) (s : State) : exec (.tldS c t a) s = execTldS c t a s := rfl
@[simp] theorem exec_tstS (c : BitVec 1) (t : BitVec 3) (a : Code) (s : State) : exec (.tstS c t a) s = execTstS c t a s := rfl
@[simp] theorem exec_tex (d : Code) (a : Code) (b : Code) (s : State) : exec (.tex d a b) s = execTex d a b s := rfl
@[simp] theorem exec_texn (d : Code) (a : Code) (b : Code) (s : State) : exec (.texn d a b) s = execTexn d a b s := rfl
@[simp] theorem exec_texq (d : Code) (a : Code) (b : Code) (s : State) : exec (.texq d a b) s = execTexq d a b s := rfl
@[simp] theorem exec_trace (q : BitVec 2) (a : Code) (b : Code) (s : State) : exec (.trace q a b) s = execTrace q a b s := rfl
@[simp] theorem exec_trres (d : Code) (q : BitVec 2) (s : State) : exec (.trres d q) s = execTrres d q s := rfl
@[simp] theorem exec_prim (a : Code) (s : State) : exec (.prim a) s = execPrim a s := rfl
@[simp] theorem exec_attr (d : Code) (w : BitVec 1) (interp : BitVec 2) (n : BitVec 5) (s : State) : exec (.attr d w interp n) s = execAttr d w interp n s := rfl
@[simp] theorem exec_expf (t : BitVec 4) (a : Code) (n : BitVec 1) (s : State) : exec (.expf t a n) s = execExpf t a n s := rfl
@[simp] theorem exec_kill (s : State) : exec (.kill) s = execKill s := rfl
@[simp] theorem exec_csrr (d : Code) (c : BitVec 16) (s : State) : exec (.csrr d c) s = execCsrr d c s := rfl
@[simp] theorem exec_csrw (d : Code) (c : BitVec 16) (s : State) : exec (.csrw d c) s = execCsrw d c s := rfl
@[simp] theorem exec_rett (s : State) : exec (.rett) s = execRett s := rfl
@[simp] theorem exec_tlbi (a : Code) (b : Code) (s : State) : exec (.tlbi a b) s = execTlbi a b s := rfl
@[simp] theorem exec_vget (d : Code) (a : Code) (b : Code) (s : State) : exec (.vget d a b) s = execVget d a b s := rfl
@[simp] theorem exec_vset (d : Code) (a : Code) (b : Code) (s : State) : exec (.vset d a b) s = execVset d a b s := rfl
@[simp] theorem exec_park (s : State) : exec (.park) s = execPark s := rfl
@[simp] theorem exec_wake (d : Code) (a : Code) (s : State) : exec (.wake d a) s = execWake d a s := rfl
@[simp] theorem exec_upcall (svc : BitVec 16) (s : State) : exec (.upcall svc) s = execUpcall svc s := rfl
@[simp] theorem exec_psvSpawn (rd : BitVec 5) (r1 : BitVec 5) (r2 : BitVec 5) (s : State) : exec (.psvSpawn rd r1 r2) s = execPsvSpawn rd r1 r2 s := rfl
@[simp] theorem exec_psvCwait (rd : BitVec 5) (r1 : BitVec 5) (r2 : BitVec 5) (s : State) : exec (.psvCwait rd r1 r2) s = execPsvCwait rd r1 r2 s := rfl
@[simp] theorem exec_latchChainForceOff (w : Nat) (s : State) : exec (.latchChainForceOff w) s = execLatchChainForceOff w s := rfl
@[simp] theorem exec_loadDataReturn (op : Nat) (lane : Nat) (s : State) : exec (.loadDataReturn op lane) s = execLoadDataReturn op lane s := rfl
@[simp] theorem exec_storeRegistration (op : Nat) (lane : Nat) (s : State) : exec (.storeRegistration op lane) s = execStoreRegistration op lane s := rfl
@[simp] theorem exec_homeRequestService (op : Nat) (lane : Nat) (s : State) : exec (.homeRequestService op lane) s = execHomeRequestService op lane s := rfl
@[simp] theorem exec_redPartialUpdate (op : Nat) (lane : Nat) (s : State) : exec (.redPartialUpdate op lane) s = execRedPartialUpdate op lane s := rfl
@[simp] theorem exec_mcasLaneEvent (op : Nat) (lane : Nat) (s : State) : exec (.mcasLaneEvent op lane) s = execMcasLaneEvent op lane s := rfl
@[simp] theorem exec_generatorLaunch (leader : Nat) (stock : List Nat) (s : State) : exec (.generatorLaunch leader stock) s = execGeneratorLaunch leader stock s := rfl
@[simp] theorem exec_fillWaiterRetry (op : Nat) (lane : Nat) (s : State) : exec (.fillWaiterRetry op lane) s = execFillWaiterRetry op lane s := rfl
@[simp] theorem exec_pressureReclaim (die : Reclaim) (s : State) : exec (.pressureReclaim die) s = execPressureReclaim die s := rfl
@[simp] theorem exec_pageWalk (asid : BitVec 16) (va : DWord) (acc : Acc) (s : State) : exec (.pageWalk asid va acc) s = execPageWalk asid va acc s := rfl
@[simp] theorem exec_translationMissResolve (asid : BitVec 16) (va : DWord) (plan : Option (List (Nat × DWord))) (s : State) : exec (.translationMissResolve asid va plan) s = execTranslationMissResolve asid va plan s := rfl
@[simp] theorem exec_copyOnWrite (asid : BitVec 16) (va : DWord) (page : Option Nat) (plan : List (Nat × DWord)) (s : State) : exec (.copyOnWrite asid va page plan) s = execCopyOnWrite asid va page plan s := rfl
@[simp] theorem exec_watchWake (w : Nat) (e : Nat) (s : State) : exec (.watchWake w e) s = execWatchWake w e s := rfl
@[simp] theorem exec_watchPoll (w : Nat) (e : Nat) (s : State) : exec (.watchPoll w e) s = execWatchPoll w e s := rfl
@[simp] theorem exec_barTimeout (lid : Nat) (wg : Nat) (grid : Bool) (n : Nat) (s : State) : exec (.barTimeout lid wg grid n) s = execBarTimeout lid wg grid n s := rfl
@[simp] theorem exec_copyEngineCopy (job : Nat) (s : State) : exec (.copyEngineCopy job) s = execCopyEngineCopy job s := rfl
@[simp] theorem exec_copyCompletion (job : Nat) (s : State) : exec (.copyCompletion job) s = execCopyCompletion job s := rfl
@[simp] theorem exec_transferSourceRead (x : Nat) (foreign : Option XferReq) (reply : RemoteReply) (s : State) : exec (.transferSourceRead x foreign reply) s = execTransferSourceRead x foreign reply s := rfl
@[simp] theorem exec_transferLanding (x : Nat) (dev : Nat) (foreign : Option Deposit) (reply : RemoteReply) (s : State) : exec (.transferLanding x dev foreign reply) s = execTransferLanding x dev foreign reply s := rfl
@[simp] theorem exec_transferConfirm (x : Nat) (s : State) : exec (.transferConfirm x) s = execTransferConfirm x s := rfl
@[simp] theorem exec_peerTimeout (x : Nat) (lane : Option Nat) (s : State) : exec (.peerTimeout x lane) s = execPeerTimeout x lane s := rfl
@[simp] theorem exec_peerPageAccess (op : Nat) (lane : Nat) (traffic : PeerTraffic) (s : State) : exec (.peerPageAccess op lane reply) s = execPeerPageAccess op lane reply s := rfl
@[simp] theorem exec_rwrLanding (x : Nat) (s : State) : exec (.rwrLanding x) s = execRwrLanding x s := rfl
@[simp] theorem exec_fetchwReply (lid : Nat) (wg : Nat) (s : State) : exec (.fetchwReply lid wg) s = execFetchwReply lid wg s := rfl
@[simp] theorem exec_syscReply (op : Nat) (lane : Nat) (s : State) : exec (.syscReply op lane) s = execSyscReply op lane s := rfl
@[simp] theorem exec_syscResubmit (op : Nat) (lane : Nat) (s : State) : exec (.syscResubmit op lane) s = execSyscResubmit op lane s := rfl
@[simp] theorem exec_upcallReply (w : Nat) (s : State) : exec (.upcallReply w) s = execUpcallReply w s := rfl
@[simp] theorem exec_textureResult (op : Nat) (s : State) : exec (.textureResult op) s = execTextureResult op s := rfl
@[simp] theorem exec_rayTraversalEnd (w : Nat) (slot : Nat) (lane : Nat) (s : State) : exec (.rayTraversalEnd w slot lane) s = execRayTraversalEnd w slot lane s := rfl
@[simp] theorem exec_mmaCompletion (op : Nat) (s : State) : exec (.mmaCompletion op) s = execMmaCompletion op s := rfl
@[simp] theorem exec_tileMoveCompletion (op : Nat) (s : State) : exec (.tileMoveCompletion op) s = execTileMoveCompletion op s := rfl
@[simp] theorem exec_tilePortCompletion (op : Nat) (s : State) : exec (.tilePortCompletion op) s = execTilePortCompletion op s := rfl
@[simp] theorem exec_acquisitionGrant (core : Nat) (s : State) : exec (.acquisitionGrant core) s = execAcquisitionGrant core s := rfl
@[simp] theorem exec_shadowGrant (core : Nat) (s : State) : exec (.shadowGrant core) s = execShadowGrant core s := rfl
@[simp] theorem exec_primitiveCommit (lid : Nat) (s : State) : exec (.primitiveCommit lid) s = execPrimitiveCommit lid s := rfl
@[simp] theorem exec_binArenaReplay (lid : Nat) (s : State) : exec (.binArenaReplay lid) s = execBinArenaReplay lid s := rfl
@[simp] theorem exec_fragmentWarpLaunch (lid : Nat) (binx : Nat) (biny : Nat) (s : State) : exec (.fragmentWarpLaunch lid binx biny) s = execFragmentWarpLaunch lid binx biny s := rfl
@[simp] theorem exec_fragmentRetire (lid : Nat) (px : Nat) (py : Nat) (s : State) : exec (.fragmentRetire lid px py) s = execFragmentRetire lid px py s := rfl
@[simp] theorem exec_tailWake (q : Nat) (s : State) : exec (.tailWake q) s = execTailWake q s := rfl
@[simp] theorem exec_launchPacket (q : Nat) (s : State) : exec (.launchPacket q) s = execLaunchPacket q s := rfl
@[simp] theorem exec_twoStageLaunch (q : Nat) (s : State) : exec (.twoStageLaunch q) s = execTwoStageLaunch q s := rfl
@[simp] theorem exec_prologueRepeat (q : Nat) (s : State) : exec (.prologueRepeat q) s = execPrologueRepeat q s := rfl
@[simp] theorem exec_prologueGroupLimit (fe : Nat) (s : State) : exec (.prologueGroupLimit fe) s = execPrologueGroupLimit fe s := rfl
@[simp] theorem exec_signal (q : Nat) (s : State) : exec (.signal q) s = execSignal q s := rfl
@[simp] theorem exec_wait (q : Nat) (s : State) : exec (.wait q) s = execWait q s := rfl
@[simp] theorem exec_waitMet (q : Nat) (s : State) : exec (.waitMet q) s = execWaitMet q s := rfl
@[simp] theorem exec_writesignalStore (q : Nat) (s : State) : exec (.writesignalStore q) s = execWritesignalStore q s := rfl
@[simp] theorem exec_writesignalSignal (q : Nat) (s : State) : exec (.writesignalSignal q) s = execWritesignalSignal q s := rfl
@[simp] theorem exec_quantumExpiry (fe : Nat) (s : State) : exec (.quantumExpiry fe) s = execQuantumExpiry fe s := rfl
@[simp] theorem exec_frontEndWatchdog (fe : Nat) (s : State) : exec (.frontEndWatchdog fe) s = execFrontEndWatchdog fe s := rfl
@[simp] theorem exec_launchCompletion (lid : Nat) (s : State) : exec (.launchCompletion lid) s = execLaunchCompletion lid s := rfl
@[simp] theorem exec_place (lid : Nat) (s : State) : exec (.place lid) s = execPlace lid s := rfl
@[simp] theorem exec_placeReply (cluster : Nat) (s : State) : exec (.placeReply cluster) s = execPlaceReply cluster s := rfl
@[simp] theorem exec_hawthornTakeover (s : State) : exec (.hawthornTakeover) s = execHawthornTakeover s := rfl
@[simp] theorem exec_preemptionRequest (lid : Nat) (wg : Nat) (s : State) : exec (.preemptionRequest lid wg) s = execPreemptionRequest lid wg s := rfl
@[simp] theorem exec_preemptStopped (lid : Nat) (wg : Nat) (s : State) : exec (.preemptStopped lid wg) s = execPreemptStopped lid wg s := rfl
@[simp] theorem exec_drainBoundExpiry (lid : Nat) (wg : Nat) (s : State) : exec (.drainBoundExpiry lid wg) s = execDrainBoundExpiry lid wg s := rfl
@[simp] theorem exec_workgroupSave (lid : Nat) (wg : Nat) (area : Nat) (s : State) : exec (.workgroupSave lid wg area) s = execWorkgroupSave lid wg area s := rfl
@[simp] theorem exec_workgroupFlush (lid : Nat) (wg : Nat) (s : State) : exec (.workgroupFlush lid wg) s = execWorkgroupFlush lid wg s := rfl
@[simp] theorem exec_savedImageReplyWrite (lid : Nat) (wg : Nat) (wi : Nat) (lane : Nat) (s : State) : exec (.savedImageReplyWrite lid wg wi lane) s = execSavedImageReplyWrite lid wg wi lane s := rfl
@[simp] theorem exec_workgroupRestore (lid : Nat) (wg : Nat) (s : State) : exec (.workgroupRestore lid wg) s = execWorkgroupRestore lid wg s := rfl
@[simp] theorem exec_debugRelease (w : Nat) (s : State) : exec (.debugRelease w) s = execDebugRelease w s := rfl
@[simp] theorem exec_contextCreate (asid : BitVec 16) (root : Nat) (rcb : DWord) (plan : CtxPlan) (s : State) : exec (.contextCreate asid root rcb plan) s = execContextCreate asid root rcb plan s := rfl
@[simp] theorem exec_memalloc (c : Nat) (base : DWord) (plan : List (Nat × DWord)) (s : State) : exec (.memalloc c base plan) s = execMemalloc c base plan s := rfl
@[simp] theorem exec_memfree (c : Nat) (plan : List (Nat × DWord)) (s : State) : exec (.memfree c plan) s = execMemfree c plan s := rfl
@[simp] theorem exec_memprotect (c : Nat) (plan : List (Nat × DWord)) (s : State) : exec (.memprotect c plan) s = execMemprotect c plan s := rfl
@[simp] theorem exec_qsdeclare (c : Asker (List Byte)) (stock : List Nat) (plan : List (Nat × DWord)) (s : State) : exec (.qsdeclare c stock plan) s = execQsdeclare c stock plan s := rfl
@[simp] theorem exec_qsrearm (c : Asker DWord) (s : State) : exec (.qsrearm c) s = execQsrearm c s := rfl
@[simp] theorem exec_qswithdraw (c : Asker DWord) (s : State) : exec (.qswithdraw c) s = execQswithdraw c s := rfl
@[simp] theorem exec_qsevict (c : Asker DWord) (s : State) : exec (.qsevict c) s = execQsevict c s := rfl
@[simp] theorem exec_link (c : Nat) (code : DWord) (const : DWord) (kd : DWord) (plan : List (Nat × DWord)) (s : State) : exec (.link c code const kd plan) s = execLink c code const kd plan s := rfl
@[simp] theorem exec_sharemap (c : Nat) (plan : LinkPlan) (s : State) : exec (.sharemap c plan) s = execSharemap c plan s := rfl
@[simp] theorem exec_qcreate (c : Nat) (q : Nat) (ring : DWord) (plan : List (Nat × DWord)) (s : State) : exec (.qcreate c q ring plan) s = execQcreate c q ring plan s := rfl
@[simp] theorem exec_qdestroy (c : Nat) (s : State) : exec (.qdestroy c) s = execQdestroy c s := rfl
@[simp] theorem exec_socket (c : Nat) (r : DWord) (s : State) : exec (.socket c r) s = execSocket c r s := rfl
@[simp] theorem exec_bind (c : Nat) (r : DWord) (s : State) : exec (.bind c r) s = execBind c r s := rfl
@[simp] theorem exec_connect (c : Nat) (r : DWord) (s : State) : exec (.connect c r) s = execConnect c r s := rfl
@[simp] theorem exec_listen (c : Nat) (r : DWord) (s : State) : exec (.listen c r) s = execListen c r s := rfl
@[simp] theorem exec_accept (c : Nat) (r : DWord) (s : State) : exec (.accept c r) s = execAccept c r s := rfl
@[simp] theorem exec_send (c : Nat) (r : DWord) (s : State) : exec (.send c r) s = execSend c r s := rfl
@[simp] theorem exec_recv (c : Nat) (r : DWord) (base : DWord) (bytes : List Byte) (plan : List (Nat × DWord)) (s : State) : exec (.recv c r base bytes plan) s = execRecv c r base bytes plan s := rfl
@[simp] theorem exec_returnRange (c : Nat) (plan : List (Nat × DWord)) (s : State) : exec (.returnRange c plan) s = execReturnRange c plan s := rfl
@[simp] theorem exec_close (c : Nat) (s : State) : exec (.close c) s = execClose c s := rfl
@[simp] theorem exec_sendLendEnd (lend : Nat) (s : State) : exec (.sendLendEnd lend) s = execSendLendEnd lend s := rfl
@[simp] theorem exec_deviceRegisterWrite (host : Bool) (addr : Nat) (v : DWord) (s : State) : exec (.deviceRegisterWrite host addr v) s = execDeviceRegisterWrite host addr v s := rfl
@[simp] theorem exec_pwrcapWrite (v : DWord) (s : State) : exec (.pwrcapWrite v) s = execPwrcapWrite v s := rfl
@[simp] theorem exec_updctlGo (v : DWord) (verdict : Option UpdVerdict) (s : State) : exec (.updctlGo v verdict) s = execUpdctlGo v verdict s := rfl
@[simp] theorem exec_updateReset (s : State) : exec (.updateReset) s = execUpdateReset s := rfl
@[simp] theorem exec_captureCtlWrite (m : Nat) (v : DWord) (s : State) : exec (.captureCtlWrite m v) s = execCaptureCtlWrite m v s := rfl
@[simp] theorem exec_captureSample (src : Nat) (inst : Nat) (v : DWord) (s : State) : exec (.captureSample src inst v) s = execCaptureSample src inst v s := rfl
@[simp] theorem exec_windowEntryWrite (w : Nat) (j : Nat) (v : DWord) (s : State) : exec (.windowEntryWrite w j v) s = execWindowEntryWrite w j v s := rfl
@[simp] theorem exec_hostApertureRead (place : HostPlace) (len : Nat) (s : State) : exec (.hostApertureRead off len) s = execHostApertureRead off len s := rfl
@[simp] theorem exec_hostApertureWrite (off : Nat) (bytes : List Byte) (s : State) : exec (.hostApertureWrite off bytes) s = execHostApertureWrite off bytes s := rfl
@[simp] theorem exec_islandClockControl (island : Nat) (mhz : Nat) (s : State) : exec (.islandClockControl island mhz) s = execIslandClockControl island mhz s := rfl
@[simp] theorem exec_reset (s : State) : exec (.reset) s = execReset s := rfl
@[simp] theorem exec_dramWipeDone (die : Nat) (s : State) : exec (.dramWipeDone die) s = execDramWipeDone die s := rfl
@[simp] theorem exec_getVersion (s : State) : exec (.getVersion) s = execGetVersion s := rfl
@[simp] theorem exec_getCapabilities (s : State) : exec (.getCapabilities) s = execGetCapabilities s := rfl
@[simp] theorem exec_negotiateAlgorithms (mldsa : Bool) (shake : Bool) (s : State) : exec (.negotiateAlgorithms mldsa shake) s = execNegotiateAlgorithms mldsa shake s := rfl
@[simp] theorem exec_getDigests (s : State) : exec (.getDigests) s = execGetDigests s := rfl
@[simp] theorem exec_getCertificate (off : Nat) (len : Nat) (s : State) : exec (.getCertificate off len) s = execGetCertificate off len s := rfl
@[simp] theorem exec_challenge (nonce : List Byte) (s : State) : exec (.challenge nonce) s = execChallenge nonce s := rfl
@[simp] theorem exec_getMeasurements (idx : Nat) (s : State) : exec (.getMeasurements idx) s = execGetMeasurements idx s := rfl
@[simp] theorem exec_lifeCycleChange (owner : Bool) (vendor : Bool) (target : BitVec 3) (s : State) : exec (.lifeCycleChange owner vendor target) s = execLifeCycleChange owner vendor target s := rfl
@[simp] theorem exec_i3cSensorRead (sensor : Nat) (s : State) : exec (.i3cSensorRead sensor) s = execI3cSensorRead sensor s := rfl
@[simp] theorem exec_illegalOp (w : BitVec 32) (s : State) : exec (.illegalOp w) s = execIllegalOp w s := rfl
@[simp] theorem exec_queueRestart (q : Nat) (s : State) : exec (.queueRestart q) s = execQueueRestart q s := rfl
@[simp] theorem exec_linkTraining (port : Nat) (up : Bool) (s : State) : exec (.linkTraining port up) s = execLinkTraining port up s := rfl
@[simp] theorem exec_serviceCoreInterrupt (core : Nat) (cause : DWord) (s : State) : exec (.serviceCoreInterrupt core cause) s = execServiceCoreInterrupt core cause s := rfl

end Sys2Proof.Machine
end

