-- ==== Sys2Proof/Laws/Lanes.lean ====
section
/-! SUPPORT. Writes of the lanes of a mask: what a v register, a latch and a predicate hold afterwards. -/

namespace Sys2Proof.Machine

theorem mem_allLanes {l : Nat} : l ∈ allLanes ↔ l < 64 := by simp [allLanes]

theorem allLanes_nodup : allLanes.Nodup := List.nodup_range

/-- One element of a table after the lanes of a list have each rewritten it by `f`, where only lane `l` touches it. -/
theorem rd_foldl_lanes {α : Type} {w : Nat} (g : α → SMap (BitVec w)) (f : Nat → α → α) (i l : Nat) (y : BitVec w)
    (hl : ∀ a, rd (g (f l a)) i = y) (ho : ∀ l' a, l' < 64 → l' ≠ l → rd (g (f l' a)) i = rd (g a) i) (m : Mask)
    (ls : List Nat) (hls : ∀ x ∈ ls, x < 64) (a : α) :
    rd (g (ls.foldl (fun a l => if m.getLsbD l then f l a else a) a)) i =
      if l ∈ ls ∧ m.getLsbD l then y else rd (g a) i := by
  induction ls generalizing a with
  | nil => simp
  | cons x ls ih =>
    rw [List.foldl_cons, ih (fun y hy => hls y (List.mem_cons_of_mem _ hy))]
    by_cases hx : x = l
    · subst hx
      by_cases hm : m.getLsbD x <;> simp [hm, hl]
    · have hx' : l ≠ x := Ne.symm hx
      by_cases hm : m.getLsbD x
      · simp [hm, hx', ho x a (hls x (List.mem_cons_self ..)) hx]
      · simp [hm, hx']

/-- The same for `forLanes`. -/
theorem rd_forLanes {α : Type} {w : Nat} (g : α → SMap (BitVec w)) (f : Nat → α → α) (i l : Nat) (y : BitVec w) (hlt : l < 64)
    (hl : ∀ a, rd (g (f l a)) i = y) (ho : ∀ l' a, l' < 64 → l' ≠ l → rd (g (f l' a)) i = rd (g a) i) (m : Mask) (a : α) :
    rd (g (forLanes m f a)) i = if m.getLsbD l then y else rd (g a) i := by
  unfold forLanes
  rw [rd_foldl_lanes g f i l y hl ho m allLanes (fun x hx => mem_allLanes.1 hx)]
  simp [mem_allLanes, hlt]

/-- What every write of a lane keeps, `forLanes` keeps. -/
theorem forLanes_keeps {α β : Type} (p : α → β) (f : Nat → α → α) (h : ∀ l a, l < 64 → p (f l a) = p a) (m : Mask) (a : α) :
    p (forLanes m f a) = p a := by
  unfold forLanes
  have hl : ∀ x ∈ allLanes, x < 64 := fun x hx => mem_allLanes.1 hx
  revert hl
  generalize allLanes = ls
  intro hl
  induction ls generalizing a with
  | nil => rfl
  | cons x ls ih =>
    rw [List.foldl_cons, ih _ (fun y hy => hl y (List.mem_cons_of_mem _ hy))]
    split
    · exact h x a (hl x (List.mem_cons_self ..))
    · rfl

theorem rd_setV (w : Warp) (n l r i : Nat) (wide : Bool) (x : Nat) (hl : l < 64) (hi : i < 64) :
    rd (w.setV n l wide x).v (r * 64 + i) =
      if i = l then
        (if wide ∧ r = n + 1 then BitVec.ofNat 32 (x / 2 ^ 32) else if r = n then BitVec.ofNat 32 x else rd w.v (r * 64 + i))
      else rd w.v (r * 64 + i) := by
  have h0 : (r * 64 + i = n * 64 + l) ↔ (i = l ∧ r = n) := by omega
  have h1 : (r * 64 + i = (n + 1) * 64 + l) ↔ (i = l ∧ r = n + 1) := by omega
  unfold Warp.setV
  cases wide
  · simp only [Bool.false_eq_true, if_false, rd_wr, h0, false_and]
    by_cases hi' : i = l <;> simp [hi']
  · simp only [if_true, rd_wr, h0, h1, true_and]
    by_cases hi' : i = l <;> simp [hi']

/-- A write of v registers, lane by lane. -/
theorem rd_forLanes_setV (w : Warp) (n r l : Nat) (wide : Bool) (m : Mask) (x : Nat → Nat) (hl : l < 64) :
    rd (forLanes m (fun l w => w.setV n l wide (x l)) w).v (r * 64 + l) =
      if m.getLsbD l then
        (if wide ∧ r = n + 1 then BitVec.ofNat 32 (x l / 2 ^ 32) else if r = n then BitVec.ofNat 32 (x l) else rd w.v (r * 64 + l))
      else rd w.v (r * 64 + l) := by
  let f : Nat → Warp → Warp := fun l w => w.setV n l wide (x l)
  have own (a : Warp) : rd (f l a).v (r * 64 + l) = if wide ∧ r = n + 1 then BitVec.ofNat 32 (x l / 2 ^ 32) else
      if r = n then BitVec.ofNat 32 (x l) else rd a.v (r * 64 + l) := by
    show rd (a.setV n l wide (x l)).v (r * 64 + l) = _
    rw [rd_setV _ _ _ _ _ _ _ hl hl]; simp
  have other (l' : Nat) (a : Warp) (h' : l' < 64) (hne : l' ≠ l) : rd (f l' a).v (r * 64 + l) = rd a.v (r * 64 + l) := by
    show rd (a.setV n l' wide (x l')).v (r * 64 + l) = _
    rw [rd_setV _ _ _ _ _ _ _ h' hl]; simp [Ne.symm hne]
  by_cases h1 : wide = true ∧ r = n + 1
  · simp only [if_pos h1] at own ⊢
    exact rd_forLanes Warp.v f _ l _ hl own other m w
  · by_cases h2 : r = n
    · simp only [if_neg h1, if_pos h2] at own ⊢
      exact rd_forLanes Warp.v f _ l _ hl own other m w
    · simp only [if_neg h1, if_neg h2, ite_self] at own ⊢
      exact forLanes_keeps (fun w => rd w.v (r * 64 + l)) f (fun l' a h' => by
        by_cases hne : l' = l
        · subst hne; exact own a
        · exact other l' a h' hne) m w

/-- `forLanes` of v writes changes nothing of the warp but v. -/
theorem forLanes_setV_frame (w : Warp) (n : Nat) (wide : Bool) (m : Mask) (x : Nat → Nat) :
    forLanes m (fun l w => w.setV n l wide (x l)) w = { w with v := (forLanes m (fun l w => w.setV n l wide (x l)) w).v } := by
  have h := forLanes_keeps (fun w : Warp => { w with v := [] }) (fun l w => w.setV n l wide (x l)) (fun _ _ _ => rfl) m w
  generalize forLanes m (fun l w => w.setV n l wide (x l)) w = u at h ⊢
  cases u; cases w; simp only [Warp.mk.injEq] at h ⊢; simp only [h, and_self]

/-- The latch write of `Dst`. -/
theorem rd_foldl_lat (t : SMap DWord) (n q l : Nat) (m : Mask) (x : Nat → Nat) (hl : l < 64) :
    rd (allLanes.foldl (fun t l => wr t (n * 64 + l) (if m.getLsbD l then BitVec.ofNat 64 (x l) else 0)) t) (q * 64 + l) =
      if q = n then (if m.getLsbD l then BitVec.ofNat 64 (x l) else 0) else rd t (q * 64 + l) := by
  let f : Nat → SMap DWord → SMap DWord := fun l t => wr t (n * 64 + l) (if m.getLsbD l then BitVec.ofNat 64 (x l) else 0)
  have e : allLanes.foldl (fun t l => f l t) t = forLanes (BitVec.allOnes 64) f t := by
    unfold forLanes
    apply List.foldl_ext
    intro a b hb
    rw [if_pos (by rw [BitVec.getLsbD_allOnes]; simpa using mem_allLanes.1 hb)]
  have key (l' : Nat) (a : SMap DWord) : rd (f l' a) (q * 64 + l) = if q * 64 + l = n * 64 + l' then
      (if m.getLsbD l' then BitVec.ofNat 64 (x l') else 0) else rd a (q * 64 + l) := rd_wr ..
  show rd (allLanes.foldl (fun t l => f l t) t) _ = _
  rw [e]
  by_cases hq : q = n
  · simp only [if_pos hq]
    rw [rd_forLanes (fun t => t) f _ l (if m.getLsbD l then BitVec.ofNat 64 (x l) else 0) hl (fun a => by rw [key, if_pos (by omega)])
      (fun l' a h' hne => by rw [key, if_neg (by omega)])]
    rw [if_pos (by rw [BitVec.getLsbD_allOnes]; simpa using hl)]
  · simp only [if_neg hq]
    exact forLanes_keeps (fun t => rd t (q * 64 + l)) f (fun l' a h' => by show rd (f l' a) _ = _; rw [key, if_neg (by omega)]) _ t

end Sys2Proof.Machine
end

