-- ==== Sys2Proof/Laws/Issue.lean ====
section
/-! SUPPORT. The issue of a group and its end, said once: what `issue` answers, and what a group that writes registers and
falls through leaves. -/

namespace Sys2Proof.Machine

/-- A group whose checks pass runs its effect (R88). -/
theorem issue_runs {s : State} {i : Ins} (h : s.Issues i) (eff : State → Eff) : s.issue i eff = .next (s.finish i (eff s)) := by
  simp [State.issue, h.1, h.2]

/-- A failing check traps the group (R88). -/
theorem issue_traps {s : State} {i : Ins} {t : TrapInfo} (h : s.gate i = some t) (eff : State → Eff) :
    s.issue i eff = .next (s.takeTrap t) := by
  simp [State.issue, h]

/-- A group whose registers are being written is held (R44). -/
theorem issue_holds {s : State} {i : Ins} (h : s.gate i = none) (hs : s.scoreboard i = true) (eff : State → Eff) :
    s.issue i eff = .next s.hold := by
  simp [State.issue, h, hs]

/-- A group of an instruction that no handler may run issues in a fragment (R258). -/
theorem Issues.notSolo {s : State} {i : Ins} (h : s.Issues i) (hop : soloAllowed i.op = false) : s.grp.solo = false := by
  by_contra hs
  have hg := h.1
  have hi : s.illegal i = true := by
    simp only [Bool.not_eq_false] at hs
    simp [State.illegal, hs, hop]
  simp [State.gate, hi] at hg

/-- A group always answers a next state. -/
theorem issue_answers (s : State) (i : Ins) (eff : State → Eff) : ∃ t, s.issue i eff = .next t := ⟨_, rfl⟩

/-- The state `u` differs from `s` in registers of its warp only. -/
structure State.OnlyRegs (s u : State) : Prop where
  state : u = { s with warp := u.warp }
  warp : u.warp = { s.warp with v := u.warp.v, k := u.warp.k, p := u.warp.p, lat := u.warp.lat }

theorem State.OnlyRegs.refl (s : State) : s.OnlyRegs s := ⟨rfl, rfl⟩

theorem State.OnlyRegs.trans {s u x : State} (h : s.OnlyRegs u) (g : u.OnlyRegs x) : s.OnlyRegs x := by
  constructor
  · rw [g.state, h.state]
  · rw [g.warp, h.warp]

/-- A group whose effect leaves `u` falls through. -/
theorem finish_done {s u : State} {i : Ins} (h : u.warp.uid = s.warp.uid) : s.finish i (.done u) = u.fellThrough i := by
  unfold State.finish State.fellThrough
  simp only [h, if_true]

/-- A group that jumps. -/
theorem finish_jump {s u : State} {i : Ins} {pc : DWord} (h : u.warp.uid = s.warp.uid) : s.finish i (.jump u pc) = u.wentTo i pc := by
  unfold State.finish State.wentTo
  simp only [h, if_true]

theorem finish_again {s u : State} {i : Ins} {w : Wait} {m : Mask} (h : u.warp.uid = s.warp.uid) :
    s.finish i (.again u w m) = u.parkGroup w m := by
  unfold State.finish; simp only [h, if_true]

theorem finish_waits {s u : State} {i : Ins} {w : Wait} (h : u.warp.uid = s.warp.uid) :
    s.finish i (.waits u w) = (u.fellThrough i).waitFor w 0 := by
  unfold State.finish State.fellThrough; simp only [h, if_true]

theorem fellThrough_fragment {u : State} {i : Ins} (h : u.grp.solo = false) :
    u.fellThrough i = State.advance { u.countGroup with warp := u.warp.chain i u.grp.pc } := by
  unfold State.fellThrough; rw [h]; rfl

theorem chain_frame (w : Warp) (i : Ins) (pc : DWord) : w.chain i pc = { w with
    latValid := w.latValid ||| i.latWrite, latUnread := (w.latUnread &&& ~~~i.latRead) ||| i.latWrite
    chainLen := (w.chain i pc).chainLen, frag := { w.frag with lrpc := (w.chain i pc).frag.lrpc } } := rfl

theorem advance_fragment {s : State} (h : s.grp.solo = false) : s.advance = { s with warp := { s.warp with frag := { s.warp.frag with
    pc := if s.repeats then s.grp.pc else s.grp.pc + BitVec.ofNat 64 s.grp.bytes
    repcnt := if s.repeats then s.grp.repIx + 1 else 0, pmask := 0, group := if s.repeats then some s.grp else Option.none } } } := by
  unfold State.advance
  rewrite [h]
  cases s.warp.solo <;> simp

/-- What a group that writes registers leaves when it falls through. -/
theorem fellThrough_done {s u : State} {i : Ins} (hs : s.grp.solo = false) (h : s.OnlyRegs u) :
    s.GroupDone (u.fellThrough i) i := by
  have hu : u = { s with warp := { s.warp with v := u.warp.v, k := u.warp.k, p := u.warp.p, lat := u.warp.lat } } := by
    have := h.state; rw [h.warp] at this; exact this
  generalize u.warp.v = v, u.warp.k = k, u.warp.p = p, u.warp.lat = lat at hu
  subst hu
  rw [fellThrough_fragment (by exact hs), advance_fragment (by exact hs)]
  exact ⟨rfl, rfl, rfl⟩

@[simp] theorem fellThrough_v (u : State) (i : Ins) (h : u.grp.solo = false) : (u.fellThrough i).warp.v = u.warp.v := by
  rw [fellThrough_fragment h, advance_fragment (by exact h)]; rfl
@[simp] theorem fellThrough_k (u : State) (i : Ins) (h : u.grp.solo = false) : (u.fellThrough i).warp.k = u.warp.k := by
  rw [fellThrough_fragment h, advance_fragment (by exact h)]; rfl
@[simp] theorem fellThrough_p (u : State) (i : Ins) (h : u.grp.solo = false) : (u.fellThrough i).warp.p = u.warp.p := by
  rw [fellThrough_fragment h, advance_fragment (by exact h)]; rfl
@[simp] theorem fellThrough_lat (u : State) (i : Ins) (h : u.grp.solo = false) : (u.fellThrough i).warp.lat = u.warp.lat := by
  rw [fellThrough_fragment h, advance_fragment (by exact h)]; rfl

/-- A group that issues and whose effect writes registers only: it answers the next state, with the registers that the effect
wrote, and `GroupDone` holds of it. `issue_runs` gives the first hypothesis. -/
theorem exec_regs {s u : State} {i : Instr} {ins : Ins} (hx : exec i s = .next (s.finish ins (.done u))) (hs : s.grp.solo = false)
    (h : s.OnlyRegs u) : ∃ t, exec i s = .next t ∧ s.GroupDone t ins ∧
      t.warp.v = u.warp.v ∧ t.warp.k = u.warp.k ∧ t.warp.p = u.warp.p ∧ t.warp.lat = u.warp.lat := by
  have h2 : u.grp.solo = false := by rw [h.state]; exact hs
  refine ⟨u.fellThrough ins, ?_, fellThrough_done hs h, ?_, ?_, ?_, ?_⟩
  · rw [hx, finish_done (by rw [h.warp])]
  all_goals simp [h2]

/-! Destinations. -/

theorem dst_onlyRegs (s : State) (d : Code) (wide : Bool) (m : Mask) (x : Nat → Nat) : s.OnlyRegs (s.dst d wide m x) := by
  unfold State.dst
  simp only
  split
  · exact ⟨rfl, by rw [forLanes_setV_frame]⟩
  · split
    · exact ⟨rfl, rfl⟩
    · exact .refl s

theorem dst_kp (s : State) (d : Code) (wide : Bool) (m : Mask) (x : Nat → Nat) : s.SameKP (s.dst d wide m x) := by
  unfold State.dst
  simp only
  split
  · exact ⟨by simp only; rw [forLanes_setV_frame], by simp only; rw [forLanes_setV_frame]⟩
  · split <;> exact ⟨rfl, rfl⟩

theorem dst_v (s : State) (d : Code) (wide : Bool) (m : Mask) (x : Nat → Nat) : s.WritesV (s.dst d wide m x) d wide m x := by
  intro r l hl
  unfold State.dst
  simp only
  split
  · next h => simp only [h, true_and]; exact rd_forLanes_setV s.warp d.toNat r l wide m x hl
  · next h => simp only [h, false_and, if_false]; split <;> rfl

theorem dst_lat (s : State) (d : Code) (wide : Bool) (m : Mask) (x : Nat → Nat) : s.WritesLat (s.dst d wide m x) d m x := by
  intro q l hq hl
  unfold State.dst
  simp only
  split
  · next h => rw [if_neg (by omega), forLanes_setV_frame]
  · split
    · next h =>
      simp only [rd_foldl_lat _ _ _ _ _ _ hl]
      by_cases e : d.toNat = 0xF0 + q
      · rw [if_pos e, if_pos (by omega)]
      · rw [if_neg e, if_neg (by omega)]
    · next h => rw [if_neg (by omega)]

/-- A group whose effect is one `Dst` of the active lanes; `issue_runs` gives the first
hypothesis. -/
theorem writesVector_of {s : State} {i : Instr} {ins : Ins} {d : Code} {wide : Bool} {x : Nat → Nat}
    (hx : exec i s = .next (s.finish ins (.done (s.dst d wide s.active x)))) (hs : s.grp.solo = false) :
    s.WritesVector i ins d wide x := by
  obtain ⟨t, h1, h2, hv, hk, hp, hlat⟩ := exec_regs hx hs (dst_onlyRegs s d wide s.active x)
  refine ⟨t, h1, h2, ?_, ?_, ?_⟩
  · have := dst_kp s d wide s.active x; exact ⟨hk.trans this.1, hp.trans this.2⟩
  · intro r l hl; rw [hv]; exact dst_v s d wide s.active x r l hl
  · intro q l hq hl; rw [hlat]; exact dst_lat s d wide s.active x q l hq hl

end Sys2Proof.Machine
end

