-- ==== Sys2Proof/Laws/State.lean ====
section
/-! SUPPORT. What each named update of the state leaves alone: one lemma for each field. -/

namespace Sys2Proof.Machine

/-! `hold`. -/

@[simp] theorem State.hold_warp (s : State) : s.hold.warp = s.warp := rfl
@[simp] theorem State.hold_warps (s : State) : s.hold.warps = s.warps := rfl
@[simp] theorem State.hold_grp (s : State) : s.hold.grp = s.grp := rfl
@[simp] theorem State.hold_wgs (s : State) : s.hold.wgs = s.wgs := rfl
@[simp] theorem State.hold_launches (s : State) : s.hold.launches = s.launches := rfl
@[simp] theorem State.hold_ctxs (s : State) : s.hold.ctxs = s.ctxs := rfl
@[simp] theorem State.hold_mem (s : State) : s.hold.mem = s.mem := rfl
@[simp] theorem State.hold_sram (s : State) : s.hold.sram = s.sram := rfl
@[simp] theorem State.hold_copies (s : State) : s.hold.copies = s.copies := rfl
@[simp] theorem State.hold_owners (s : State) : s.hold.owners = s.owners := rfl
@[simp] theorem State.hold_comm (s : State) : s.hold.comm = s.comm := rfl
@[simp] theorem State.hold_tlb (s : State) : s.hold.tlb = s.tlb := rfl
@[simp] theorem State.hold_ops (s : State) : s.hold.ops = s.ops := rfl
@[simp] theorem State.hold_calls (s : State) : s.hold.calls = s.calls := rfl
@[simp] theorem State.hold_treg (s : State) : s.hold.treg = s.treg := rfl
@[simp] theorem State.hold_regions (s : State) : s.hold.regions = s.regions := rfl
@[simp] theorem State.hold_fills (s : State) : s.hold.fills = s.fills := rfl
@[simp] theorem State.hold_agenda (s : State) : s.hold.agenda = s.agenda := rfl

/-! `countGroup`. -/

@[simp] theorem State.countGroup_warp (s : State) : s.countGroup.warp = s.warp := rfl
@[simp] theorem State.countGroup_warps (s : State) : s.countGroup.warps = s.warps := rfl
@[simp] theorem State.countGroup_grp (s : State) : s.countGroup.grp = s.grp := rfl
@[simp] theorem State.countGroup_launches (s : State) : s.countGroup.launches = s.launches := rfl
@[simp] theorem State.countGroup_ctxs (s : State) : s.countGroup.ctxs = s.ctxs := rfl
@[simp] theorem State.countGroup_mem (s : State) : s.countGroup.mem = s.mem := rfl
@[simp] theorem State.countGroup_sram (s : State) : s.countGroup.sram = s.sram := rfl
@[simp] theorem State.countGroup_copies (s : State) : s.countGroup.copies = s.copies := rfl
@[simp] theorem State.countGroup_owners (s : State) : s.countGroup.owners = s.owners := rfl
@[simp] theorem State.countGroup_comm (s : State) : s.countGroup.comm = s.comm := rfl
@[simp] theorem State.countGroup_tlb (s : State) : s.countGroup.tlb = s.tlb := rfl
@[simp] theorem State.countGroup_ops (s : State) : s.countGroup.ops = s.ops := rfl
@[simp] theorem State.countGroup_calls (s : State) : s.countGroup.calls = s.calls := rfl
@[simp] theorem State.countGroup_treg (s : State) : s.countGroup.treg = s.treg := rfl
@[simp] theorem State.countGroup_regions (s : State) : s.countGroup.regions = s.regions := rfl
@[simp] theorem State.countGroup_fills (s : State) : s.countGroup.fills = s.fills := rfl
@[simp] theorem State.countGroup_agenda (s : State) : s.countGroup.agenda = s.agenda := rfl

/-! `advance`. -/

@[simp] theorem State.advance_warps (s : State) : s.advance.warps = s.warps := by unfold State.advance; split <;> rfl
@[simp] theorem State.advance_grp (s : State) : s.advance.grp = s.grp := by unfold State.advance; split <;> rfl
@[simp] theorem State.advance_wgs (s : State) : s.advance.wgs = s.wgs := by unfold State.advance; split <;> rfl
@[simp] theorem State.advance_launches (s : State) : s.advance.launches = s.launches := by unfold State.advance; split <;> rfl
@[simp] theorem State.advance_ctxs (s : State) : s.advance.ctxs = s.ctxs := by unfold State.advance; split <;> rfl
@[simp] theorem State.advance_mem (s : State) : s.advance.mem = s.mem := by unfold State.advance; split <;> rfl
@[simp] theorem State.advance_sram (s : State) : s.advance.sram = s.sram := by unfold State.advance; split <;> rfl
@[simp] theorem State.advance_copies (s : State) : s.advance.copies = s.copies := by unfold State.advance; split <;> rfl
@[simp] theorem State.advance_owners (s : State) : s.advance.owners = s.owners := by unfold State.advance; split <;> rfl
@[simp] theorem State.advance_comm (s : State) : s.advance.comm = s.comm := by unfold State.advance; split <;> rfl
@[simp] theorem State.advance_tlb (s : State) : s.advance.tlb = s.tlb := by unfold State.advance; split <;> rfl
@[simp] theorem State.advance_ops (s : State) : s.advance.ops = s.ops := by unfold State.advance; split <;> rfl
@[simp] theorem State.advance_calls (s : State) : s.advance.calls = s.calls := by unfold State.advance; split <;> rfl
@[simp] theorem State.advance_treg (s : State) : s.advance.treg = s.treg := by unfold State.advance; split <;> rfl
@[simp] theorem State.advance_regions (s : State) : s.advance.regions = s.regions := by unfold State.advance; split <;> rfl
@[simp] theorem State.advance_fills (s : State) : s.advance.fills = s.fills := by unfold State.advance; split <;> rfl
@[simp] theorem State.advance_agenda (s : State) : s.advance.agenda = s.agenda := by unfold State.advance; split <;> rfl

/-! `jumpTo`. -/

@[simp] theorem State.jumpTo_warps (s : State) (pc : DWord) : (s.jumpTo pc).warps = s.warps := by unfold State.jumpTo; split <;> rfl
@[simp] theorem State.jumpTo_grp (s : State) (pc : DWord) : (s.jumpTo pc).grp = s.grp := by unfold State.jumpTo; split <;> rfl
@[simp] theorem State.jumpTo_wgs (s : State) (pc : DWord) : (s.jumpTo pc).wgs = s.wgs := by unfold State.jumpTo; split <;> rfl
@[simp] theorem State.jumpTo_launches (s : State) (pc : DWord) : (s.jumpTo pc).launches = s.launches := by unfold State.jumpTo; split <;> rfl
@[simp] theorem State.jumpTo_ctxs (s : State) (pc : DWord) : (s.jumpTo pc).ctxs = s.ctxs := by unfold State.jumpTo; split <;> rfl
@[simp] theorem State.jumpTo_mem (s : State) (pc : DWord) : (s.jumpTo pc).mem = s.mem := by unfold State.jumpTo; split <;> rfl
@[simp] theorem State.jumpTo_sram (s : State) (pc : DWord) : (s.jumpTo pc).sram = s.sram := by unfold State.jumpTo; split <;> rfl
@[simp] theorem State.jumpTo_copies (s : State) (pc : DWord) : (s.jumpTo pc).copies = s.copies := by unfold State.jumpTo; split <;> rfl
@[simp] theorem State.jumpTo_owners (s : State) (pc : DWord) : (s.jumpTo pc).owners = s.owners := by unfold State.jumpTo; split <;> rfl
@[simp] theorem State.jumpTo_comm (s : State) (pc : DWord) : (s.jumpTo pc).comm = s.comm := by unfold State.jumpTo; split <;> rfl
@[simp] theorem State.jumpTo_tlb (s : State) (pc : DWord) : (s.jumpTo pc).tlb = s.tlb := by unfold State.jumpTo; split <;> rfl
@[simp] theorem State.jumpTo_ops (s : State) (pc : DWord) : (s.jumpTo pc).ops = s.ops := by unfold State.jumpTo; split <;> rfl
@[simp] theorem State.jumpTo_calls (s : State) (pc : DWord) : (s.jumpTo pc).calls = s.calls := by unfold State.jumpTo; split <;> rfl
@[simp] theorem State.jumpTo_treg (s : State) (pc : DWord) : (s.jumpTo pc).treg = s.treg := by unfold State.jumpTo; split <;> rfl
@[simp] theorem State.jumpTo_regions (s : State) (pc : DWord) : (s.jumpTo pc).regions = s.regions := by unfold State.jumpTo; split <;> rfl
@[simp] theorem State.jumpTo_fills (s : State) (pc : DWord) : (s.jumpTo pc).fills = s.fills := by unfold State.jumpTo; split <;> rfl
@[simp] theorem State.jumpTo_agenda (s : State) (pc : DWord) : (s.jumpTo pc).agenda = s.agenda := by unfold State.jumpTo; split <;> rfl

/-! `waitFor`. -/

@[simp] theorem State.waitFor_warps (s : State) (w : Wait) (m : Mask) : (s.waitFor w m).warps = s.warps := by unfold State.waitFor; split <;> rfl
@[simp] theorem State.waitFor_grp (s : State) (w : Wait) (m : Mask) : (s.waitFor w m).grp = s.grp := by unfold State.waitFor; split <;> rfl
@[simp] theorem State.waitFor_wgs (s : State) (w : Wait) (m : Mask) : (s.waitFor w m).wgs = s.wgs := by unfold State.waitFor; split <;> rfl
@[simp] theorem State.waitFor_launches (s : State) (w : Wait) (m : Mask) : (s.waitFor w m).launches = s.launches := by unfold State.waitFor; split <;> rfl
@[simp] theorem State.waitFor_ctxs (s : State) (w : Wait) (m : Mask) : (s.waitFor w m).ctxs = s.ctxs := by unfold State.waitFor; split <;> rfl
@[simp] theorem State.waitFor_mem (s : State) (w : Wait) (m : Mask) : (s.waitFor w m).mem = s.mem := by unfold State.waitFor; split <;> rfl
@[simp] theorem State.waitFor_sram (s : State) (w : Wait) (m : Mask) : (s.waitFor w m).sram = s.sram := by unfold State.waitFor; split <;> rfl
@[simp] theorem State.waitFor_copies (s : State) (w : Wait) (m : Mask) : (s.waitFor w m).copies = s.copies := by unfold State.waitFor; split <;> rfl
@[simp] theorem State.waitFor_owners (s : State) (w : Wait) (m : Mask) : (s.waitFor w m).owners = s.owners := by unfold State.waitFor; split <;> rfl
@[simp] theorem State.waitFor_comm (s : State) (w : Wait) (m : Mask) : (s.waitFor w m).comm = s.comm := by unfold State.waitFor; split <;> rfl
@[simp] theorem State.waitFor_tlb (s : State) (w : Wait) (m : Mask) : (s.waitFor w m).tlb = s.tlb := by unfold State.waitFor; split <;> rfl
@[simp] theorem State.waitFor_ops (s : State) (w : Wait) (m : Mask) : (s.waitFor w m).ops = s.ops := by unfold State.waitFor; split <;> rfl
@[simp] theorem State.waitFor_calls (s : State) (w : Wait) (m : Mask) : (s.waitFor w m).calls = s.calls := by unfold State.waitFor; split <;> rfl
@[simp] theorem State.waitFor_treg (s : State) (w : Wait) (m : Mask) : (s.waitFor w m).treg = s.treg := by unfold State.waitFor; split <;> rfl
@[simp] theorem State.waitFor_regions (s : State) (w : Wait) (m : Mask) : (s.waitFor w m).regions = s.regions := by unfold State.waitFor; split <;> rfl
@[simp] theorem State.waitFor_fills (s : State) (w : Wait) (m : Mask) : (s.waitFor w m).fills = s.fills := by unfold State.waitFor; split <;> rfl
@[simp] theorem State.waitFor_agenda (s : State) (w : Wait) (m : Mask) : (s.waitFor w m).agenda = s.agenda := by unfold State.waitFor; split <;> rfl

/-! `stopFrag`. -/

@[simp] theorem State.stopFrag_warps (s : State) (st : FragState) (pc : DWord) : (s.stopFrag st pc).warps = s.warps := rfl
@[simp] theorem State.stopFrag_grp (s : State) (st : FragState) (pc : DWord) : (s.stopFrag st pc).grp = s.grp := rfl
@[simp] theorem State.stopFrag_wgs (s : State) (st : FragState) (pc : DWord) : (s.stopFrag st pc).wgs = s.wgs := rfl
@[simp] theorem State.stopFrag_launches (s : State) (st : FragState) (pc : DWord) : (s.stopFrag st pc).launches = s.launches := rfl
@[simp] theorem State.stopFrag_ctxs (s : State) (st : FragState) (pc : DWord) : (s.stopFrag st pc).ctxs = s.ctxs := rfl
@[simp] theorem State.stopFrag_mem (s : State) (st : FragState) (pc : DWord) : (s.stopFrag st pc).mem = s.mem := rfl
@[simp] theorem State.stopFrag_sram (s : State) (st : FragState) (pc : DWord) : (s.stopFrag st pc).sram = s.sram := rfl
@[simp] theorem State.stopFrag_copies (s : State) (st : FragState) (pc : DWord) : (s.stopFrag st pc).copies = s.copies := rfl
@[simp] theorem State.stopFrag_owners (s : State) (st : FragState) (pc : DWord) : (s.stopFrag st pc).owners = s.owners := rfl
@[simp] theorem State.stopFrag_comm (s : State) (st : FragState) (pc : DWord) : (s.stopFrag st pc).comm = s.comm := rfl
@[simp] theorem State.stopFrag_tlb (s : State) (st : FragState) (pc : DWord) : (s.stopFrag st pc).tlb = s.tlb := rfl
@[simp] theorem State.stopFrag_ops (s : State) (st : FragState) (pc : DWord) : (s.stopFrag st pc).ops = s.ops := rfl
@[simp] theorem State.stopFrag_calls (s : State) (st : FragState) (pc : DWord) : (s.stopFrag st pc).calls = s.calls := rfl
@[simp] theorem State.stopFrag_treg (s : State) (st : FragState) (pc : DWord) : (s.stopFrag st pc).treg = s.treg := rfl
@[simp] theorem State.stopFrag_regions (s : State) (st : FragState) (pc : DWord) : (s.stopFrag st pc).regions = s.regions := rfl
@[simp] theorem State.stopFrag_fills (s : State) (st : FragState) (pc : DWord) : (s.stopFrag st pc).fills = s.fills := rfl
@[simp] theorem State.stopFrag_agenda (s : State) (st : FragState) (pc : DWord) : (s.stopFrag st pc).agenda = s.agenda := rfl

/-! `enterSolo`. -/

@[simp] theorem State.enterSolo_warps (s : State) (t : TrapInfo) : (s.enterSolo t).warps = s.warps := rfl
@[simp] theorem State.enterSolo_grp (s : State) (t : TrapInfo) : (s.enterSolo t).grp = s.grp := rfl
@[simp] theorem State.enterSolo_wgs (s : State) (t : TrapInfo) : (s.enterSolo t).wgs = s.wgs := rfl
@[simp] theorem State.enterSolo_launches (s : State) (t : TrapInfo) : (s.enterSolo t).launches = s.launches := rfl
@[simp] theorem State.enterSolo_ctxs (s : State) (t : TrapInfo) : (s.enterSolo t).ctxs = s.ctxs := rfl
@[simp] theorem State.enterSolo_mem (s : State) (t : TrapInfo) : (s.enterSolo t).mem = s.mem := rfl
@[simp] theorem State.enterSolo_sram (s : State) (t : TrapInfo) : (s.enterSolo t).sram = s.sram := rfl
@[simp] theorem State.enterSolo_copies (s : State) (t : TrapInfo) : (s.enterSolo t).copies = s.copies := rfl
@[simp] theorem State.enterSolo_owners (s : State) (t : TrapInfo) : (s.enterSolo t).owners = s.owners := rfl
@[simp] theorem State.enterSolo_comm (s : State) (t : TrapInfo) : (s.enterSolo t).comm = s.comm := rfl
@[simp] theorem State.enterSolo_tlb (s : State) (t : TrapInfo) : (s.enterSolo t).tlb = s.tlb := rfl
@[simp] theorem State.enterSolo_ops (s : State) (t : TrapInfo) : (s.enterSolo t).ops = s.ops := rfl
@[simp] theorem State.enterSolo_calls (s : State) (t : TrapInfo) : (s.enterSolo t).calls = s.calls := rfl
@[simp] theorem State.enterSolo_treg (s : State) (t : TrapInfo) : (s.enterSolo t).treg = s.treg := rfl
@[simp] theorem State.enterSolo_regions (s : State) (t : TrapInfo) : (s.enterSolo t).regions = s.regions := rfl
@[simp] theorem State.enterSolo_fills (s : State) (t : TrapInfo) : (s.enterSolo t).fills = s.fills := rfl
@[simp] theorem State.enterSolo_agenda (s : State) (t : TrapInfo) : (s.enterSolo t).agenda = s.agenda := rfl

/-! `setP`. -/

@[simp] theorem State.setP_warps (s : State) (n : Nat) (m x : Mask) : (s.setP n m x).warps = s.warps := rfl
@[simp] theorem State.setP_grp (s : State) (n : Nat) (m x : Mask) : (s.setP n m x).grp = s.grp := rfl
@[simp] theorem State.setP_wgs (s : State) (n : Nat) (m x : Mask) : (s.setP n m x).wgs = s.wgs := rfl
@[simp] theorem State.setP_launches (s : State) (n : Nat) (m x : Mask) : (s.setP n m x).launches = s.launches := rfl
@[simp] theorem State.setP_ctxs (s : State) (n : Nat) (m x : Mask) : (s.setP n m x).ctxs = s.ctxs := rfl
@[simp] theorem State.setP_mem (s : State) (n : Nat) (m x : Mask) : (s.setP n m x).mem = s.mem := rfl
@[simp] theorem State.setP_sram (s : State) (n : Nat) (m x : Mask) : (s.setP n m x).sram = s.sram := rfl
@[simp] theorem State.setP_copies (s : State) (n : Nat) (m x : Mask) : (s.setP n m x).copies = s.copies := rfl
@[simp] theorem State.setP_owners (s : State) (n : Nat) (m x : Mask) : (s.setP n m x).owners = s.owners := rfl
@[simp] theorem State.setP_comm (s : State) (n : Nat) (m x : Mask) : (s.setP n m x).comm = s.comm := rfl
@[simp] theorem State.setP_tlb (s : State) (n : Nat) (m x : Mask) : (s.setP n m x).tlb = s.tlb := rfl
@[simp] theorem State.setP_ops (s : State) (n : Nat) (m x : Mask) : (s.setP n m x).ops = s.ops := rfl
@[simp] theorem State.setP_calls (s : State) (n : Nat) (m x : Mask) : (s.setP n m x).calls = s.calls := rfl
@[simp] theorem State.setP_treg (s : State) (n : Nat) (m x : Mask) : (s.setP n m x).treg = s.treg := rfl
@[simp] theorem State.setP_regions (s : State) (n : Nat) (m x : Mask) : (s.setP n m x).regions = s.regions := rfl
@[simp] theorem State.setP_fills (s : State) (n : Nat) (m x : Mask) : (s.setP n m x).fills = s.fills := rfl
@[simp] theorem State.setP_agenda (s : State) (n : Nat) (m x : Mask) : (s.setP n m x).agenda = s.agenda := rfl

/-! `setK`. -/

@[simp] theorem State.setK_warps (s : State) (c : Code) (x : DWord) : (s.setK c x).warps = s.warps := by unfold State.setK; dsimp only; split <;> (try split) <;> rfl
@[simp] theorem State.setK_grp (s : State) (c : Code) (x : DWord) : (s.setK c x).grp = s.grp := by unfold State.setK; dsimp only; split <;> (try split) <;> rfl
@[simp] theorem State.setK_wgs (s : State) (c : Code) (x : DWord) : (s.setK c x).wgs = s.wgs := by unfold State.setK; dsimp only; split <;> (try split) <;> rfl
@[simp] theorem State.setK_launches (s : State) (c : Code) (x : DWord) : (s.setK c x).launches = s.launches := by unfold State.setK; dsimp only; split <;> (try split) <;> rfl
@[simp] theorem State.setK_ctxs (s : State) (c : Code) (x : DWord) : (s.setK c x).ctxs = s.ctxs := by unfold State.setK; dsimp only; split <;> (try split) <;> rfl
@[simp] theorem State.setK_mem (s : State) (c : Code) (x : DWord) : (s.setK c x).mem = s.mem := by unfold State.setK; dsimp only; split <;> (try split) <;> rfl
@[simp] theorem State.setK_sram (s : State) (c : Code) (x : DWord) : (s.setK c x).sram = s.sram := by unfold State.setK; dsimp only; split <;> (try split) <;> rfl
@[simp] theorem State.setK_copies (s : State) (c : Code) (x : DWord) : (s.setK c x).copies = s.copies := by unfold State.setK; dsimp only; split <;> (try split) <;> rfl
@[simp] theorem State.setK_owners (s : State) (c : Code) (x : DWord) : (s.setK c x).owners = s.owners := by unfold State.setK; dsimp only; split <;> (try split) <;> rfl
@[simp] theorem State.setK_comm (s : State) (c : Code) (x : DWord) : (s.setK c x).comm = s.comm := by unfold State.setK; dsimp only; split <;> (try split) <;> rfl
@[simp] theorem State.setK_tlb (s : State) (c : Code) (x : DWord) : (s.setK c x).tlb = s.tlb := by unfold State.setK; dsimp only; split <;> (try split) <;> rfl
@[simp] theorem State.setK_ops (s : State) (c : Code) (x : DWord) : (s.setK c x).ops = s.ops := by unfold State.setK; dsimp only; split <;> (try split) <;> rfl
@[simp] theorem State.setK_calls (s : State) (c : Code) (x : DWord) : (s.setK c x).calls = s.calls := by unfold State.setK; dsimp only; split <;> (try split) <;> rfl
@[simp] theorem State.setK_treg (s : State) (c : Code) (x : DWord) : (s.setK c x).treg = s.treg := by unfold State.setK; dsimp only; split <;> (try split) <;> rfl
@[simp] theorem State.setK_regions (s : State) (c : Code) (x : DWord) : (s.setK c x).regions = s.regions := by unfold State.setK; dsimp only; split <;> (try split) <;> rfl
@[simp] theorem State.setK_fills (s : State) (c : Code) (x : DWord) : (s.setK c x).fills = s.fills := by unfold State.setK; dsimp only; split <;> (try split) <;> rfl
@[simp] theorem State.setK_agenda (s : State) (c : Code) (x : DWord) : (s.setK c x).agenda = s.agenda := by unfold State.setK; dsimp only; split <;> (try split) <;> rfl

/-! `onWg`. -/

@[simp] theorem State.onWg_warp (s : State) (lid idx : Nat) (f : Wg → Wg) : (s.onWg lid idx f).warp = s.warp := rfl
@[simp] theorem State.onWg_warps (s : State) (lid idx : Nat) (f : Wg → Wg) : (s.onWg lid idx f).warps = s.warps := rfl
@[simp] theorem State.onWg_grp (s : State) (lid idx : Nat) (f : Wg → Wg) : (s.onWg lid idx f).grp = s.grp := rfl
@[simp] theorem State.onWg_launches (s : State) (lid idx : Nat) (f : Wg → Wg) : (s.onWg lid idx f).launches = s.launches := rfl
@[simp] theorem State.onWg_ctxs (s : State) (lid idx : Nat) (f : Wg → Wg) : (s.onWg lid idx f).ctxs = s.ctxs := rfl
@[simp] theorem State.onWg_mem (s : State) (lid idx : Nat) (f : Wg → Wg) : (s.onWg lid idx f).mem = s.mem := rfl
@[simp] theorem State.onWg_sram (s : State) (lid idx : Nat) (f : Wg → Wg) : (s.onWg lid idx f).sram = s.sram := rfl
@[simp] theorem State.onWg_copies (s : State) (lid idx : Nat) (f : Wg → Wg) : (s.onWg lid idx f).copies = s.copies := rfl
@[simp] theorem State.onWg_owners (s : State) (lid idx : Nat) (f : Wg → Wg) : (s.onWg lid idx f).owners = s.owners := rfl
@[simp] theorem State.onWg_comm (s : State) (lid idx : Nat) (f : Wg → Wg) : (s.onWg lid idx f).comm = s.comm := rfl
@[simp] theorem State.onWg_tlb (s : State) (lid idx : Nat) (f : Wg → Wg) : (s.onWg lid idx f).tlb = s.tlb := rfl
@[simp] theorem State.onWg_ops (s : State) (lid idx : Nat) (f : Wg → Wg) : (s.onWg lid idx f).ops = s.ops := rfl
@[simp] theorem State.onWg_calls (s : State) (lid idx : Nat) (f : Wg → Wg) : (s.onWg lid idx f).calls = s.calls := rfl
@[simp] theorem State.onWg_treg (s : State) (lid idx : Nat) (f : Wg → Wg) : (s.onWg lid idx f).treg = s.treg := rfl
@[simp] theorem State.onWg_regions (s : State) (lid idx : Nat) (f : Wg → Wg) : (s.onWg lid idx f).regions = s.regions := rfl
@[simp] theorem State.onWg_fills (s : State) (lid idx : Nat) (f : Wg → Wg) : (s.onWg lid idx f).fills = s.fills := rfl
@[simp] theorem State.onWg_agenda (s : State) (lid idx : Nat) (f : Wg → Wg) : (s.onWg lid idx f).agenda = s.agenda := rfl

/-! `onLaunch`. -/

@[simp] theorem State.onLaunch_warp (s : State) (lid : Nat) (f : Launch → Launch) : (s.onLaunch lid f).warp = s.warp := rfl
@[simp] theorem State.onLaunch_warps (s : State) (lid : Nat) (f : Launch → Launch) : (s.onLaunch lid f).warps = s.warps := rfl
@[simp] theorem State.onLaunch_grp (s : State) (lid : Nat) (f : Launch → Launch) : (s.onLaunch lid f).grp = s.grp := rfl
@[simp] theorem State.onLaunch_wgs (s : State) (lid : Nat) (f : Launch → Launch) : (s.onLaunch lid f).wgs = s.wgs := rfl
@[simp] theorem State.onLaunch_ctxs (s : State) (lid : Nat) (f : Launch → Launch) : (s.onLaunch lid f).ctxs = s.ctxs := rfl
@[simp] theorem State.onLaunch_mem (s : State) (lid : Nat) (f : Launch → Launch) : (s.onLaunch lid f).mem = s.mem := rfl
@[simp] theorem State.onLaunch_sram (s : State) (lid : Nat) (f : Launch → Launch) : (s.onLaunch lid f).sram = s.sram := rfl
@[simp] theorem State.onLaunch_copies (s : State) (lid : Nat) (f : Launch → Launch) : (s.onLaunch lid f).copies = s.copies := rfl
@[simp] theorem State.onLaunch_owners (s : State) (lid : Nat) (f : Launch → Launch) : (s.onLaunch lid f).owners = s.owners := rfl
@[simp] theorem State.onLaunch_comm (s : State) (lid : Nat) (f : Launch → Launch) : (s.onLaunch lid f).comm = s.comm := rfl
@[simp] theorem State.onLaunch_tlb (s : State) (lid : Nat) (f : Launch → Launch) : (s.onLaunch lid f).tlb = s.tlb := rfl
@[simp] theorem State.onLaunch_ops (s : State) (lid : Nat) (f : Launch → Launch) : (s.onLaunch lid f).ops = s.ops := rfl
@[simp] theorem State.onLaunch_calls (s : State) (lid : Nat) (f : Launch → Launch) : (s.onLaunch lid f).calls = s.calls := rfl
@[simp] theorem State.onLaunch_treg (s : State) (lid : Nat) (f : Launch → Launch) : (s.onLaunch lid f).treg = s.treg := rfl
@[simp] theorem State.onLaunch_regions (s : State) (lid : Nat) (f : Launch → Launch) : (s.onLaunch lid f).regions = s.regions := rfl
@[simp] theorem State.onLaunch_fills (s : State) (lid : Nat) (f : Launch → Launch) : (s.onLaunch lid f).fills = s.fills := rfl
@[simp] theorem State.onLaunch_agenda (s : State) (lid : Nat) (f : Launch → Launch) : (s.onLaunch lid f).agenda = s.agenda := rfl

/-! `onOp`. -/

@[simp] theorem State.onOp_warp (s : State) (id : Nat) (f : Op → Op) : (s.onOp id f).warp = s.warp := rfl
@[simp] theorem State.onOp_warps (s : State) (id : Nat) (f : Op → Op) : (s.onOp id f).warps = s.warps := rfl
@[simp] theorem State.onOp_grp (s : State) (id : Nat) (f : Op → Op) : (s.onOp id f).grp = s.grp := rfl
@[simp] theorem State.onOp_wgs (s : State) (id : Nat) (f : Op → Op) : (s.onOp id f).wgs = s.wgs := rfl
@[simp] theorem State.onOp_launches (s : State) (id : Nat) (f : Op → Op) : (s.onOp id f).launches = s.launches := rfl
@[simp] theorem State.onOp_ctxs (s : State) (id : Nat) (f : Op → Op) : (s.onOp id f).ctxs = s.ctxs := rfl
@[simp] theorem State.onOp_mem (s : State) (id : Nat) (f : Op → Op) : (s.onOp id f).mem = s.mem := rfl
@[simp] theorem State.onOp_sram (s : State) (id : Nat) (f : Op → Op) : (s.onOp id f).sram = s.sram := rfl
@[simp] theorem State.onOp_copies (s : State) (id : Nat) (f : Op → Op) : (s.onOp id f).copies = s.copies := rfl
@[simp] theorem State.onOp_owners (s : State) (id : Nat) (f : Op → Op) : (s.onOp id f).owners = s.owners := rfl
@[simp] theorem State.onOp_comm (s : State) (id : Nat) (f : Op → Op) : (s.onOp id f).comm = s.comm := rfl
@[simp] theorem State.onOp_tlb (s : State) (id : Nat) (f : Op → Op) : (s.onOp id f).tlb = s.tlb := rfl
@[simp] theorem State.onOp_calls (s : State) (id : Nat) (f : Op → Op) : (s.onOp id f).calls = s.calls := rfl
@[simp] theorem State.onOp_treg (s : State) (id : Nat) (f : Op → Op) : (s.onOp id f).treg = s.treg := rfl
@[simp] theorem State.onOp_regions (s : State) (id : Nat) (f : Op → Op) : (s.onOp id f).regions = s.regions := rfl
@[simp] theorem State.onOp_fills (s : State) (id : Nat) (f : Op → Op) : (s.onOp id f).fills = s.fills := rfl
@[simp] theorem State.onOp_agenda (s : State) (id : Nat) (f : Op → Op) : (s.onOp id f).agenda = s.agenda := rfl

/-! `onWarps`. -/

@[simp] theorem State.onWarps_grp (s : State) (p : Warp → Bool) (f : Warp → Warp) : (s.onWarps p f).grp = s.grp := rfl
@[simp] theorem State.onWarps_wgs (s : State) (p : Warp → Bool) (f : Warp → Warp) : (s.onWarps p f).wgs = s.wgs := rfl
@[simp] theorem State.onWarps_launches (s : State) (p : Warp → Bool) (f : Warp → Warp) : (s.onWarps p f).launches = s.launches := rfl
@[simp] theorem State.onWarps_ctxs (s : State) (p : Warp → Bool) (f : Warp → Warp) : (s.onWarps p f).ctxs = s.ctxs := rfl
@[simp] theorem State.onWarps_mem (s : State) (p : Warp → Bool) (f : Warp → Warp) : (s.onWarps p f).mem = s.mem := rfl
@[simp] theorem State.onWarps_sram (s : State) (p : Warp → Bool) (f : Warp → Warp) : (s.onWarps p f).sram = s.sram := rfl
@[simp] theorem State.onWarps_copies (s : State) (p : Warp → Bool) (f : Warp → Warp) : (s.onWarps p f).copies = s.copies := rfl
@[simp] theorem State.onWarps_owners (s : State) (p : Warp → Bool) (f : Warp → Warp) : (s.onWarps p f).owners = s.owners := rfl
@[simp] theorem State.onWarps_comm (s : State) (p : Warp → Bool) (f : Warp → Warp) : (s.onWarps p f).comm = s.comm := rfl
@[simp] theorem State.onWarps_tlb (s : State) (p : Warp → Bool) (f : Warp → Warp) : (s.onWarps p f).tlb = s.tlb := rfl
@[simp] theorem State.onWarps_ops (s : State) (p : Warp → Bool) (f : Warp → Warp) : (s.onWarps p f).ops = s.ops := rfl
@[simp] theorem State.onWarps_calls (s : State) (p : Warp → Bool) (f : Warp → Warp) : (s.onWarps p f).calls = s.calls := rfl
@[simp] theorem State.onWarps_treg (s : State) (p : Warp → Bool) (f : Warp → Warp) : (s.onWarps p f).treg = s.treg := rfl
@[simp] theorem State.onWarps_regions (s : State) (p : Warp → Bool) (f : Warp → Warp) : (s.onWarps p f).regions = s.regions := rfl
@[simp] theorem State.onWarps_fills (s : State) (p : Warp → Bool) (f : Warp → Warp) : (s.onWarps p f).fills = s.fills := rfl
@[simp] theorem State.onWarps_agenda (s : State) (p : Warp → Bool) (f : Warp → Warp) : (s.onWarps p f).agenda = s.agenda := rfl

/-! `onWarp`. -/

@[simp] theorem State.onWarp_grp (s : State) (uid : Nat) (f : Warp → Warp) : (s.onWarp uid f).grp = s.grp := by unfold State.onWarp; split <;> rfl
@[simp] theorem State.onWarp_wgs (s : State) (uid : Nat) (f : Warp → Warp) : (s.onWarp uid f).wgs = s.wgs := by unfold State.onWarp; split <;> rfl
@[simp] theorem State.onWarp_launches (s : State) (uid : Nat) (f : Warp → Warp) : (s.onWarp uid f).launches = s.launches := by unfold State.onWarp; split <;> rfl
@[simp] theorem State.onWarp_ctxs (s : State) (uid : Nat) (f : Warp → Warp) : (s.onWarp uid f).ctxs = s.ctxs := by unfold State.onWarp; split <;> rfl
@[simp] theorem State.onWarp_mem (s : State) (uid : Nat) (f : Warp → Warp) : (s.onWarp uid f).mem = s.mem := by unfold State.onWarp; split <;> rfl
@[simp] theorem State.onWarp_sram (s : State) (uid : Nat) (f : Warp → Warp) : (s.onWarp uid f).sram = s.sram := by unfold State.onWarp; split <;> rfl
@[simp] theorem State.onWarp_copies (s : State) (uid : Nat) (f : Warp → Warp) : (s.onWarp uid f).copies = s.copies := by unfold State.onWarp; split <;> rfl
@[simp] theorem State.onWarp_owners (s : State) (uid : Nat) (f : Warp → Warp) : (s.onWarp uid f).owners = s.owners := by unfold State.onWarp; split <;> rfl
@[simp] theorem State.onWarp_comm (s : State) (uid : Nat) (f : Warp → Warp) : (s.onWarp uid f).comm = s.comm := by unfold State.onWarp; split <;> rfl
@[simp] theorem State.onWarp_tlb (s : State) (uid : Nat) (f : Warp → Warp) : (s.onWarp uid f).tlb = s.tlb := by unfold State.onWarp; split <;> rfl
@[simp] theorem State.onWarp_ops (s : State) (uid : Nat) (f : Warp → Warp) : (s.onWarp uid f).ops = s.ops := by unfold State.onWarp; split <;> rfl
@[simp] theorem State.onWarp_calls (s : State) (uid : Nat) (f : Warp → Warp) : (s.onWarp uid f).calls = s.calls := by unfold State.onWarp; split <;> rfl
@[simp] theorem State.onWarp_treg (s : State) (uid : Nat) (f : Warp → Warp) : (s.onWarp uid f).treg = s.treg := by unfold State.onWarp; split <;> rfl
@[simp] theorem State.onWarp_regions (s : State) (uid : Nat) (f : Warp → Warp) : (s.onWarp uid f).regions = s.regions := by unfold State.onWarp; split <;> rfl
@[simp] theorem State.onWarp_fills (s : State) (uid : Nat) (f : Warp → Warp) : (s.onWarp uid f).fills = s.fills := by unfold State.onWarp; split <;> rfl
@[simp] theorem State.onWarp_agenda (s : State) (uid : Nat) (f : Warp → Warp) : (s.onWarp uid f).agenda = s.agenda := by unfold State.onWarp; split <;> rfl

/-! `newOp`. -/

@[simp] theorem State.newOp_warp (s : State) (kind : OpKind) (lanes : List LaneReq) (data : SMap Word) : (s.newOp kind lanes data).warp = s.warp := rfl
@[simp] theorem State.newOp_warps (s : State) (kind : OpKind) (lanes : List LaneReq) (data : SMap Word) : (s.newOp kind lanes data).warps = s.warps := rfl
@[simp] theorem State.newOp_grp (s : State) (kind : OpKind) (lanes : List LaneReq) (data : SMap Word) : (s.newOp kind lanes data).grp = s.grp := rfl
@[simp] theorem State.newOp_wgs (s : State) (kind : OpKind) (lanes : List LaneReq) (data : SMap Word) : (s.newOp kind lanes data).wgs = s.wgs := rfl
@[simp] theorem State.newOp_launches (s : State) (kind : OpKind) (lanes : List LaneReq) (data : SMap Word) : (s.newOp kind lanes data).launches = s.launches := rfl
@[simp] theorem State.newOp_ctxs (s : State) (kind : OpKind) (lanes : List LaneReq) (data : SMap Word) : (s.newOp kind lanes data).ctxs = s.ctxs := rfl
@[simp] theorem State.newOp_mem (s : State) (kind : OpKind) (lanes : List LaneReq) (data : SMap Word) : (s.newOp kind lanes data).mem = s.mem := rfl
@[simp] theorem State.newOp_sram (s : State) (kind : OpKind) (lanes : List LaneReq) (data : SMap Word) : (s.newOp kind lanes data).sram = s.sram := rfl
@[simp] theorem State.newOp_copies (s : State) (kind : OpKind) (lanes : List LaneReq) (data : SMap Word) : (s.newOp kind lanes data).copies = s.copies := rfl
@[simp] theorem State.newOp_owners (s : State) (kind : OpKind) (lanes : List LaneReq) (data : SMap Word) : (s.newOp kind lanes data).owners = s.owners := rfl
@[simp] theorem State.newOp_comm (s : State) (kind : OpKind) (lanes : List LaneReq) (data : SMap Word) : (s.newOp kind lanes data).comm = s.comm := rfl
@[simp] theorem State.newOp_tlb (s : State) (kind : OpKind) (lanes : List LaneReq) (data : SMap Word) : (s.newOp kind lanes data).tlb = s.tlb := rfl
@[simp] theorem State.newOp_calls (s : State) (kind : OpKind) (lanes : List LaneReq) (data : SMap Word) : (s.newOp kind lanes data).calls = s.calls := rfl
@[simp] theorem State.newOp_treg (s : State) (kind : OpKind) (lanes : List LaneReq) (data : SMap Word) : (s.newOp kind lanes data).treg = s.treg := rfl
@[simp] theorem State.newOp_regions (s : State) (kind : OpKind) (lanes : List LaneReq) (data : SMap Word) : (s.newOp kind lanes data).regions = s.regions := rfl
@[simp] theorem State.newOp_fills (s : State) (kind : OpKind) (lanes : List LaneReq) (data : SMap Word) : (s.newOp kind lanes data).fills = s.fills := rfl
@[simp] theorem State.newOp_agenda (s : State) (kind : OpKind) (lanes : List LaneReq) (data : SMap Word) : (s.newOp kind lanes data).agenda = s.agenda := rfl

/-! `openGroup`. -/

@[simp] theorem State.openGroup_warp (s : State) (g : Group) : (s.openGroup g).warp = s.warp := rfl
@[simp] theorem State.openGroup_warps (s : State) (g : Group) : (s.openGroup g).warps = s.warps := rfl
@[simp] theorem State.openGroup_wgs (s : State) (g : Group) : (s.openGroup g).wgs = s.wgs := rfl
@[simp] theorem State.openGroup_launches (s : State) (g : Group) : (s.openGroup g).launches = s.launches := rfl
@[simp] theorem State.openGroup_ctxs (s : State) (g : Group) : (s.openGroup g).ctxs = s.ctxs := rfl
@[simp] theorem State.openGroup_mem (s : State) (g : Group) : (s.openGroup g).mem = s.mem := rfl
@[simp] theorem State.openGroup_sram (s : State) (g : Group) : (s.openGroup g).sram = s.sram := rfl
@[simp] theorem State.openGroup_copies (s : State) (g : Group) : (s.openGroup g).copies = s.copies := rfl
@[simp] theorem State.openGroup_owners (s : State) (g : Group) : (s.openGroup g).owners = s.owners := rfl
@[simp] theorem State.openGroup_comm (s : State) (g : Group) : (s.openGroup g).comm = s.comm := rfl
@[simp] theorem State.openGroup_tlb (s : State) (g : Group) : (s.openGroup g).tlb = s.tlb := rfl
@[simp] theorem State.openGroup_ops (s : State) (g : Group) : (s.openGroup g).ops = s.ops := rfl
@[simp] theorem State.openGroup_calls (s : State) (g : Group) : (s.openGroup g).calls = s.calls := rfl
@[simp] theorem State.openGroup_treg (s : State) (g : Group) : (s.openGroup g).treg = s.treg := rfl
@[simp] theorem State.openGroup_regions (s : State) (g : Group) : (s.openGroup g).regions = s.regions := rfl
@[simp] theorem State.openGroup_fills (s : State) (g : Group) : (s.openGroup g).fills = s.fills := rfl
@[simp] theorem State.openGroup_agenda (s : State) (g : Group) : (s.openGroup g).agenda = s.agenda := rfl

/-! `withTreg`. -/

@[simp] theorem State.withTreg_warp (s : State) (f : Treg → Treg) : (s.withTreg f).warp = s.warp := rfl
@[simp] theorem State.withTreg_warps (s : State) (f : Treg → Treg) : (s.withTreg f).warps = s.warps := rfl
@[simp] theorem State.withTreg_grp (s : State) (f : Treg → Treg) : (s.withTreg f).grp = s.grp := rfl
@[simp] theorem State.withTreg_wgs (s : State) (f : Treg → Treg) : (s.withTreg f).wgs = s.wgs := rfl
@[simp] theorem State.withTreg_launches (s : State) (f : Treg → Treg) : (s.withTreg f).launches = s.launches := rfl
@[simp] theorem State.withTreg_ctxs (s : State) (f : Treg → Treg) : (s.withTreg f).ctxs = s.ctxs := rfl
@[simp] theorem State.withTreg_mem (s : State) (f : Treg → Treg) : (s.withTreg f).mem = s.mem := rfl
@[simp] theorem State.withTreg_sram (s : State) (f : Treg → Treg) : (s.withTreg f).sram = s.sram := rfl
@[simp] theorem State.withTreg_copies (s : State) (f : Treg → Treg) : (s.withTreg f).copies = s.copies := rfl
@[simp] theorem State.withTreg_owners (s : State) (f : Treg → Treg) : (s.withTreg f).owners = s.owners := rfl
@[simp] theorem State.withTreg_comm (s : State) (f : Treg → Treg) : (s.withTreg f).comm = s.comm := rfl
@[simp] theorem State.withTreg_tlb (s : State) (f : Treg → Treg) : (s.withTreg f).tlb = s.tlb := rfl
@[simp] theorem State.withTreg_ops (s : State) (f : Treg → Treg) : (s.withTreg f).ops = s.ops := rfl
@[simp] theorem State.withTreg_calls (s : State) (f : Treg → Treg) : (s.withTreg f).calls = s.calls := rfl
@[simp] theorem State.withTreg_regions (s : State) (f : Treg → Treg) : (s.withTreg f).regions = s.regions := rfl
@[simp] theorem State.withTreg_fills (s : State) (f : Treg → Treg) : (s.withTreg f).fills = s.fills := rfl
@[simp] theorem State.withTreg_agenda (s : State) (f : Treg → Treg) : (s.withTreg f).agenda = s.agenda := rfl

/-! `answer`. -/

@[simp] theorem State.answer_warp (s : State) (c : Call) (r : DWord) : (s.answer c r).warp = s.warp := rfl
@[simp] theorem State.answer_warps (s : State) (c : Call) (r : DWord) : (s.answer c r).warps = s.warps := rfl
@[simp] theorem State.answer_grp (s : State) (c : Call) (r : DWord) : (s.answer c r).grp = s.grp := rfl
@[simp] theorem State.answer_wgs (s : State) (c : Call) (r : DWord) : (s.answer c r).wgs = s.wgs := rfl
@[simp] theorem State.answer_launches (s : State) (c : Call) (r : DWord) : (s.answer c r).launches = s.launches := rfl
@[simp] theorem State.answer_ctxs (s : State) (c : Call) (r : DWord) : (s.answer c r).ctxs = s.ctxs := rfl
@[simp] theorem State.answer_mem (s : State) (c : Call) (r : DWord) : (s.answer c r).mem = s.mem := rfl
@[simp] theorem State.answer_sram (s : State) (c : Call) (r : DWord) : (s.answer c r).sram = s.sram := rfl
@[simp] theorem State.answer_copies (s : State) (c : Call) (r : DWord) : (s.answer c r).copies = s.copies := rfl
@[simp] theorem State.answer_owners (s : State) (c : Call) (r : DWord) : (s.answer c r).owners = s.owners := rfl
@[simp] theorem State.answer_comm (s : State) (c : Call) (r : DWord) : (s.answer c r).comm = s.comm := rfl
@[simp] theorem State.answer_tlb (s : State) (c : Call) (r : DWord) : (s.answer c r).tlb = s.tlb := rfl
@[simp] theorem State.answer_ops (s : State) (c : Call) (r : DWord) : (s.answer c r).ops = s.ops := rfl
@[simp] theorem State.answer_treg (s : State) (c : Call) (r : DWord) : (s.answer c r).treg = s.treg := rfl
@[simp] theorem State.answer_regions (s : State) (c : Call) (r : DWord) : (s.answer c r).regions = s.regions := rfl
@[simp] theorem State.answer_fills (s : State) (c : Call) (r : DWord) : (s.answer c r).fills = s.fills := rfl
@[simp] theorem State.answer_agenda (s : State) (c : Call) (r : DWord) : (s.answer c r).agenda = s.agenda := rfl

/-! `shootRange`. -/

@[simp] theorem State.shootRange_warp (s : State) (asid : BitVec 16) (lo hi : Nat) : (s.shootRange asid lo hi).warp = s.warp := rfl
@[simp] theorem State.shootRange_warps (s : State) (asid : BitVec 16) (lo hi : Nat) : (s.shootRange asid lo hi).warps = s.warps := rfl
@[simp] theorem State.shootRange_grp (s : State) (asid : BitVec 16) (lo hi : Nat) : (s.shootRange asid lo hi).grp = s.grp := rfl
@[simp] theorem State.shootRange_wgs (s : State) (asid : BitVec 16) (lo hi : Nat) : (s.shootRange asid lo hi).wgs = s.wgs := rfl
@[simp] theorem State.shootRange_launches (s : State) (asid : BitVec 16) (lo hi : Nat) : (s.shootRange asid lo hi).launches = s.launches := rfl
@[simp] theorem State.shootRange_ctxs (s : State) (asid : BitVec 16) (lo hi : Nat) : (s.shootRange asid lo hi).ctxs = s.ctxs := rfl
@[simp] theorem State.shootRange_mem (s : State) (asid : BitVec 16) (lo hi : Nat) : (s.shootRange asid lo hi).mem = s.mem := rfl
@[simp] theorem State.shootRange_sram (s : State) (asid : BitVec 16) (lo hi : Nat) : (s.shootRange asid lo hi).sram = s.sram := rfl
@[simp] theorem State.shootRange_owners (s : State) (asid : BitVec 16) (lo hi : Nat) : (s.shootRange asid lo hi).owners = s.owners := rfl
@[simp] theorem State.shootRange_comm (s : State) (asid : BitVec 16) (lo hi : Nat) : (s.shootRange asid lo hi).comm = s.comm := rfl
@[simp] theorem State.shootRange_ops (s : State) (asid : BitVec 16) (lo hi : Nat) : (s.shootRange asid lo hi).ops = s.ops := rfl
@[simp] theorem State.shootRange_calls (s : State) (asid : BitVec 16) (lo hi : Nat) : (s.shootRange asid lo hi).calls = s.calls := rfl
@[simp] theorem State.shootRange_treg (s : State) (asid : BitVec 16) (lo hi : Nat) : (s.shootRange asid lo hi).treg = s.treg := rfl
@[simp] theorem State.shootRange_regions (s : State) (asid : BitVec 16) (lo hi : Nat) : (s.shootRange asid lo hi).regions = s.regions := rfl
@[simp] theorem State.shootRange_fills (s : State) (asid : BitVec 16) (lo hi : Nat) : (s.shootRange asid lo hi).fills = s.fills := rfl
@[simp] theorem State.shootRange_agenda (s : State) (asid : BitVec 16) (lo hi : Nat) : (s.shootRange asid lo hi).agenda = s.agenda := rfl

/-! `putByte`. -/

@[simp] theorem State.putByte_warp (s : State) (pa : Nat) (b : Byte) : (s.putByte pa b).warp = s.warp := by unfold State.putByte; split <;> rfl
@[simp] theorem State.putByte_warps (s : State) (pa : Nat) (b : Byte) : (s.putByte pa b).warps = s.warps := by unfold State.putByte; split <;> rfl
@[simp] theorem State.putByte_grp (s : State) (pa : Nat) (b : Byte) : (s.putByte pa b).grp = s.grp := by unfold State.putByte; split <;> rfl
@[simp] theorem State.putByte_wgs (s : State) (pa : Nat) (b : Byte) : (s.putByte pa b).wgs = s.wgs := by unfold State.putByte; split <;> rfl
@[simp] theorem State.putByte_launches (s : State) (pa : Nat) (b : Byte) : (s.putByte pa b).launches = s.launches := by unfold State.putByte; split <;> rfl
@[simp] theorem State.putByte_ctxs (s : State) (pa : Nat) (b : Byte) : (s.putByte pa b).ctxs = s.ctxs := by unfold State.putByte; split <;> rfl
@[simp] theorem State.putByte_sram (s : State) (pa : Nat) (b : Byte) : (s.putByte pa b).sram = s.sram := by unfold State.putByte; split <;> rfl
@[simp] theorem State.putByte_copies (s : State) (pa : Nat) (b : Byte) : (s.putByte pa b).copies = s.copies := by unfold State.putByte; split <;> rfl
@[simp] theorem State.putByte_owners (s : State) (pa : Nat) (b : Byte) : (s.putByte pa b).owners = s.owners := by unfold State.putByte; split <;> rfl
@[simp] theorem State.putByte_comm (s : State) (pa : Nat) (b : Byte) : (s.putByte pa b).comm = s.comm := by unfold State.putByte; split <;> rfl
@[simp] theorem State.putByte_tlb (s : State) (pa : Nat) (b : Byte) : (s.putByte pa b).tlb = s.tlb := by unfold State.putByte; split <;> rfl
@[simp] theorem State.putByte_ops (s : State) (pa : Nat) (b : Byte) : (s.putByte pa b).ops = s.ops := by unfold State.putByte; split <;> rfl
@[simp] theorem State.putByte_calls (s : State) (pa : Nat) (b : Byte) : (s.putByte pa b).calls = s.calls := by unfold State.putByte; split <;> rfl
@[simp] theorem State.putByte_treg (s : State) (pa : Nat) (b : Byte) : (s.putByte pa b).treg = s.treg := by unfold State.putByte; split <;> rfl
@[simp] theorem State.putByte_regions (s : State) (pa : Nat) (b : Byte) : (s.putByte pa b).regions = s.regions := by unfold State.putByte; split <;> rfl
@[simp] theorem State.putByte_fills (s : State) (pa : Nat) (b : Byte) : (s.putByte pa b).fills = s.fills := by unfold State.putByte; split <;> rfl
@[simp] theorem State.putByte_agenda (s : State) (pa : Nat) (b : Byte) : (s.putByte pa b).agenda = s.agenda := by unfold State.putByte; split <;> rfl

/-! `reply`. -/

@[simp] theorem State.reply_warp (s : State) (kind : Nat) (error : Bool) (bs : List Byte) : (s.reply kind error bs).warp = s.warp := rfl
@[simp] theorem State.reply_warps (s : State) (kind : Nat) (error : Bool) (bs : List Byte) : (s.reply kind error bs).warps = s.warps := rfl
@[simp] theorem State.reply_grp (s : State) (kind : Nat) (error : Bool) (bs : List Byte) : (s.reply kind error bs).grp = s.grp := rfl
@[simp] theorem State.reply_wgs (s : State) (kind : Nat) (error : Bool) (bs : List Byte) : (s.reply kind error bs).wgs = s.wgs := rfl
@[simp] theorem State.reply_launches (s : State) (kind : Nat) (error : Bool) (bs : List Byte) : (s.reply kind error bs).launches = s.launches := rfl
@[simp] theorem State.reply_ctxs (s : State) (kind : Nat) (error : Bool) (bs : List Byte) : (s.reply kind error bs).ctxs = s.ctxs := rfl
@[simp] theorem State.reply_mem (s : State) (kind : Nat) (error : Bool) (bs : List Byte) : (s.reply kind error bs).mem = s.mem := rfl
@[simp] theorem State.reply_sram (s : State) (kind : Nat) (error : Bool) (bs : List Byte) : (s.reply kind error bs).sram = s.sram := rfl
@[simp] theorem State.reply_copies (s : State) (kind : Nat) (error : Bool) (bs : List Byte) : (s.reply kind error bs).copies = s.copies := rfl
@[simp] theorem State.reply_owners (s : State) (kind : Nat) (error : Bool) (bs : List Byte) : (s.reply kind error bs).owners = s.owners := rfl
@[simp] theorem State.reply_comm (s : State) (kind : Nat) (error : Bool) (bs : List Byte) : (s.reply kind error bs).comm = s.comm := rfl
@[simp] theorem State.reply_tlb (s : State) (kind : Nat) (error : Bool) (bs : List Byte) : (s.reply kind error bs).tlb = s.tlb := rfl
@[simp] theorem State.reply_ops (s : State) (kind : Nat) (error : Bool) (bs : List Byte) : (s.reply kind error bs).ops = s.ops := rfl
@[simp] theorem State.reply_calls (s : State) (kind : Nat) (error : Bool) (bs : List Byte) : (s.reply kind error bs).calls = s.calls := rfl
@[simp] theorem State.reply_treg (s : State) (kind : Nat) (error : Bool) (bs : List Byte) : (s.reply kind error bs).treg = s.treg := rfl
@[simp] theorem State.reply_regions (s : State) (kind : Nat) (error : Bool) (bs : List Byte) : (s.reply kind error bs).regions = s.regions := rfl
@[simp] theorem State.reply_fills (s : State) (kind : Nat) (error : Bool) (bs : List Byte) : (s.reply kind error bs).fills = s.fills := rfl
@[simp] theorem State.reply_agenda (s : State) (kind : Nat) (error : Bool) (bs : List Byte) : (s.reply kind error bs).agenda = s.agenda := rfl

end Sys2Proof.Machine
end

