-- ==== Sys2Proof/Laws/Memory.lean ====
section
/-! SUPPORT. Home memory: a read after a write, what a write leaves alone, and the canonical form that every memory
operation keeps. -/

namespace Sys2Proof.Machine

/-! Reads after writes. -/

@[simp] theorem putByte_inDram (s : State) (pa q : Nat) (b : Byte) : (s.putByte pa b).inDram q = s.inDram q := by
  unfold State.putByte; split <;> rfl

/-- A home byte read after a byte was written. -/
theorem memByte_putByte (s : State) (pa q : Nat) (b : Byte) :
    (s.putByte pa b).memByte q = if q = pa ∧ s.inDram pa = true then b else s.memByte q := by
  unfold State.memByte
  rw [putByte_inDram]
  unfold State.putByte
  by_cases h : s.inDram pa = true <;> by_cases hq : q = pa <;> simp_all [rd_wr]

@[simp] theorem putBytes_inDram (bs : List Byte) : ∀ (s : State) (pa q : Nat), (s.putBytes pa bs).inDram q = s.inDram q := by
  induction bs with
  | nil => intro s pa q; rfl
  | cons b bs ih => intro s pa q; rw [State.putBytes, ih, putByte_inDram]

/-- A home byte read after bytes were written. -/
theorem memByte_putBytes (bs : List Byte) : ∀ (s : State) (pa q : Nat), (s.putBytes pa bs).memByte q =
    if pa ≤ q ∧ q < pa + bs.length ∧ s.inDram q = true then bs.getD (q - pa) 0 else s.memByte q := by
  induction bs with
  | nil => intro s pa q; rw [State.putBytes, if_neg (by simp; omega)]
  | cons b bs ih =>
    intro s pa q
    rw [State.putBytes, ih, memByte_putByte, putByte_inDram]
    by_cases hq : q = pa
    · subst hq; by_cases hd : s.inDram q = true <;> simp [hd]
    · simp only [hq, false_and, if_false, List.length_cons]
      by_cases h : pa + 1 ≤ q
      · have e : q - pa = (q - (pa + 1)) + 1 := by omega
        by_cases h2 : q < pa + 1 + bs.length
        · have h3 : q < pa + (bs.length + 1) := by omega
          have h4 : pa ≤ q := by omega
          simp only [h, h2, h3, h4, true_and, e, List.getD_cons_succ]
        · have h3 : ¬q < pa + (bs.length + 1) := by omega
          simp only [h2, h3, false_and, and_false, if_false]
      · have h4 : ¬pa ≤ q := by omega
        simp only [h, h4, false_and, if_false]

/-! The canonical form. -/

theorem wf_putByte {s : State} (h : Memory.wf s.mem) (pa : Nat) (b : Byte) : Memory.wf (s.putByte pa b).mem := by
  unfold State.putByte; split
  · exact wf_wr h
  · exact h

theorem wf_putBytes {s : State} (h : Memory.wf s.mem) (pa : Nat) (bs : List Byte) : Memory.wf (s.putBytes pa bs).mem := by
  induction bs generalizing s pa with
  | nil => exact h
  | cons b bs ih => exact ih (wf_putByte h pa b) (pa + 1)

theorem wf_memWrite {s : State} (h : Memory.wf s.mem) (pa n x : Nat) : Memory.wf (s.memWrite pa n x).mem := wf_putBytes h _ _

/-- A fold keeps what each of its steps keeps. -/
theorem foldl_keeps {α β : Type} (p : β → Prop) (f : β → α → β) (h : ∀ b a, p b → p (f b a)) (l : List α) (b : β) (hb : p b) :
    p (l.foldl f b) := by
  induction l generalizing b with
  | nil => exact hb
  | cons a l ih => exact ih _ (h b a hb)

/-- A fold of state updates keeps the form. -/
theorem wf_foldl {α : Type} {s : State} {f : State → α → State} (l : List α) (h : Memory.wf s.mem)
    (hf : ∀ t a, Memory.wf t.mem → Memory.wf (f t a).mem) : Memory.wf (l.foldl f s).mem :=
  foldl_keeps (fun t : State => Memory.wf t.mem) f hf l s h

theorem disown_mem (s : State) (keep : Option Nat) (wd : Nat) : (s.disown keep wd).mem = s.mem := by
  unfold State.disown; split
  · rfl
  · split <;> rfl

theorem wf_mergeOne {s : State} (c : CommLine) (e : Nat × DWord) (h : Memory.wf s.mem) : Memory.wf (c.mergeOne s e).mem := by
  unfold CommLine.mergeOne
  exact wf_memWrite (wf_foldl _ h fun t a ht => by rw [disown_mem]; exact ht) _ _ _

theorem wf_mergeLine {s : State} (h : Memory.wf s.mem) (line : Nat) : Memory.wf (s.mergeLine line).mem := by
  unfold State.mergeLine
  split
  · exact h
  · next c _ =>
    refine wf_foldl (f := fun s d => (c.parts.filter fun e => e.1 / 32 == d).foldl (fun s e => c.mergeOne s e) s) _ ?_ ?_
    · exact h
    · exact fun t a ht => wf_foldl _ ht fun u e hu => wf_mergeOne c e hu

theorem wf_mergeBytes {s : State} (h : Memory.wf s.mem) (pa n : Nat) : Memory.wf (s.mergeBytes pa n).mem :=
  wf_foldl _ h fun _ _ ht => wf_mergeLine ht _

theorem wf_mergeRange {s : State} (h : Memory.wf s.mem) (lo n : Nat) : Memory.wf (s.mergeRange lo n).mem :=
  wf_foldl _ h fun _ _ ht => wf_mergeLine ht _

/-- A write at the home keeps the form. -/
theorem wf_homeWrite {s : State} (h : Memory.wf s.mem) (owner : Option Nat) (pa : Nat) (bs : List Byte) :
    Memory.wf (s.homeWrite owner pa bs).mem := by
  unfold State.homeWrite
  have h1 := wf_putBytes (wf_foldl (f := fun s wd => s.disown owner wd) (wordsOf pa bs.length) (wf_mergeBytes h pa (Max.max bs.length 1))
    fun t a ht => by rw [disown_mem]; exact ht) pa bs
  cases owner <;> exact h1

theorem wf_zeroRange {s : State} (h : Memory.wf s.mem) (lo n : Nat) : Memory.wf (s.zeroRange lo n).mem := SMap.wf_filter h

theorem wf_copyPage {s : State} (h : Memory.wf s.mem) (src dst n : Nat) : Memory.wf (s.copyPage src dst n).mem := by
  unfold State.copyPage
  exact foldl_keeps (fun m : List Host.Cell => Memory.wf m) _ (fun m e hm => wf_wr hm) _ _ (wf_zeroRange (wf_mergeRange h src n) dst n)

theorem wf_writePlan {s : State} (h : Memory.wf s.mem) (plan : List (Nat × DWord)) : Memory.wf (s.writePlan plan).mem :=
  wf_foldl _ h fun _ _ ht => wf_homeWrite ht _ _ _

theorem wf_setFill {s : State} (h : Memory.wf s.mem) (leader fill : Nat) (pa : Option Nat) : Memory.wf (s.setFill leader fill pa).mem :=
  wf_memWrite h _ _ _

theorem wf_writeLeaves {s : State} (h : Memory.wf s.mem) (r : QRegion) (leader : Nat) (pa : Option Nat) :
    Memory.wf (s.writeLeaves r leader pa).mem := by
  unfold State.writeLeaves; split
  · exact wf_memWrite h _ _ _
  · exact wf_foldl _ h fun _ _ ht => wf_memWrite ht _ _ _

theorem wf_counterAdd {s : State} (h : Memory.wf s.mem) (pa inc : Nat) : Memory.wf (s.counterAdd pa inc).1.mem :=
  wf_homeWrite (wf_mergeBytes h _ _) _ _ _

theorem wf_counterStep {s : State} (h : Memory.wf s.mem) (space : Option (BitVec 16)) (a inc : Nat) :
    Memory.wf (s.counterStep space a inc).mem := by
  unfold State.counterStep State.counterStepAs; split
  · exact wf_counterAdd h _ _
  · exact h
  · exact h

theorem wf_storeSpace {s : State} (h : Memory.wf s.mem) (space : Option (BitVec 16)) (a : Nat) (bs : List Byte) :
    Memory.wf (s.storeSpace space a bs).mem := by
  unfold State.storeSpace; split
  · exact wf_homeWrite h _ _ _
  · exact h

/-- What a record does to its ring, the ring's header merged into the machine `t` (R359). -/
theorem ringPut_eq {s t : State} {pa : Nat} (ht : s.mergeBytes pa 64 = t) (space : Option (BitVec 16)) (ring : Nat) (bs : List Byte) :
    s.ringPut space ring pa bs =
      if (2 ^ 64 + t.memRead (pa + 8) 8 - t.memRead pa 8) % 2 ^ 64 = 2 ^ t.memRead (pa + 16) 1 then
        (t.homeWrite none (pa + 24) (leBytes 8 (if t.memRead (pa + 24) 8 = 2 ^ 64 - 1 then t.memRead (pa + 24) 8 else t.memRead (pa + 24) 8 + 1)), false)
      else
        ((fun u : State => (if u.memRead (pa + 32) 8 = 0 then u else u.counterStep space (u.memRead (pa + 32) 8) 1, true))
          (State.counterAdd (t.storeSpace space (t.ringSlot ring pa bs.length) bs) (pa + 8) 1).1) := by
  subst ht; rfl

/-- A record put into a ring keeps the form. -/
theorem wf_ringPut {s : State} (h : Memory.wf s.mem) (space : Option (BitVec 16)) (ring pa : Nat) (bs : List Byte) :
    Memory.wf (s.ringPut space ring pa bs).1.mem := by
  have h0 := wf_mergeBytes h pa 64
  generalize ht : s.mergeBytes pa 64 = t at h0
  rw [ringPut_eq ht]
  split
  · exact wf_homeWrite h0 _ _ _
  · have h1 := wf_counterAdd (wf_storeSpace h0 space (t.ringSlot ring pa bs.length) bs) (pa + 8) 1
    generalize (State.counterAdd (t.storeSpace space (t.ringSlot ring pa bs.length) bs) (pa + 8) 1).1 = u at h1 ⊢
    by_cases hn : u.memRead (pa + 32) 8 = 0
    · simp only [hn, if_true]; exact h1
    · simp only [hn, if_false]; exact wf_counterStep h1 _ _ _

/-- A record posted in a ring, at once or to wait for it, keeps the form. -/
theorem wf_ringPost {s : State} (h : Memory.wf s.mem) (space : Option (BitVec 16)) (ring pa : Nat) (bs : List Byte) :
    Memory.wf (s.ringPost space ring pa bs).1.mem := by
  unfold State.ringPost
  split
  · exact h
  · exact wf_ringPut h _ _ _ _

theorem wf_postSystem {s : State} (h : Memory.wf s.mem) (bs : List Byte) : Memory.wf (s.postSystem bs).mem := by
  unfold State.postSystem
  have hr := fun pa => wf_ringPost h none s.sfrbase.toNat pa bs
  generalize s.ringOk none s.sfrbase.toNat = o
  cases o with
  | none => exact h
  | some pa =>
    have hr := hr pa
    dsimp only
    generalize s.ringPost none s.sfrbase.toNat pa bs = r at hr ⊢
    obtain ⟨t, b⟩ := r
    cases b <;> exact hr

theorem wf_postPath {s : State} (h : Memory.wf s.mem) (asid : BitVec 16) (bs : List Byte) (path : List RegionItems) :
    Memory.wf (s.postPath asid bs path).mem := by
  induction path with
  | nil => rw [State.postPath]; exact wf_postSystem h bs
  | cons r path ih =>
    rw [State.postPath]
    split
    · exact wf_ringPost h _ _ _ _
    · exact ih

/-- A fault record posted keeps the form (R360). -/
theorem wf_postFault {s : State} (h : Memory.wf s.mem) (uid : Nat) (r : FaultRec) : Memory.wf (s.postFault uid r).mem := by
  unfold State.postFault
  split
  · exact wf_postSystem h _
  · next l _ =>
    dsimp only
    have hp := fun bs path => wf_postPath h l.asid bs path
    split
    · exact hp _ _
    · split
      · rw [State.onLaunch_mem]; exact hp _ _
      · change Memory.wf (State.onWarp _ uid _).mem
        rw [State.onWarp_mem]; exact hp _ _

/-- The memory of the reset state has the form. -/
theorem wf_reset : Memory.wf State.reset.mem := rfl

end Sys2Proof.Machine
end

