-- ==== Sys2Proof/Tests/Slice0.lean ====
section
/-! SUPPORT. Tests of single steps and words, and for every statement with hypotheses a concrete state that meets them. An
expected value comes from the manual's tables and examples, or was worked out from them by hand. -/

set_option Elab.async false

namespace Sys2Proof.Tests

open Sys2Proof Sys2Proof.Machine

/-! States. `m0` is about to issue a group at address 0: all 64 lanes, INT32, address 0 mapped RWXU to 0x30000. -/

def m0 : State := { State.reset.loadWarpWord 0x01000000 with grp := { Group.empty with bytes := 4 } }

/-- The element type of code `e`. -/
def typed (e : Nat) (s : State) : State :=
  { s with warp := { s.warp with frag := { s.warp.frag with wmode := BitVec.ofNat 24 (7 + 16 * e) } } }

/-- WMODE as given. -/
def moded (wm : BitVec 24) (s : State) : State := { s with warp := { s.warp with frag := { s.warp.frag with wmode := wm } } }

/-- A v register's value in some lanes. -/
def lanes (r : Nat) (f : List (Nat × Nat)) (s : State) : State :=
  { s with warp := { s.warp with v := f.foldl (fun v e => wr v (64 * r + e.1) (BitVec.ofNat 32 e.2)) s.warp.v } }

/-- A k register. -/
def kreg (n x : Nat) (s : State) : State := { s with warp := { s.warp with k := wr s.warp.k n (BitVec.ofNat 64 x) } }

/-- A predicate. -/
def preg (n x : Nat) (s : State) : State := { s with warp := { s.warp with p := wr s.warp.p n (BitVec.ofNat 64 x) } }

/-- The guard p0, so that the active lanes are those of `m`. -/
def guarded (m : Nat) (s : State) : State := preg 0 m (moded (s.warp.frag.wmode &&& ~~~0xF#24) s)

/-- A literal in the group. -/
def literal (x : Nat) (s : State) : State := { s with grp := { s.grp with lit := some (BitVec.ofNat 64 x) } }

/-- The handler that the loader gives a word of solo mode. -/
def soloed (s : State) : State :=
  { s with
    grp := { s.grp with solo := true }
    warp := { s.warp with solo := some loadedHandler, frag := { s.warp.frag with state := .trapped } } }

/-- What a v register holds after an instruction. -/
def vAfter (i : Instr) (s : State) (r l : Nat) : Option Nat :=
  match exec i s with
  | .next t => some (rd t.warp.v (64 * r + l)).toNat
  | _ => none

/-- What a k register holds after an instruction. -/
def kAfter (i : Instr) (s : State) (n : Nat) : Option Nat :=
  match exec i s with
  | .next t => some (rd t.warp.k n).toNat
  | _ => none

/-- What a predicate holds after an instruction. -/
def pAfter (i : Instr) (s : State) (n : Nat) : Option Nat :=
  match exec i s with
  | .next t => some (t.warp.pred n).toNat
  | _ => none

/-- A part of the next state. -/
def after {α : Type} (i : Instr) (s : State) (f : State → α) : Option α :=
  match exec i s with
  | .next t => some (f t)
  | _ => none

/-! Words and terms. -/

theorem test_wf_refuses_sel : (Instr.sel 7 0 0 0).wf = false := by decide
theorem test_wf_refuses_legal_word : (Instr.illegalOp 0x01000000).wf = false := by decide
theorem test_wf_refuses_lanes : (Instr.loadDataReturn 0 64).wf = false ∧ (Instr.storeRegistration 0 64).wf = false ∧ (Instr.homeRequestService 0 64).wf = false ∧
    (Instr.redPartialUpdate 0 64).wf = false ∧ (Instr.mcasLaneEvent 0 64).wf = false ∧ (Instr.fillWaiterRetry 0 64).wf = false ∧ (Instr.savedImageReplyWrite 0 0 0 64).wf = false ∧
    (Instr.syscReply 0 64).wf = false ∧ (Instr.syscResubmit 0 64).wf = false ∧ (Instr.peerPageAccess 0 64 (.answer .confirmed)).wf = false := by decide
theorem test_wf_refuses_ray : (Instr.rayTraversalEnd 0 4 0).wf = false ∧ (Instr.rayTraversalEnd 0 0 64).wf = false := by decide
theorem test_wf_refuses_die : (Instr.pressureReclaim { die := 4, mark := none }).wf = false ∧ (Instr.dramWipeDone 4).wf = false := by decide
theorem test_wf_refuses_monitor : (Instr.captureCtlWrite 64 0).wf = false := by decide
theorem test_wf_accepts : (Instr.sel 6 0 0 0).wf = true ∧ (Instr.illegalOp 0x01000001).wf = true ∧ (Instr.loadDataReturn 0 63).wf = true ∧ (Instr.rayTraversalEnd 0 3 63).wf = true ∧
    (Instr.captureCtlWrite 63 0).wf = true := by decide

/-! R74, R75: the opcode in bits 31:24, then D, A and B; the fields of the words as the encoding tables place them. -/

theorem test_decode_control : decodeTableWord 32 0x01000000 = some .nop ∧ decodeTableWord 32 0x05000127 = some (.mode 0x127) ∧ decodeTableWord 32 0x07FFFFFF = some (.bra 0xFFFFFF) ∧
    decodeTableWord 32 0x08C102C3 = some (.brx 0xC1 0x02 0xC3) ∧ decodeTableWord 32 0x0A000000 = some .ret ∧ decodeTableWord 32 0x0F000012 = some (.trap 0x12) := by decide
theorem test_decode_arith : decodeTableWord 32 0x100102F4 = some (.add 1 2 0xF4) ∧ decodeTableWord 32 0x14030405 = some (.mac 3 4 5) ∧ decodeTableWord 32 0x19990102 = some (.cmp 9 1 1 1 2) ∧
    decodeTableWord 32 0x26030405 = some (.sel 6 3 4 5) ∧ decodeTableWord 32 0x31010200 = some (.rcp 1 2) := by decide
theorem test_decode_bits : decodeTableWord 32 0x41010203 = some (.or 1 2 3) ∧ decodeTableWord 32 0x4C010203 = some (.perm 1 2 3) ∧ decodeTableWord 32 0x4E0102EF = some (.cvt 1 2 1 3 15) := by decide
theorem test_decode_lane : decodeTableWord 32 0x50010203 = some (.shflPick 1 2 3) ∧ decodeTableWord 32 0x5405_0A00 = some (.voteAny 5 1 2) ∧ decodeTableWord 32 0x5BC00201 = some (.kget 0xC0 2 1) := by decide
theorem test_decode_uniform : decodeTableWord 32 0x60C0C1C2 = some (.kadd 0xC0 0xC1 0xC2) ∧ decodeTableWord 32 0x6992C1C2 = some (.kcmp 9 2 0xC1 0xC2) ∧ decodeTableWord 32 0x6BC0C102 = some (.kld 0xC0 0xC1 2) := by decide
theorem test_decode_memory : decodeTableWord 32 0x72010203 = some (.ld 1 2 3) ∧ decodeTableWord 32 0x7A010203 = some (.stl 1 2 3) ∧ decodeTableWord 32 0x7D000021 = some (.fence 1 0 0 0 0 1) ∧
    decodeTableWord 32 0x84000000 = some .filldone := by decide
theorem test_decode_sync : decodeTableWord 32 0x93000002 = some (.gbar 2) ∧ decodeTableWord 32 0x94000200 = some (.cpy 2) ∧ decodeTableWord 32 0x9500C1C2 = some (.cpyY 0xC1 0xC2) ∧
    decodeTableWord 32 0x9B000003 = some (.rrel 3) := by decide
theorem test_decode_matrix : decodeTableWord 32 0xA6FF0000 = some (.tzero 0xFF) ∧ decodeTableWord 32 0xA9030501 = some (.tfill 3 5 1) ∧ decodeTableWord 32 0xAA0A0500 = some (.tldS 1 2 5) := by decide
theorem test_decode_graphics : decodeTableWord 32 0xC2040806 = some (.texq 4 8 6) ∧ decodeTableWord 32 0xC4080200 = some (.trres 8 2) ∧ decodeTableWord 32 0xC5000300 = some (.prim 3) ∧
    decodeTableWord 32 0xC8000000 = some .kill := by decide
theorem test_decode_system : decodeTableWord 32 0xD0010100 = some (.csrr 1 0x100) ∧ decodeTableWord 32 0xD1010007 = some (.csrw 1 7) ∧ decodeTableWord 32 0xD2000000 = some .rett ∧
    decodeTableWord 32 0xD4010203 = some (.vget 1 2 3) ∧ decodeTableWord 32 0xD7010200 = some (.wake 1 2) := by decide
theorem test_decode_reserved : decodeTableWord 32 0x01000001 = some (.illegalOp 0x01000001) ∧ decodeTableWord 32 0x31010201 = some (.illegalOp 0x31010201) ∧
    decodeTableWord 32 0x27000000 = some (.illegalOp 0x27000000) ∧ decodeTableWord 32 0xFF000000 = some (.illegalOp 0xFF000000) := by decide
theorem test_wf_round_trip : (Instr.cmp 9 1 1 1 2).wf = true ∧ encode (.cmp 9 1 1 1 2) = some 0x19990102 ∧ legalWord 0x19990102 = true ∧ legalWord 0x31010201 = false ∧
    decodePsv 0x00C5850B = some (.psvSpawn 10 11 12) := by decide

/-! Vector arithmetic. -/

theorem witness_sums : m0.Issues (m0.alu3 0x10 etAny 1 2 3) ∧ m0.Issues (m0.alu3 0x11 etAny 1 2 3) ∧ m0.Issues (m0.alu3 0x12 etAny 1 2 3) ∧
    m0.Issues { m0.alu3 0x14 etAny 1 2 3 with d := dstRdF 1 m0.wide } ∧ m0.Issues (m0.alu3 0x15 etAny 1 2 3) ∧ m0.Issues (m0.alu3 0x16 etAny 1 2 3) ∧
    m0.Issues (m0.alu2 0x17 etAny 1 2) ∧ m0.Issues (m0.alu2 0x18 etAny 1 2) := by decide +kernel
theorem test_add_wraps : vAfter (.add 1 2 3) (lanes 2 [(0, 0xFFFFFFFF)] (lanes 3 [(0, 2)] m0)) 1 0 = some 1 := by decide +kernel
theorem test_add_saturates : vAfter (.add 1 2 3) (moded 0x001007 (lanes 2 [(0, 0x7FFFFFFF)] (lanes 3 [(0, 2)] m0))) 1 0 = some 0x7FFFFFFF := by decide +kernel
theorem test_sub_order : vAfter (.sub 1 2 3) (lanes 2 [(0, 5)] (lanes 3 [(0, 7)] m0)) 1 0 = some 0xFFFFFFFE := by decide +kernel
theorem test_sub_latch : after (.sub 0xF1 2 0xF6) m0 (fun t => ((rd t.warp.lat 65).toNat, t.warp.latValid, t.warp.frag.lrpc)) = some (0xFFFFFFFF, 2, some 0) := by decide +kernel
theorem test_mul_packed : vAfter (.mul 1 2 3) (typed 5 (lanes 2 [(0, 0x00030002)] (lanes 3 [(0, 0x00050007)] m0))) 1 0 = some 0x000F000E := by decide +kernel
theorem test_mac_reads_d : vAfter (.mac 1 2 3) (lanes 1 [(0, 10)] (lanes 2 [(0, 3)] (lanes 3 [(0, 4)] m0))) 1 0 = some 22 := by decide +kernel
theorem test_mac_float : vAfter (.mac 1 2 3) (typed 8 (lanes 1 [(0, 0x3F800000)] (lanes 2 [(0, 0x40000000)] (lanes 3 [(0, 0x40400000)] m0)))) 1 0 = some 0x40E00000 := by decide +kernel
theorem test_min_signed : vAfter (.min 1 2 3) (lanes 2 [(0, 0xFFFFFFFF)] (lanes 3 [(0, 1)] m0)) 1 0 = some 0xFFFFFFFF := by decide +kernel
theorem test_max_unsigned : vAfter (.max 1 2 3) (typed 1 (lanes 2 [(0, 0xFFFFFFFF)] (lanes 3 [(0, 1)] m0))) 1 0 = some 0xFFFFFFFF := by decide +kernel
theorem test_abs_int : vAfter (.abs 1 2) (lanes 2 [(0, 0xFFFFFFF9)] m0) 1 0 = some 7 := by decide +kernel
theorem test_neg_float : vAfter (.neg 1 2) (typed 8 (lanes 2 [(0, 0x40400000)] m0)) 1 0 = some 0xC0400000 := by decide +kernel
theorem test_add_float_rounds : vAfter (.add 1 2 3) (typed 8 (lanes 2 [(0, 0x4B800000)] (lanes 3 [(0, 0x3F800000)] m0))) 1 0 = some 0x4B800000 := by decide +kernel

theorem witness_products : m0.Issues (m0.alu3 0x13 etInt 1 2 3) ∧ (typed 6 m0).Issues { (typed 6 m0).alu3 0x1A etPacked 1 2 3 with d := dstRdF 1 false } ∧
    m0.Issues { m0.alu3 0x22 etAny 1 2 3 with preds := [2], ill := (2 : BitVec 3) == 7 } ∧ m0.Issues (m0.alu3 0x30 etAny 1 2 3) := by decide +kernel
theorem test_mulh_signed : vAfter (.mulh 1 2 3) (lanes 2 [(0, 0xFFFFFFFF)] (lanes 3 [(0, 2)] m0)) 1 0 = some 0xFFFFFFFF := by decide +kernel
theorem test_dot4 : vAfter (.dot4 1 2 3) (typed 7 (lanes 1 [(0, 1)] (lanes 2 [(0, 0x04030201)] (lanes 3 [(0, 0x01010101)] m0)))) 1 0 = some 11 := by decide +kernel
theorem test_sel : vAfter (.sel 2 1 2 3) (preg 2 1 (lanes 2 [(0, 5), (1, 6)] (lanes 3 [(0, 7), (1, 8)] m0))) 1 0 = some 5 ∧
    vAfter (.sel 2 1 2 3) (preg 2 1 (lanes 2 [(0, 5), (1, 6)] (lanes 3 [(0, 7), (1, 8)] m0))) 1 1 = some 8 := by decide +kernel
theorem test_div_truncates : vAfter (.div 1 2 3) (lanes 2 [(0, 0xFFFFFFF9)] (lanes 3 [(0, 2)] m0)) 1 0 = some 0xFFFFFFFD := by decide +kernel
theorem test_div_by_zero : vAfter (.div 1 2 3) (lanes 2 [(0, 9)] m0) 1 0 = some 0xFFFFFFFF := by decide +kernel
theorem witness_div_corners : m0.md.sat = false ∧ (moded 0x001007 m0).md.sat = true := by decide +kernel
theorem witness_addx : m0.Issues { m0.alu3 0x1B etWord 1 2 3 with preds := [6] } := by decide +kernel
theorem test_addx_carry : vAfter (.addx 1 2 3) (preg 6 1 (lanes 2 [(0, 0xFFFFFFFF)] m0)) 1 0 = some 0 ∧ pAfter (.addx 1 2 3) (preg 6 1 (lanes 2 [(0, 0xFFFFFFFF)] m0)) 6 = some 1 := by decide +kernel

/-- FP32 elements. -/
def mf : State := typed 8 m0

theorem witness_specials : mf.et.kind = .fp fp32 ∧ mf.Issues (mf.alu2 0x31 etFloat 1 2) ∧ mf.Issues (mf.alu2 0x32 etFloat 1 2) ∧ mf.Issues (mf.alu2 0x33 etFloat 1 2) ∧
    mf.Issues (mf.alu2 0x34 etFloat 1 2) ∧ mf.Issues (mf.alu2 0x35 etFloat 1 2) ∧ mf.Issues (mf.alu2 0x36 etFloat 1 2) ∧ mf.Issues (mf.alu2 0x37 etFloat 1 2) ∧
    mf.Issues (mf.alu2 0x38 etFloat 1 2) ∧ mf.Issues (mf.alu2 0x39 etFloat 1 2) ∧ mf.Issues (mf.alu3 0x3A etFloat 1 2 3) := by decide +kernel
theorem witness_special_traps : mf.illegal (mf.alu3 0x13 etInt 1 2 3) = false ∧ 8 ≤ wmEtype mf.wm ∧ (typed 4 m0).illegal { (typed 4 m0).alu3 0x1B etWord 1 2 3 with preds := [6] } = false ∧
    m0.illegal { m0.alu3 0x1A etPacked 1 2 3 with d := dstRdF 1 false } = false ∧ m0.illegal (m0.alu2 0x31 etFloat 1 2) = false := by decide +kernel
theorem test_sqrt : vAfter (.sqrt 1 2) (lanes 2 [(0, 0x40800000)] mf) 1 0 = some 0x40000000 := by decide +kernel
theorem test_rint : vAfter (.rint 1 2) (lanes 2 [(0, 0x40200000)] mf) 1 0 = some 0x40000000 := by decide +kernel
theorem test_scale : vAfter (.scale 1 2 3) (lanes 2 [(0, 0x3F800000)] (lanes 3 [(0, 3)] mf)) 1 0 = some 0x41000000 := by decide +kernel
theorem test_rcp_of_power : vAfter (.rcp 1 2) (lanes 2 [(0, 0x40000000)] mf) 1 0 = some 0x3F000000 := by decide +kernel
theorem test_exp2_of_integer : vAfter (.exp2 1 2) (lanes 2 [(0, 0x40000000)] mf) 1 0 = some 0x40800000 := by decide +kernel
theorem test_special_type_trap : after (.rcp 1 2) m0 (fun t => (t.warp.trapCode, t.warp.frag.state)) = some (2, .trapped) := by decide +kernel

theorem witness_compares : m0.Issues { op := 0x19, d := .imm, a := srcF 1 m0.wide, b := srcF 2 m0.wide, preds := [3], bad := decide (8 ≤ (2 : BitVec 4).toNat) } ∧ m0.et.kind = .int true := by decide +kernel
theorem witness_bitwise : m0.Issues (m0.alu3 0x40 etAny 1 2 3) ∧ m0.Issues (m0.alu3 0x41 etAny 1 2 3) ∧ m0.Issues (m0.alu3 0x42 etAny 1 2 3) ∧ m0.Issues (m0.alu2 0x43 etAny 1 2) ∧
    m0.Issues (m0.alu3 0x44 etAny 1 2 3) ∧ m0.Issues (m0.alu3 0x45 etAny 1 2 3) ∧ m0.Issues (m0.alu3 0x46 etAny 1 2 3) ∧ m0.Issues (m0.alu2 0x49 etAny 1 2) ∧
    m0.Issues (m0.alu2 0x4A etAny 1 2) ∧ m0.Issues (m0.alu2 0x4B etAny 1 2) := by decide +kernel
theorem test_cmp_signed : pAfter (.cmp 2 0 3 1 2) (guarded 3 (lanes 1 [(0, 0xFFFFFFFF), (1, 4)] m0)) 3 = some 1 := by decide +kernel
theorem test_cmp_any_packed : pAfter (.cmp 0 1 3 1 2) (guarded 1 (typed 5 (lanes 1 [(0, 0x00010000)] m0))) 3 = some 1 := by decide +kernel
theorem test_shr_arithmetic : vAfter (.shr 1 2 3) (lanes 2 [(0, 0x80000000)] (lanes 3 [(0, 40)] m0)) 1 0 = some 0xFFFFFFFF := by decide +kernel
theorem test_shl_past_width : vAfter (.shl 1 2 3) (lanes 2 [(0, 1)] (lanes 3 [(0, 32)] m0)) 1 0 = some 0 := by decide +kernel
theorem test_rot : vAfter (.rot 1 2 3) (lanes 2 [(0, 0x80000001)] (lanes 3 [(0, 33)] m0)) 1 0 = some 3 := by decide +kernel
theorem test_clz_packed : vAfter (.clz 1 2) (typed 5 (lanes 2 [(0, 0x00010000)] m0)) 1 0 = some 0x000F0010 := by decide +kernel
theorem test_brev : vAfter (.brev 1 2) (lanes 2 [(0, 1)] m0) 1 0 = some 0x80000000 := by decide +kernel
theorem test_popc_guarded : vAfter (.popc 1 2) (guarded 1 (lanes 1 [(1, 9)] (lanes 2 [(0, 0xF0), (1, 1)] m0))) 1 1 = some 9 := by decide +kernel
theorem witness_shifts : (0 : Nat) < 32 ∧ (5 : Nat) < 2 ^ 32 ∧ (31 : Nat) < 32 := by decide
theorem test_xor : vAfter (.xor 1 2 3) (lanes 2 [(0, 0xFF00FF00)] (lanes 3 [(0, 0x0FF00FF0)] m0)) 1 0 = some 0xF0F0F0F0 := by decide +kernel

theorem witness_fields : m0.Issues (m0.alu3 0x47 etField 1 2 3) ∧ m0.Issues { m0.alu3 0x48 etField 1 2 3 with d := dstRdF 1 m0.wide } ∧
    m0.Issues { op := 0x4C, d := dstRdF 1 false, a := srcF 2 false, b := srcF 3 false } ∧ m0.Issues { op := 0x4D, d := dstF 1 false, a := srcF 2 false, b := srcF 3 false } ∧
    (let src : CvtType := .elem m0.et
     let tgt : CvtType := .elem (etypeOf 8)
     m0.Issues { op := 0x4E, d := if src.n < tgt.n then dstRdF 1 tgt.wide else dstF 1 tgt.wide, a := srcF 2 src.wide, b := .imm, bad := (8 : BitVec 5).toNat == 14 || decide (16 ≤ (8 : BitVec 5).toNat) || cvtNone src tgt || cvtPartBad src.n tgt.n (0 : BitVec 2).toNat }) := by decide +kernel
theorem test_bfx_signed : vAfter (.bfx 1 2 3) (lanes 2 [(0, 0x00000F00)] (lanes 3 [(0, 0x0408)] m0)) 1 0 = some 0xFFFFFFFF := by decide +kernel
theorem test_bfi_keeps : vAfter (.bfi 1 2 3) (lanes 1 [(0, 0xFFFFFFFF)] (lanes 3 [(0, 0x0408)] m0)) 1 0 = some 0xFFFFF0FF := by decide +kernel
/-- By the steps of R146; its worked example multiplies otherwise (log entry 30). -/
theorem test_hash_of_one : hashWord 1 0 = 0xED345605 := by decide +kernel
theorem test_hash_of_zero : hashWord 0 0 = 0 := by decide +kernel
theorem test_perm_selectors : vAfter (.perm 1 2 3) (lanes 2 [(0, 0xDDCCBBAA)] (lanes 3 [(0, 0x123)] m0)) 1 0 = some 0xAABBCCDD := by decide +kernel
theorem test_perm_sign_and_old : permWord 0x00000080 0x0048 0x00000055 % 0x10000 = 0x55FF := by decide
/-- The table of R131's example. -/
theorem test_add_packed_types : vAfter (.add 1 2 3) (typed 6 (lanes 2 [(0, 0x7F0180FF)] (lanes 3 [(0, 0x0101FF01)] m0))) 1 0 = some 0x80027F00 ∧
    vAfter (.add 1 2 3) (moded 0x001067 (lanes 2 [(0, 0x7F0180FF)] (lanes 3 [(0, 0x0101FF01)] m0))) 1 0 = some 0x7F028000 ∧
    vAfter (.add 1 2 3) (moded 0x001077 (lanes 2 [(0, 0x7F0180FF)] (lanes 3 [(0, 0x0101FF01)] m0))) 1 0 = some 0x8002FFFF := by decide +kernel
/-- The packing example of R147. -/
theorem test_cvt_packs : vAfter (.cvt 4 3 0 1 10) (moded 0x000087 (lanes 3 [(0, 0x477FF000)] (lanes 4 [(0, 0x3E00)] m0))) 4 0 = some 0x7C003E00 := by decide +kernel
theorem test_cvt_to_float : vAfter (.cvt 1 2 0 0 8) (lanes 2 [(0, 0xFFFFFFFF)] m0) 1 0 = some 0xBF800000 := by decide +kernel

/-! Lane exchange and uniform operations. -/

/-- The warp of the worked example of R150–R158: v2 holds 5, 9, 5, 5, 2, 9, 7 and 2 in lanes 0 to 7, which p0 selects. -/
def mx : State := guarded 0xFF (lanes 2 [(0, 5), (1, 9), (2, 5), (3, 5), (4, 2), (5, 9), (6, 7), (7, 2)] m0)

theorem witness_shuffles : m0.Issues (m0.shflIns 0x50 1 2 3) ∧ m0.Issues (m0.shflIns 0x51 1 2 3) ∧ m0.Issues (m0.shflIns 0x52 1 2 3) ∧ m0.Issues (m0.shflIns 0x53 1 2 3) := by decide +kernel
theorem witness_shuffle_to_k : m0.illegal (m0.shflIns 0x50 0xC0 2 3) = false ∧ m0.illegal (m0.shflIns 0x51 0xEF 2 3) = false ∧ m0.illegal (m0.shflIns 0x52 0xC0 2 3) = false ∧
    m0.illegal (m0.shflIns 0x53 0xEF 2 3) = false := by decide +kernel
theorem test_shfl_pick : vAfter (.shflPick 1 2 0xF4) (literal 1 mx) 1 0 = some 9 := by decide +kernel
theorem test_shfl_low_edge : vAfter (.shflLow 1 2 0xF4) (literal 1 mx) 1 0 = some 5 ∧ vAfter (.shflLow 1 2 0xF4) (literal 1 mx) 1 2 = some 9 := by decide +kernel
theorem test_shfl_high_segment : vAfter (.shflHigh 1 2 0xF4) (literal 0x501 mx) 1 0 = some 9 ∧ vAfter (.shflHigh 1 2 0xF4) (literal 0x501 mx) 1 1 = some 9 := by decide +kernel
theorem test_shfl_flip : vAfter (.shflFlip 1 2 0xF4) (literal 7 mx) 1 0 = some 2 := by decide +kernel

theorem witness_votes : m0.Issues { op := 0x54, d := .imm, a := .imm, b := .resv, preds := [1, 2] } ∧ m0.Issues { op := 0x55, d := .imm, a := .imm, b := .resv, preds := [1, 2] } ∧
    m0.Issues { op := 0x5A, d := .imm, a := .resv, b := .resv, preds := [1] } ∧ m0.active ≠ 0 ∧ (guarded 0 m0).active = 0 ∧
    m0.Issues { op := 0x56, d := dstKF 4 2, a := .imm, b := .resv, preds := [2] } ∧ m0.Issues { op := 0x56, d := dstKF 0xC4 2, a := .imm, b := .resv, preds := [2] } ∧
    (guarded 0 m0).Issues { op := 0x56, d := dstKF 4 2, a := .imm, b := .resv, preds := [2] } ∧
    m0.Issues { op := 0x57, d := .opd 4 0x15 2 2 false true, a := srcF 2 m0.wide, b := .imm, preds := [0], ill := (0 : BitVec 1) == 0 && (0 : BitVec 3) != 0 } ∧
    m0.Issues { op := 0x57, d := .opd 4 0x15 2 2 false true, a := srcF 2 m0.wide, b := .imm, preds := [3], ill := (1 : BitVec 1) == 0 && (3 : BitVec 3) != 0 } := by decide +kernel
theorem witness_reductions : m0.Issues { op := 0x58, d := dstKF 3 (if m0.wide then 2 else 1), a := srcF 2 m0.wide, b := .imm, bad := decide (6 ≤ (0 : BitVec 3).toNat) } ∧
    m0.Issues { op := 0x58, d := dstKF 0xC3 (if m0.wide then 2 else 1), a := srcF 2 m0.wide, b := .imm, bad := decide (6 ≤ (5 : BitVec 3).toNat) } ∧
    (guarded 0 m0).Issues { op := 0x58, d := dstKF 0xC3 (if m0.wide then 2 else 1), a := srcF 2 m0.wide, b := .imm, bad := decide (6 ≤ (5 : BitVec 3).toNat) } ∧
    m0.Issues { op := 0x59, d := dstF 7 m0.wide, a := srcF 2 m0.wide, b := .imm, bad := decide (6 ≤ (0 : BitVec 3).toNat) } := by decide +kernel
theorem test_match : vAfter (.matchLanes 4 2 1 3) mx 4 0 = some 0x0D ∧ vAfter (.matchLanes 4 2 1 3) mx 4 7 = some 0x90 ∧ pAfter (.matchLanes 4 2 1 3) mx 3 = some 0x53 := by decide +kernel
theorem test_redux : kAfter (.redux 0xC3 2 0) mx 3 = some 44 := by decide +kernel
theorem test_scan : vAfter (.scan 7 2 1 0) mx 7 0 = some 0 ∧ vAfter (.scan 7 2 1 0) mx 7 7 = some 42 ∧ vAfter (.scan 7 2 1 0) mx 7 8 = some 0 := by decide +kernel
theorem test_redux_empty : kAfter (.redux 0xC3 2 0) (guarded 0 (kreg 3 8 m0)) 3 = some 8 := by decide +kernel
theorem test_vote : pAfter (.voteAny 1 0 2) (preg 2 0x100 mx) 1 = some 0 ∧ pAfter (.voteAll 1 1 2) (preg 2 0x100 mx) 1 = some 0xFF := by decide +kernel
theorem test_ballot : kAfter (.voteBallot 0xC4 0 2) (preg 2 0x1F0 mx) 4 = some 0xF0 := by decide +kernel
theorem test_elect : pAfter (.elect 1) (guarded 0xF0 m0) 1 = some 0x10 := by decide +kernel

theorem witness_kget : mx.Issues { op := 0x5B, d := .opd 0xC4 0x02 1 1 false true, a := srcF 2 mx.wide, b := .imm } ∧ (guarded 0 m0).active = 0 ∧ lowest mx.active = some 0 ∧
    (mx.active.getLsbD 1 ∧ mx.src 2 mx.wide 1 ≠ mx.src 2 mx.wide 0) ∧ (guarded 1 mx).active = 1 := by decide +kernel
theorem test_kget_differs : after (.kget 0xC4 2 0) mx (fun t => (t.warp.trapCode, t.warp.trapMask)) = some (8, 0xF2) := by decide +kernel
theorem test_kget_first : kAfter (.kget 0xC4 2 1) mx 4 = some 5 := by decide +kernel

/-- The fields of a uniform operation. -/
def kIns (op : Nat) : Ins := { op := op, d := kDstF 0xC0, a := kSrcF 0xC1, b := kSrcF 0xC2 }

theorem witness_uniform : m0.grp.solo = false ∧ m0.Issues (kIns 0x60) ∧ m0.Issues (kIns 0x61) ∧ m0.Issues (kIns 0x62) ∧ m0.Issues (kIns 0x63) ∧ m0.Issues (kIns 0x64) ∧ m0.Issues (kIns 0x65) ∧
    m0.Issues (kIns 0x66) ∧ m0.Issues (kIns 0x67) ∧ m0.Issues { kIns 0x68 with b := .resv } ∧ m0.Issues (kIns 0x6A) ∧
    m0.Issues { op := 0x69, d := .imm, a := kSrcF 0xC1, b := kSrcF 0xC2, preds := [3], bad := decide (10 ≤ (9 : BitVec 4).toNat) } := by decide +kernel
theorem witness_ksel : m0.active &&& m0.fragMask = m0.fragMask ∧ (guarded 0 m0).fragMask ≠ 0 ∧ (guarded 0 m0).active &&& (guarded 0 m0).fragMask = 0 ∧
    mx.active &&& mx.fragMask ≠ mx.fragMask ∧ mx.active &&& mx.fragMask ≠ 0 ∧ lowest mx.fragMask = some 0 := by decide +kernel
theorem witness_uniform_handler : (soloed m0).grp.solo = true ∧ (soloed m0).warp.solo = some loadedHandler ∧ (soloed m0).Issues (kIns 0x60) ∧ (soloed m0).Issues (kIns 0x61) ∧
    (soloed m0).Issues (kIns 0x62) ∧ (soloed m0).Issues (kIns 0x63) ∧ (soloed m0).Issues (kIns 0x64) ∧ (soloed m0).Issues (kIns 0x65) ∧
    (soloed m0).Issues { kIns 0x68 with b := .resv } ∧ (soloed m0).Issues (kIns 0x66) ∧ (soloed m0).Issues (kIns 0x67) ∧ (soloed m0).Issues (kIns 0x6A) := by decide +kernel
theorem test_kadd_ignores_guard : kAfter (.kadd 0xC0 0xC1 0xC2) (guarded 0 (kreg 1 3 (kreg 2 4 m0))) 0 = some 7 := by decide +kernel
theorem test_ksub_wraps : kAfter (.ksub 0xC0 0xF5 0xC2) (kreg 2 1 m0) 0 = some (2 ^ 64 - 1) := by decide +kernel
theorem test_kshr_past_width : kAfter (.kshr 0xC0 0xC1 0xF4) (literal 64 (kreg 1 5 m0)) 0 = some 0 := by decide +kernel
theorem test_kcmp_signed_unsigned : pAfter (.kcmp 2 3 0xC1 0xF5) (kreg 1 (2 ^ 63) m0) 3 = some (2 ^ 64 - 1) ∧ pAfter (.kcmp 6 3 0xC1 0xF5) (kreg 1 (2 ^ 63) m0) 3 = some 0 := by decide +kernel
theorem test_ksel_trap_mask : after (.ksel 0xC0 0xC1 0xC2) mx (fun t => (t.warp.trapCode, t.warp.trapMask)) = some (8, ~~~0xFF#64) := by decide +kernel
theorem test_kadd_handler : after (.kadd 3 0xF4 0xC1) (literal 5 (kreg 1 6 (soloed m0))) (fun t => t.warp.solo.map fun h => rd h.h 3) = some (some 11) := by decide +kernel

/-! Control. -/

/-- A word stored in the page at address 0. -/
def stored (off n x : Nat) (s : State) : State := s.memWrite (0x30000 + off) n x

theorem witness_modes : m0.Issues (plainIns 0x01) ∧ m0.Issues (plainIns 0x0D) ∧ m0.grp.solo = false ∧ m0.Issues { j24Ins 0x05 with bad := !wmLegal 0x087 } ∧
    m0.Issues { op := 0x06, d := .resv, a := .resv, b := .imm } ∧ (soloed m0).grp.solo = true ∧ (soloed m0).warp.solo = some loadedHandler ∧ (soloed m0).Issues { j24Ins 0x05 with bad := !wmLegal 0x087 } ∧
    (soloed m0).Issues { op := 0x06, d := .resv, a := .resv, b := .imm } := by decide +kernel
theorem test_mode : after (.mode 0x12AB) (guarded 0 m0) (fun t => (t.warp.frag.wmode, t.warp.frag.pc)) = some (0x12AB, 4) := by decide +kernel
theorem test_mode_reserved : after (.mode 0x0E7) m0 (fun t => t.warp.trapCode) = some 2 := by decide +kernel
theorem test_guard : after (.guard 0xB) (moded 0x12A7 m0) (fun t => t.warp.frag.wmode) = some 0x12AB := by decide +kernel
theorem test_yield : after .yield m0 (fun t => (t.warp.frag.pc, t.warp.frag.mask)) = some (4, BitVec.allOnes 64) := by decide +kernel
theorem witness_exit : m0.Issues (plainIns 0x0C) ∧ m0.active ≠ 0 ∧ (guarded 0 m0).Issues (plainIns 0x0C) ∧ (guarded 0 m0).active = 0 ∧ (guarded 0xFF m0).active ≠ 0 ∧
    (guarded 0xFF m0).warp.resident = true ∧ ((guarded 0xFF m0).advance.warp.exitLanes (guarded 0xFF m0).active).liveLanes ≠ 0 ∧ m0.warp.joins.length ≤ 64 := by decide +kernel
theorem test_exit : after .exit (guarded 0xFF m0) (fun t => (t.warp.liveLanes, t.warp.frag.mask)) = some (~~~0xFF#64, ~~~0xFF#64) := by decide +kernel

theorem witness_branch : m0.Issues braIns ∧ m0.fragMask ≠ 0 ∧ m0.active = m0.fragMask ∧ (guarded 0 m0).Issues braIns ∧ (guarded 0 m0).active = 0 := by decide +kernel
theorem witness_branch_splits : (guarded 0xFF m0).Issues braIns ∧ (guarded 0xFF m0).grp.solo = false ∧ (guarded 0xFF m0).grp.join = none ∧ (guarded 0xFF m0).active ≠ 0 ∧
    (guarded 0xFF m0).warp.frag.mask &&& ~~~(guarded 0xFF m0).active ≠ 0 ∧ (guarded 0xFF m0).target 5 ≠ (guarded 0xFF m0).nextPc ∧
    (guarded 0xFF m0).active &&& ~~~(guarded 0xFF m0).warp.frag.mask = 0 ∧ (SMap.find (freeEntry (guarded 0xFF m0).warp.live) (guarded 0xFF m0).warp.live).isNone := by decide +kernel
theorem test_bra_forward : after (.bra 5) m0 (fun t => t.warp.frag.pc) = some 20 := by decide +kernel
theorem test_bra_backward : after (.bra 0xFFFFFF) (guarded 0xFF { m0 with grp := { m0.grp with pc := 16 } }) (fun t => (t.warp.frag.pc, t.warp.frag.mask, (t.warp.fragAt 1).pc, (t.warp.fragAt 1).mask)) =
    some (12, 0xFF, 20, ~~~0xFF#64) := by decide +kernel

/-- The JOIN and BRA of the worked example of R105–R125, at address 0, with p0 in lanes 40 to 63. -/
def mj : State := guarded 0xFFFFFF0000000000 (stored 4 4 0x07000005 m0)

theorem witness_join_pair : mj.Issues (j24Ins 0x0B) ∧ (match mj.fetchGroup { Group.empty with pc := mj.nextPc } with
    | (u, .ok g) => decide (g.instr = .bra 5) && decide (State.Issues { u with grp := { g with pc := u.grp.pc, bytes := u.grp.bytes + g.bytes, join := some (u.target 9) } } braIns) &&
        decide (u.warp.uid = mj.warp.uid)
    | _ => false) = true := by decide +kernel
theorem witness_join_pair_empty : (match (guarded 0 mj).fetchGroup { Group.empty with pc := mj.nextPc } with
    | (u, .ok g) => decide (g.instr = .bra 5) && decide (State.active { u with grp := { g with pc := u.grp.pc, bytes := u.grp.bytes + g.bytes, join := some (u.target 9) } } = 0)
    | _ => false) = true := by decide +kernel
theorem test_join_pair : after (.join 9) mj (fun t => ((t.warp.frag.pc, t.warp.frag.mask), ((t.warp.fragAt 1).pc, (t.warp.fragAt 1).mask), t.warp.joins.map fun r => (r.2.addr, r.2.union))) =
    some ((8, 0xFFFFFFFFFF), (24, 0xFFFFFF0000000000), [(36, BitVec.allOnes 64)]) := by decide +kernel

/-- BRX with two entries at 0x100 and indexes below the bound of the literal. -/
def mb : State := literal 2 (kreg 1 0x100 (stored 0x104 4 0x40 (lanes 2 [(3, 1)] m0)))

theorem witness_brx : mb.Issues (brxIns 0xF4 2 0xC1) ∧ (∀ l, l < 64 → mb.active.getLsbD l → mb.src 2 false l < mb.src 0xF4 false 0) ∧ mb.active ≠ 0 ∧ (guarded 0 mb).active = 0 ∧
    (guarded 0 mb).Issues (brxIns 0xF4 2 0xC1) ∧
    (match mb.preLanes mb.active .r (fun l => (rd mb.warp.k 1 &&& ~~~3) + BitVec.ofNat 64 (4 * mb.src 2 false l)) with
      | (u, .ok places) => (u.readLanes 4 places).isSome
      | _ => false) = true := by decide +kernel
theorem witness_brx_range : (literal 1 mb).Issues (brxIns 0xF4 2 0xC1) ∧ (maskOf fun l => (literal 1 mb).active.getLsbD l && decide ((literal 1 mb).src 0xF4 false 0 ≤ (literal 1 mb).src 2 false l)) ≠ 0 := by decide +kernel
theorem test_brx : after (.brx 0xF4 2 0xC1) mb (fun t => (t.warp.frag.pc, t.warp.frag.mask, (t.warp.fragAt 1).pc, (t.warp.fragAt 1).mask)) = some (0x100, ~~~8#64, 0x140, 8) := by decide +kernel
theorem test_brx_range : after (.brx 0xF4 2 0xC1) (literal 1 mb) (fun t => (t.warp.trapCode, t.warp.trapMask, t.warp.frag.pc)) = some (0x0C, 8, 0) := by decide +kernel

/-- A stack pointer in k47. -/
def mc : State := kreg 47 0x200 m0

theorem witness_call : mc.k47Pending = false ∧ mc.k47.toNat % 16 = 0 ∧ mc.Issues { j24Ins 0x09 with bad := false } ∧ mc.active ≠ 0 ∧ mc.active = mc.fragMask ∧
    (guarded 0 mc).Issues { j24Ins 0x09 with bad := false } ∧ (guarded 0 mc).active = 0 ∧
    (match mc.pre (mc.k47 - 16) .w with
      | (u, .ok place) => decide (u.warp = mc.warp) && decide (u.grp = mc.grp) && !u.slotsFull && !u.loadsPending (mc.k47 - 16).toNat (placePa place) 16
      | _ => false) = true := by decide +kernel
theorem test_call : after (.call 4) mc (fun t => ((t.warp.frag.pc, rd t.warp.k 47), t.ops.map fun o => o.storeBytes 0)) =
    some ((16, 0x1F0), [leBytes 8 4 ++ leBytes 8 (2 ^ 64 - 1)]) := by decide +kernel
theorem witness_ret : (stored 0x208 8 (2 ^ 64 - 1) mc).Issues { plainIns 0x0A with bad := false } ∧ mc.grp.solo = false ∧
    (match (stored 0x208 8 (2 ^ 64 - 1) mc).pre mc.k47 .r with
      | (u, .ok place) => (match u.readNow mc.k47 place 16 with
        | some (v, x) => decide (v.warp = mc.warp) && decide (v.grp = mc.grp) && decide (BitVec.ofNat 64 (x / 2 ^ 64) &&& mc.warp.liveLanes = mc.warp.frag.mask)
        | none => false)
      | _ => false) = true ∧
    (match (stored 0x208 8 1 mc).pre mc.k47 .r with
      | (u, .ok place) => (match u.readNow mc.k47 place 16 with
        | some (v, x) => decide (v.warp = mc.warp) && decide (v.grp = mc.grp) && decide (BitVec.ofNat 64 (x / 2 ^ 64) &&& mc.warp.liveLanes ≠ mc.warp.frag.mask)
        | none => false)
      | _ => false) = true := by decide +kernel
theorem test_ret : after .ret (stored 0x200 8 0x44 (stored 0x208 8 (2 ^ 64 - 1) mc)) (fun t => (t.warp.frag.pc, rd t.warp.k 47)) = some (0x44, 0x210) := by decide +kernel
theorem test_ret_bad_mask : after .ret (stored 0x208 8 1 mc) (fun t => (t.warp.trapCode, rd t.warp.k 47)) = some (0x0D, 0x200) := by decide +kernel

/-- The field of BKPT and TRAP. -/
def trapIns (op : Nat) : Ins := { op := op, d := .resv, a := .imm, b := .imm }
/-- A region with the debug flag. -/
def debugged (s : State) : State := { s with launches := s.launches.map fun l => { l with path := [{ RegionItems.empty with debug := true }] } }

theorem witness_software_traps : m0.Issues (trapIns 0x0E) ∧ m0.Issues (trapIns 0x0F) ∧ m0.active ≠ 0 ∧ (guarded 0 m0).Issues (trapIns 0x0E) ∧ (guarded 0 m0).Issues (trapIns 0x0F) ∧ (guarded 0 m0).active = 0 ∧
    (m0.region m0.warp.launch).debug = false ∧ (debugged m0).Issues (trapIns 0x0E) ∧ ((debugged m0).region (debugged m0).warp.launch).debug = true := by decide +kernel
theorem test_trap_code : after (.trap 0x55) m0 (fun t => (t.warp.trapCode, t.warp.trapMask)) = some (0x12, BitVec.allOnes 64) := by decide +kernel
theorem test_bkpt_empty : after (.bkpt 1) (guarded 0 m0) (fun t => t.warp.frag.pc) = some 4 := by decide +kernel
theorem test_illegal_word : after (.illegalOp 0) (guarded 0 m0) (fun t => (t.warp.trapCode, t.warp.trapMask)) = some (1, 0) := by decide +kernel

/-! Memory instructions. -/

/-- An operation of the warp of `m0`, and a machine that holds it alone. -/
def opWith (kind : OpKind) (ls : List LaneReq) : Op :=
  { id := 5, uid := m0.warp.uid, entry := 0, pc := 0, kind := kind, lanes := ls, data := [], data2 := [], bytes := [], core := 0, asid := 1, launch := 1, sys := false, rep := 0, after := [] }
def holding (o : Op) (s : State) : State := { s with ops := [o] }
def laneAt (lane : Nat) (va pa : Nat) (st : Stage) : LaneReq := { lane := lane, va := BitVec.ofNat 64 va, pa := pa, stage := st, val := 0, aux := 0 }

/-- Lanes 0 and 1 active, at offsets 0x100 and 0x110 in v2. -/
def ml : State := guarded 3 (lanes 2 [(0, 0x100), (1, 0x110)] m0)

/-- The lanes of a group open requests, and the warp is still the one that issued. -/
def opens (s : State) (m : Mask) (kind : OpKind) (va : Nat → DWord) : Bool :=
  match s.openLanes m kind va with
  | (u, ls, fs) => decide (u.warp.uid = s.warp.uid) && decide ((State.postLanes 64 fs u).warp.uid = s.warp.uid) && !ls.isEmpty && !u.missFull (missedPages ls)

theorem witness_loads : ml.slotsFull = false ∧ ml.acquiring = false ∧ ml.Issues (ml.loadIns 0x70 1 4 2 0) ∧ ml.Issues (ml.loadIns 0x71 2 4 2 0) ∧ ml.Issues (ml.loadIns 0x72 ml.widthBytes 4 2 0) ∧
    ml.Issues (ml.loadIns 0x73 16 4 2 0) ∧ ml.Issues (ml.loadIns 0x78 ml.widthBytes 4 2 0) ∧ ml.Issues (ml.loadIns 0x79 ml.widthBytes 4 2 0) ∧ misaligned ml.active 16 (ml.memAddr 2 0) = 0 ∧
    misaligned ml.active 4 (ml.memAddr 2 0) = 0 ∧ misaligned ml.active 1 (ml.memAddr 2 0) = 0 ∧ misaligned ml.active 2 (ml.memAddr 2 0) = 0 ∧ ml.widthBytes = 4 ∧
    opens ml ml.active (.load .plain 4 true false 4) (ml.memAddr 2 0) = true ∧ opens ml ml.active (.load .acq 4 true false 4) (ml.memAddr 2 0) = true := by decide +kernel
theorem witness_kld : ml.Issues { op := 0x6B, d := .opd 0xC3 0x02 1 1 false true, a := .opd 0xF5 0x12 1 1 true false, b := .memk 0 } ∧ (ml.memAddr 0xF5 0 0).toNat % 8 = 0 ∧
    (match ml.pre (ml.memAddr 0xF5 0 0) .r with
      | (u, .ok _) => decide (u.warp.uid = ml.warp.uid)
      | _ => false) = true := by decide +kernel
theorem test_ld_opens : after (.ld 4 2 0) ml (fun t => (t.ops.map fun o => (o.kind, o.lanes.map fun l => (l.lane, l.va)), t.warp.frag.pc)) =
    some ([(OpKind.load .plain 4 true false 4, [(0, 0x100), (1, 0x110)])], 4) := by decide +kernel
theorem test_ld_literal : after (.ld 4 2 3) (literal 0x20 (kreg 3 0x400 ml)) (fun t => t.ops.flatMap fun o => o.lanes.map (·.va)) = some [0x520, 0x530] := by decide +kernel
theorem witness_stores : ml.doers = ml.active ∧ ml.Issues (ml.storeIns 0x74 1 4 2 0) ∧ ml.Issues (ml.storeIns 0x75 2 4 2 0) ∧ ml.Issues (ml.storeIns 0x76 ml.widthBytes 4 2 0) ∧ ml.Issues (ml.storeIns 0x77 16 4 2 0) ∧
    ml.Issues (ml.storeIns 0x7A ml.widthBytes 4 2 0) ∧ ml.storeMeetsLoad ml.doers 16 (ml.memAddr 2 0) = false ∧ ml.storeMeetsLoad ml.doers 4 (ml.memAddr 2 0) = false ∧ ml.globalIdle ml.warp.uid = true ∧
    ml.doers ≠ 0 ∧ opens ml ml.doers (.store 4 false) (ml.memAddr 2 0) = true ∧ opens ml ml.doers (.store 16 false) (ml.memAddr 2 0) = true ∧ opens ml ml.doers (.store 4 true) (ml.memAddr 2 0) = true := by decide +kernel
/-- The machine after a load of `ml`: an access of the warp is on its way. -/
def mw : State := match exec (.ld 4 2 0) ml with
  | .next t => { t with grp := ml.grp }
  | _ => ml
theorem witness_stl_waits : mw.Issues (mw.storeIns 0x7A mw.widthBytes 6 2 0) ∧ misaligned mw.doers mw.widthBytes (mw.memAddr 2 0) = 0 ∧ mw.doers ≠ 0 ∧ mw.globalIdle mw.warp.uid = false := by decide +kernel
theorem test_scoreboard_holds : after (.add 4 2 2) mw (fun t => (t.stalled, t.warp == mw.warp)) = some (true, true) := by decide +kernel
theorem test_st_data : after (.st 4 2 0) (lanes 4 [(0, 0x11), (1, 0x22)] ml) (fun t => (t.ops.map fun o => (o.storeBytes 1, o.kind), t.mem == ml.mem)) = some ([([0x22, 0, 0, 0], OpKind.store 4 false)], true) := by decide +kernel

theorem witness_misaligned : (let s := lanes 2 [(0, 0x101), (1, 0x108)] ml
    misaligned s.active 4 (s.memAddr 2 0) ≠ 0 ∧ misaligned s.active 2 (s.memAddr 2 0) ≠ 0 ∧ misaligned s.active 16 (s.memAddr 2 0) ≠ 0 ∧ misaligned s.doers 4 (s.memAddr 2 0) ≠ 0 ∧
    s.Issues (s.loadIns 0x72 s.widthBytes 4 2 0) ∧ s.Issues (s.loadIns 0x71 2 4 2 0) ∧ s.Issues (s.loadIns 0x73 16 4 2 0) ∧ s.Issues (s.storeIns 0x76 s.widthBytes 4 2 0) ∧ s.Issues (s.storeIns 0x77 16 4 2 0)) := by decide +kernel
theorem witness_misaligned_atom : (let s := literal 2 (kreg 1 0x100 ml)
    misaligned s.performers s.widthBytes (s.addr64 0xC1) ≠ 0 ∧ s.Issues { op := 0x80, d := s.atomD (0 : BitVec 3).toNat 4, a := addr64F 0xC1 true, b := .imm, bad := !atomType (0 : BitVec 3).toNat (wmEtype s.wm) }) ∧
    (let s := kreg 1 4 ml
     s.Issues { op := 0x6B, d := .opd 0xC3 0x02 1 1 false true, a := .opd 0xF5 0x12 1 1 true false, b := .memk 1 } ∧ (s.memAddr 0xF5 1 0).toNat % 8 ≠ 0) := by decide +kernel
theorem test_misaligned_lanes : after (.ld 4 2 0) (lanes 2 [(0, 0x100), (1, 0x102)] ml) (fun t => (t.warp.trapCode, t.warp.trapMask)) = some (9, 2) := by decide +kernel

/-- Core SRAM: 1 KiB for the workgroup of `m0`; lanes 0 and 1 at offsets 0 and 1012. -/
def ms : State := guarded 3 (lanes 2 [(0, 0), (1, 1012)] m0)

theorem witness_lds : (let n := ms.sramBytes 2
    let ins : Ins := { op := 0x7B, d := .opd 4 (if n = 16 then 1 else 0x11) (regsOf n ms.wide) (regsOf n ms.wide) false true, a := offsetF 2, b := .imm, bad := decide (4 ≤ (2 : BitVec 3).toNat) }
    ms.Issues ins ∧ ms.slotsFull = false ∧ ms.sramCheck ms.active n (ms.sramOffset 2) = none ∧ n ≠ 16) ∧
    (let s := lanes 2 [(0, 0), (1, 1008)] ms
     let n := s.sramBytes 3
     let ins : Ins := { op := 0x7B, d := .opd 4 (if n = 16 then 1 else 0x11) (regsOf n s.wide) (regsOf n s.wide) false true, a := offsetF 2, b := .imm, bad := decide (4 ≤ (3 : BitVec 3).toNat) }
     s.Issues ins ∧ s.sramCheck s.active n (s.sramOffset 2) = none ∧ n = 16) := by decide +kernel
theorem witness_sram_range : (let s := lanes 2 [(0, 0), (1, 1024)] ms
    let n := s.sramBytes 2
    s.Issues { op := 0x7B, d := .opd 4 (if n = 16 then 1 else 0x11) (regsOf n s.wide) (regsOf n s.wide) false true, a := offsetF 2, b := .imm, bad := decide (4 ≤ (2 : BitVec 3).toNat) } ∧
    misaligned s.active n (fun l => BitVec.ofNat 64 (s.sramOffset 2 l)) = 0 ∧ (maskOf fun l => s.active.getLsbD l && decide (s.sramSize < s.sramOffset 2 l + n)) ≠ 0) := by decide +kernel
theorem witness_sts : (let n := ms.sramBytes 2
    ms.Issues { op := 0x7C, d := .opd 4 (if n = 16 then 1 else 0x37) (regsOf n ms.wide) (regsOf n ms.wide) true false, a := offsetF 2, b := .imm, bad := decide (4 ≤ (2 : BitVec 3).toNat) } ∧
    ms.sramCheck ms.performers n (ms.sramOffset 2) = none) := by decide +kernel
theorem test_sts_highest_lane : after (.sts 4 5 2) (lanes 4 [(0, 0x11), (1, 0x22)] ms) (fun t => t.sramRead 0 4) = some 0x22 := by decide +kernel
theorem test_lds_signed_byte : vAfter (.lds 4 2 0) { ms with sram := wr ms.sram ms.sramBase 0x80 } 4 0 = some 0xFFFFFF80 := by decide +kernel
theorem test_lds_range : after (.lds 4 2 2) (lanes 2 [(1, 1024)] ms) (fun t => (t.warp.trapCode, t.warp.trapMask)) = some (0x0A, 2) := by decide +kernel

/-- Lane 0 alone, with an address in k1. -/
def ma : State := guarded 1 (kreg 1 0x100 m0)

theorem witness_atomics : ma.slotsFull = false ∧ ma.acquiring = false ∧ ma.releaseBusy = false ∧ ma.performers ≠ 0 ∧
    ma.Issues { op := 0x80, d := ma.atomD (0 : BitVec 3).toNat 4, a := addr64F 0xC1 true, b := .imm, bad := !atomType (0 : BitVec 3).toNat (wmEtype ma.wm) } ∧
    misaligned ma.performers ma.widthBytes (ma.addr64 0xC1) = 0 ∧ opens ma.clearElig ma.performers (.atom 0 (wmEtype ma.wm) 4) (ma.addr64 0xC1) = true ∧
    ma.Issues { op := 0x81, d := .opd 4 0x17 (if ma.wide then 2 else 1) (if ma.wide then 2 else 1) true false, a := addr64F 0xC1 true, b := .imm, bad := decide (6 ≤ (0 : BitVec 3).toNat) || !atomType (0 : BitVec 3).toNat (wmEtype ma.wm) } ∧
    opens ma.clearElig ma.performers (.red 0 (wmEtype ma.wm) (wmDet ma.wm)) (ma.addr64 0xC1) = true ∧
    ma.Issues { op := 0x83, d := .opd 5 0x11 1 1 false true, a := addr64F 0xC1 true, b := .imm, preds := [2] } ∧ misaligned ma.performers 256 (ma.addr64 0xC1) = 0 ∧
    opens ma.clearElig ma.performers (.mcas 5 2) (ma.addr64 0xC1) = true ∧
    ma.Issues { op := 0x90, d := .opd 4 0x11 2 2 false true, a := addr64F 0xC1 false, b := .opd 0xC2 0x3F 1 1 true false } ∧ misaligned ma.performers 8 (ma.addr64Plain 0xC1) = 0 ∧
    opens ma.clearElig ma.performers (.cadd 4) (ma.addr64Plain 0xC1) = true ∧ (guarded 0 ma).performers = 0 ∧ (guarded 0 ma).Issues { op := 0x90, d := .opd 4 0x11 2 2 false true, a := addr64F 0xC1 false, b := .opd 0xC2 0x3F 1 1 true false } := by decide +kernel
theorem witness_atoms : ma.Issues { op := 0x82, d := ma.atomD (0 : BitVec 3).toNat 4, a := offsetF 2, b := .imm, bad := !atomType (0 : BitVec 3).toNat (wmEtype ma.wm) } ∧
    ma.sramCheck ma.performers ma.widthBytes (ma.sramOffset 2) = none ∧ ma.performers = laneBit 0 := by decide +kernel
theorem test_atoms_add : after (.atoms 4 2 0) (lanes 4 [(0, 5)] { ma with sram := wr ma.sram ma.sramBase 7 }) (fun t => (t.sramRead 0 4, rd t.warp.v 256)) = some (12, 7) := by decide +kernel
theorem test_atom_operand : after (.atom 4 0xC1 7) (lanes 4 [(0, 5)] (lanes 5 [(0, 9)] ma)) (fun t => t.ops.map fun o => (o.kind, laneV o.data 0, laneC o.data 0)) = some [(OpKind.atom 7 0 4, 5, 9)] := by decide +kernel

/-- The fill of one block that the warp has open. -/
def openFill : Fill := { leader := 0x23000, asid := 1, block := 0x40000, depth := 1, launch := none, backing := [], edges := [], held := false }
def mq : State := { m0 with warp := { m0.warp with fillOpen := some 0x40000 }, fills := [openFill] }

/-- The fields of FENCE with every class, for REL and ACQ. -/
def fenceIns (t im sr gl rel acq : BitVec 1) : Ins := { op := 0x7D, d := .resv, a := .resv, b := .imm, bad := (rel == 0 && acq == 0) || (t == 0 && im == 0 && sr == 0 && gl == 0) }
theorem witness_fences : m0.Issues (fenceIns 1 1 1 1 1 1) ∧ m0.afterBusy = false ∧ m0.readsBack m0.warp.uid = true ∧ mw.Issues (fenceIns 0 0 1 0 0 1) ∧ mw.readsBack mw.warp.uid = false ∧
    (let s := holding (opWith (.store 4 false) [laneAt 0 0x100 0x30100 .request]) m0
     s.Issues (fenceIns 0 1 0 0 1 0) ∧ s.pendingWrites s.warp.uid = true) ∧
    (let s := holding { opWith (.store 4 false) [laneAt 0 0x100 0x30100 .request] with uid := 9 } { m0 with warp := { m0.warp with after := [5] } }
     s.Issues (fenceIns 0 1 0 0 0 1) ∧ s.pendingWrites s.warp.uid = false ∧ s.afterBusy = true) ∧
    (let s := holding (opWith (.tileLoad 3 false true) [laneAt 1 0x200 0 .request]) m0
     s.Issues (fenceIns 1 0 0 0 1 0) ∧ s.warpHas s.warp.uid (fun o => o.kind.tileMove) = true) ∧ m0.Issues { op := 0x7D, d := .resv, a := .resv, b := .imm, bad := ((1 : BitVec 1) == 0 && (0 : BitVec 1) == 0) || ((0 : BitVec 1) == 0 && (0 : BitVec 1) == 0 && (0 : BitVec 1) == 0 && (1 : BitVec 1) == 0) } ∧
    m0.globalIdle m0.warp.uid = true ∧ m0.pendingWrites m0.warp.uid = false ∧ m0.warpHas m0.warp.uid (fun o => o.kind.tileMove) = false ∧ m0.Issues { op := 0x7E, d := .resv, a := .resv, b := .resv } ∧
    m0.Issues { op := 0x7F, d := .imm, a := offsetF 2, b := .memk 0, bad := (2 : BitVec 2) == 3 } ∧
    mw.Issues { op := 0x7D, d := .resv, a := .resv, b := .imm, bad := ((1 : BitVec 1) == 0 && (0 : BitVec 1) == 0) || ((0 : BitVec 1) == 0 && (0 : BitVec 1) == 0 && (0 : BitVec 1) == 0 && (1 : BitVec 1) == 0) } ∧
    mw.globalIdle mw.warp.uid = false := by decide +kernel
theorem witness_fills : m0.fillOfWarp m0.warp = none ∧ m0.Issues { op := 0x84, d := .resv, a := .resv, b := .resv } ∧ m0.Issues { op := 0x85, d := .resv, a := .imm, b := .imm, bad := decide (0xFFF0 ≤ (0x21 : BitVec 16).toNat) } ∧
    mq.fillOfWarp mq.warp = some openFill ∧ mq.performers ≠ 0 ∧ mq.pendingWrites mq.warp.uid = false ∧ mq.Issues { op := 0x84, d := .resv, a := .resv, b := .resv } ∧
    (mq.clearElig.fillDone 0x23000).warp.uid = mq.warp.uid ∧ mq.Issues { op := 0x85, d := .resv, a := .imm, b := .imm, bad := decide (0xFFF0 ≤ (0x21 : BitVec 16).toNat) } ∧
    (mq.clearElig.failOpen mq.warp 0x21).warp.uid = mq.warp.uid := by decide +kernel
theorem test_fence_waits : after (.fence 0 0 0 1 1 1) mw (fun t => (t.stalled, t.warp == mw.warp)) = some (true, true) := by decide +kernel
theorem test_fence_empty : after (.fence 0 0 0 0 1 1) m0 (fun t => t.warp.trapCode) = some 2 := by decide +kernel
theorem test_filldone_without_fill : after .filldone m0 (fun t => t.warp.trapCode) = some 0x0B := by decide +kernel
theorem test_filldone : after .filldone mq (fun t => (t.warp.fillOpen, t.fills, eFill (t.memQ 0x23000))) = some (none, [], 2) := by decide +kernel

/-! Special registers, counters, barriers, engines and quotas. -/

theorem witness_sreg : m0.inPrologue = false ∧ m0.Issues (m0.sregIns 2 0x0C) ∧ m0.grp.solo = false ∧ m0.Issues (m0.sregIns 0xC2 0x0C) ∧ (soloed m0).Issues ((soloed m0).sregIns 2 0x0C) ∧
    (soloed m0).grp.solo = true ∧ (soloed m0).warp.solo = some loadedHandler ∧ (soloed m0).inPrologue = false := by decide +kernel
theorem test_sreg_lane : vAfter (.sreg 2 0) (guarded 0x22 m0) 2 5 = some 5 ∧ vAfter (.sreg 2 0) (guarded 0x22 m0) 2 4 = some 0 := by decide +kernel
theorem test_sreg_fragmask : kAfter (.sreg 0xC2 0x13) (guarded 1 m0) 2 = some (2 ^ 64 - 1) := by decide +kernel

/-- A counter that holds 5 at 0x100, its address in k9. -/
def mt : State := kreg 9 0x100 (stored 0x100 8 5 m0)
/-- The fields of CWAIT. -/
def cwaitIns : Ins := { op := 0x91, d := .opd 0xC0 0x12 1 1 false true, a := .opd 0xC9 0x02 1 1 true false, b := .opd 0xCA 0x1A 1 1 true false, bad := decide ((0xC0 : Code).toNat ≤ 0x0F) || decide ((0xC9 : Code).toNat ≤ 0x0F) || decide ((0xCA : Code).toNat ≤ 0x0F) }

theorem witness_cwait : mt.Issues cwaitIns ∧ (kreg 9 4 mt).Issues cwaitIns ∧ ((kreg 9 4 mt).srcU 0xC9).toNat % 8 ≠ 0 ∧
    (match (kreg 10 5 mt).pre ((kreg 10 5 mt).srcU 0xC9) .r with
      | (u, .ok place) => !placePeer place && placeHome place != 1 && !u.acquiring && !u.bytesOwned (placePa place) 8 && u.inOrder u.selfOp 0x100 (placePa place) 8 false && decide (u.warp.uid = mt.warp.uid) &&
          decide ((kreg 10 5 mt).srcU 0xCA ≤ (u.mergeBytes (placePa place) 8).memQ (placePa place)) && decide ((u.mergeBytes (placePa place) 8).memQ (placePa place) < 6)
      | _ => false) = true := by decide +kernel
theorem test_cwait_met : kAfter (.cwait 0xC0 0xC9 0xCA) (kreg 10 5 mt) 0 = some 5 := by decide +kernel
theorem test_cwait_waits : after (.cwait 0xC0 0xC9 0xCA) (kreg 10 6 mt) (fun t => (t.warp.frag.state, t.warp.frag.wait, t.warp.frag.pc)) = some (.waiting, .cwait 0x30100 6 0xC0 4, 0) := by decide +kernel

/-- The fields of BAR and GBAR. -/
def barIns (s : State) (c : Code) : Ins := { op := 0x92, d := .resv, a := .imm, b := .imm, bad := decide (16 < c.toNat) || decide (s.wgWarps < c.toNat) }
def atBarrier (n c : Nat) (s : State) : State := { s with warp := { s.warp with frags := [(1, { s.warp.frag with mask := 2, state := .waiting, wait := .bar n c })] } }
def gbarIns : Ins := { op := 0x93, d := .resv, a := .resv, b := .imm }
/-- A launch as a gang, and a barrier generation fixed at two warps. -/
def ganged (s : State) : State := { s with launches := s.launches.map fun l => { l with gang := true } }
def fixedBar : BarState := { gen := 0, count := 2, byZero := false, arrived := [7, 8], since := 0, timedOut := false }
def barred (s : State) : State := { s with wgs := s.wgs.map fun g => { g with bars := [(1, fixedBar)] } }

theorem witness_barriers : m0.barCompletes 1 = true ∧ m0.readsBack m0.warp.uid = true ∧ mw.Issues (barIns mw 0) ∧ mw.performers ≠ 0 ∧ mw.barCompletes 1 = true ∧ mw.readsBack mw.warp.uid = false ∧
    (atBarrier 2 1 m0).barCompletes 1 = false ∧ (atBarrier 2 1 m0).barMismatch 1 0 = false ∧ (atBarrier 1 1 m0).barCompletes 1 = true ∧ (atBarrier 1 1 m0).barMismatch 1 0 = true ∧
    m0.Issues (barIns m0 0) ∧ m0.performers ≠ 0 ∧ m0.barMismatch 1 0 = false ∧ (guarded 0 m0).performers = 0 ∧ (guarded 0 m0).Issues (barIns m0 0) ∧ (guarded 0 m0).Issues gbarIns ∧
    (barred m0).Issues (barIns (barred m0) 1) ∧ (barred m0).barMismatch 1 1 = true ∧ m0.Issues gbarIns ∧ (m0.launchOf m0.warp.launch).map (·.gang) = some false ∧
    (ganged m0).Issues gbarIns ∧ ((ganged m0).launchOf m0.warp.launch).map (·.gang) = some true := by decide +kernel
theorem witness_generation : fixedBar.count ≠ 0 ∧ fixedBar.byZero = false ∧ fixedBar.count ≤ fixedBar.arrived.length ∧ (barred m0).wgs.map (fun g => SMap.find 1 g.bars) = [some fixedBar] := by decide +kernel
theorem test_bar_waits : after (.bar 1 1) m0 (fun t => (t.warp.frag.state, t.warp.frag.wait, t.warp.frag.pc)) = some (.waiting, .bar 1 1, 4) := by decide +kernel
theorem test_bar_count : after (.bar 2 1) m0 (fun t => t.warp.trapCode) = some 2 := by decide +kernel
theorem test_gbar_no_gang : after (.gbar 0) m0 (fun t => t.warp.trapCode) = some 0x0F := by decide +kernel

/-- Lane 0 with a copy descriptor at 0x200: one dimension of one 4-byte element from 0x400 to 0x800. -/
def my : State := guarded 1 (kreg 8 0x200 (stored 0x200 8 0x00020101 (stored 0x208 8 0x400 (stored 0x210 8 0x800 (stored 0x228 4 1 m0)))))

def waitingEngine (s : State) : State := { s with copyJobs := (List.range 128).map fun i => { id := i, cluster := 0, engine := i % 2, uid := 1, launch := 1, asid := 1, core := 0, slot := 0, pc := 0, lane := 0, desc := 0, esize := 0, zero := true, src := 0, dst := 0, cnt := 0, cinc := 0, dims := [], index := 0, written := false, parked := none } }
theorem witness_copies_held : (let s := holding (opWith (.store 4 false) [laneAt 0 0x100 0x30100 .request]) my
     s.releaseBusy = true ∧ s.performers ≠ 0 ∧ s.Issues { op := 0x94, d := .resv, a := addr64F 0xC8 false, b := .resv } ∧ s.Issues { op := 0x96, d := .resv, a := addr64F 0xC8 false, b := .resv } ∧
     s.Issues { op := 0x97, d := .resv, a := addr64F 0xC8 false, b := .resv } ∧ s.Issues { op := 0x95, d := .resv, a := addr64F 0xC8 false, b := .opd 0xC9 0x02 1 1 true false }) ∧
    (let s := waitingEngine my
     s.engineRoom (clusterOf s.warp.core) < (lanesOf s.performers).length ∧ s.Issues { op := 0x94, d := .resv, a := addr64F 0xC8 false, b := .resv }) ∧
    (let s := kreg 9 2 my
     (s.srcU 0xC9).toNat % 4 ≠ 0 ∧ s.performers ≠ 0 ∧ s.Issues { op := 0x95, d := .resv, a := addr64F 0xC8 false, b := .opd 0xC9 0x02 1 1 true false }) := by decide +kernel
theorem witness_copies : misaligned my.performers 64 (my.addr64Plain 0xC8) = 0 ∧ my.slotsFull = false ∧ my.releaseBusy = false ∧ (lanesOf my.performers).length ≤ my.engineRoom (clusterOf my.warp.core) ∧ my.performers ≠ 0 ∧
    my.Issues { op := 0x94, d := .resv, a := addr64F 0xC8 false, b := .resv } ∧ my.Issues { op := 0x95, d := .resv, a := addr64F 0xC8 false, b := .opd 0xC9 0x02 1 1 true false } ∧
    my.Issues { op := 0x96, d := .resv, a := addr64F 0xC8 false, b := .resv } ∧ my.Issues { op := 0x97, d := .resv, a := addr64F 0xC8 false, b := .resv } ∧ (my.srcU 0xC9).toNat % 4 = 0 ∧ my.warp.resident = true ∧
    (match my.clearElig.preLanes my.performers .r (my.addr64Plain 0xC8) with
      | (u, .ok places) => (match u.readLanes 256 places with
        | some (v, xs) => let t := v.submitCopies 0xC8 xs
          decide (t.warp = my.warp) && (xs.all fun e => copyOk (leBytes 256 e.2)) && decide ((t.copyJobs.filter fun j => decide (v.nextOp ≤ j.id)).map (·.id) ≠ [])
        | none => false) && (match u.readLanes 64 places with
        | some (v, xs) => decide ((v.submitXfers true 0xC8 xs).warp = my.warp) && decide ((v.submitXfers false 0xC8 xs).warp = my.warp)
        | none => false)
      | _ => false) = true := by decide +kernel
theorem witness_copies_empty : (guarded 0 my).performers = 0 ∧ (guarded 0 my).Issues { op := 0x94, d := .resv, a := addr64F 0xC8 false, b := .resv } ∧
    (guarded 0 my).Issues { op := 0x95, d := .resv, a := addr64F 0xC8 false, b := .opd 0xC9 0x02 1 1 true false } ∧ (guarded 0 my).Issues { op := 0x96, d := .resv, a := addr64F 0xC8 false, b := .resv } ∧
    (guarded 0 my).Issues { op := 0x97, d := .resv, a := addr64F 0xC8 false, b := .resv } ∧ misaligned (guarded 0 my).performers 64 (my.addr64Plain 0xC8) = 0 ∧
    (lanesOf (guarded 0 my).performers).length ≤ (guarded 0 my).engineRoom (clusterOf my.warp.core) ∧ (guarded 0 my).slotsFull = false ∧ (guarded 0 my).releaseBusy = false := by decide +kernel
theorem witness_descriptors : copyOk (leBytes 256 0) = false ∧ xferOk true (leBytes 64 0) = false ∧ xferOk false (leBytes 64 0) = false ∧ copyOk (leBytes 256 (0x00020101 + 2 ^ 64 * 0x400 + 2 ^ 128 * 0x800 + 2 ^ 320)) = true := by decide +kernel
theorem test_cpy : after (.cpy 0xC8) my (fun t => t.copyJobs.map fun j => (j.esize, j.src, j.dst, j.dims.map (·.1))) = some [(2, 0x400, 0x800, [1])] := by decide +kernel
theorem test_cpy_y_waits : after (.cpyY 0xC8 0xC9) my (fun t => t.warp.frag.state) = some .waiting := by decide +kernel

/-- RWR of k3 to the warp of slot 1 that `rw` adds; and the fields of RWR and FETCHW. -/
def rw : State := guarded 1 (kreg 12 (4 + 2 ^ 16) { m0 with warps := [{ m0.warp with uid := 9, slot := 1 }] })
def rwrIns : Ins := { op := 0x98, d := .remote 0xC3 (if rw.wide then 2 else 1), a := .opd 0xC3 0x0A 1 1 true false, b := .opd 0xCC 0x02 1 1 true false }
def fetchwIns : Ins := { op := 0x99, d := .resv, a := .opd 0xC3 0x0A 1 1 true false, b := .resv }

theorem witness_rwr : rw.Issues rwrIns ∧ rw.performers ≠ 0 ∧ rw.slotsFull = false ∧ rw.releaseBusy = false ∧ field (rw.srcU 0xCC) 8 8 = 0 ∧
    (rw.rwrTarget rw.warp.uid (clusterOf rw.warp.core * 4 + field (rw.srcU 0xCC) 0 2) (field (rw.srcU 0xCC) 2 6) (field (rw.srcU 0xCC) 16 48) 0xC3 false).isSome = true ∧
    (guarded 0 rw).performers = 0 ∧ (guarded 0 rw).Issues rwrIns ∧ (guarded 0 rw).Issues fetchwIns := by decide +kernel
theorem witness_fetchw : rw.Issues fetchwIns ∧ (rw.src 0xC3 false 0) % 32 = 0 ∧ (kreg 3 4 rw).src 0xC3 false 0 % 32 ≠ 0 ∧ (kreg 3 4 rw).Issues fetchwIns ∧
    (kreg 3 1024 rw).src 0xC3 false 0 % 32 = 0 ∧ (kreg 3 1024 rw).sramSize < 1024 + 32 ∧ (rw.wg.map fun g => decide (g.fetch.length < 4) && g.fetch.all fun r => r.mailbox != 0) = some true ∧ 0 + 32 ≤ rw.sramSize := by decide +kernel
theorem test_rwr_posts : after (.rwr 0xC3 0xC3 0xCC) (kreg 3 7 rw) (fun t => t.rwrs.map fun r => (r.slot, r.code, rd r.vals 0)) = some [(1, 0xC3, 7)] := by decide +kernel
theorem test_fetchw_mailbox : after (.fetchw 0xC3) { rw with sram := [(rw.sramBase, 1)] } (fun t => (t.sramRead 0 8, t.wgs.map (·.seq))) = some (0, [1]) := by decide +kernel

/-- Lane 0 with a call block of service 0x01 at 0x240. -/
def mz : State := guarded 1 (kreg 8 0x240 (stored 0x240 8 0x77 (stored 0x248 8 0x1 m0)))
def syscIns : Ins := { op := 0x9E, d := .opd 6 0x11 2 2 false true, a := addr64F 0xC8 false, b := srcF 0xC4 false }

theorem witness_sysc : mz.Issues syscIns ∧ misaligned mz.performers 64 (mz.addr64Plain 0xC8) = 0 ∧ mz.slotsFull = false ∧ mz.releaseBusy = false ∧ mz.performers ≠ 0 ∧ (guarded 0 mz).performers = 0 ∧ (guarded 0 mz).Issues syscIns ∧
    (match mz.clearElig.preLanes mz.performers .r (mz.addr64Plain 0xC8) with
      | (u, .ok places) => (match u.readLanes 64 places with
        | some (v, xs) => let t := State.submitCalls (v.newOp (.sysc 6) [] []) 0xC8 0xC4 v.nextOp xs
          decide (t.warp = mz.warp) && ((t.opOf v.nextOp).any fun o => !o.lanes.isEmpty)
        | none => false)
      | _ => false) = true ∧ callOk (leBytes 64 (2 ^ 511)) = false := by decide +kernel
theorem witness_call_joins : (let c : Call := { id := 1, asid := 1, callId := 0x77, nr := 1, args := [], token := 0, result := none, subs := [] }
    c.asid = 1 ∧ c.callId = BitVec.ofNat 64 (recField (leBytes 64 0x77) 0 8)) := by decide +kernel
theorem test_sysc_call : after (.sysc 6 0xC8 0xC4) (kreg 4 7 mz) (fun t => (t.calls.map fun c => (c.asid, c.callId, c.nr, c.token), t.warp.frag.state)) = some ([(1, 0x77, 1, 7)], .waiting) := by decide +kernel

/-- A region with budgets, and a warp with two more blocks and two tiles. -/
def roomy (s : State) : State :=
  { s with launches := s.launches.map fun l => { l with path := [{ RegionItems.empty with rcb := 0x100000, warps := 64, rblk := 256, tileb := 64, sramKib := 512 }] } }
def mu : State := { roomy m0 with warp := { m0.warp with quota := 2, tquota := 2 } }
/-- A core whose slots leave nothing free. -/
def mfull : State := { mu with warps := (List.range 12).map fun i => { m0.warp with uid := 10 + i, slot := 1 + i } }
def rrelIns (n : Nat) : Ins := { op := 0x9B, d := .resv, a := .imm, b := .imm, bad := decide (11 < (BitVec.ofNat 16 n).toNat) }
def trelIns (n : Nat) : Ins := { op := 0x9D, d := .resv, a := .imm, b := .imm, bad := decide (8 < (BitVec.ofNat 16 n).toNat) }

theorem witness_acquire : mu.grp.solo = false ∧ mu.Issues (acquireIns 0x9A 0 0 2 11) ∧ mu.Issues (acquireIns 0x9A 1 2 2 11) ∧ mu.Issues (acquireIns 0x9C 0 0 2 8) ∧ mu.Issues (acquireIns 0x9C 1 2 2 8) ∧
    mu.warp.quota + 2 ≤ 11 ∧ mu.warp.tquota + 2 ≤ 8 ∧ ((mu.acqWaiting mu.warp.core false).isEmpty && mu.canAcquire mu.warp 2 false) = true ∧ ((mu.acqWaiting mu.warp.core true).isEmpty && mu.canAcquire mu.warp 2 true) = true ∧
    11 < mu.warp.quota + 10 ∧ mu.Issues (acquireIns 0x9A 0 0 10 11) ∧ 8 < mu.warp.tquota + 7 ∧ mu.Issues (acquireIns 0x9C 0 0 7 8) := by decide +kernel
theorem witness_acquire_waits : mfull.Issues (acquireIns 0x9A 0 0 9 11) ∧ mfull.warp.quota + 9 ≤ 11 ∧ ((mfull.acqWaiting mfull.warp.core false).isEmpty && mfull.canAcquire mfull.warp 9 false) = false ∧
    mfull.Issues (acquireIns 0x9C 0 0 6 8) ∧ ((mfull.acqWaiting mfull.warp.core true).isEmpty && mfull.canAcquire mfull.warp 6 true) = false := by decide +kernel
theorem witness_release : mu.Issues (rrelIns 1) ∧ 1 ≤ mu.warp.quota ∧ (∀ o ∈ mu.ops, o.uid ≠ mu.warp.uid) ∧ mu.Issues (rrelIns 3) ∧ mu.warp.quota < 3 ∧ mu.Issues (trelIns 1) ∧ 1 ≤ mu.warp.tquota ∧
    mu.tilesBusy (mu.warp.tquota - 1) = false ∧ mu.Issues (trelIns 3) ∧ mu.warp.tquota < 3 := by decide +kernel
theorem test_racq_try : after (.racq 1 2 2) mu (fun t => (t.warp.quota, t.warp.pred 2)) = some (4, BitVec.allOnes 64) := by decide +kernel
theorem test_rrel_drops : after (.rrel 1) (lanes 31 [(0, 5)] (lanes 32 [(0, 6)] mu)) (fun t => (t.warp.quota, rd t.warp.v (31 * 64), rd t.warp.v (32 * 64))) = some (1, 5, 0) := by decide +kernel
theorem test_tacq_too_many : after (.tacq 0 0 7) mu (fun t => t.warp.trapCode) = some 5 := by decide +kernel

/-! Matrix and tiles. -/

/-- FP16 operands and an FP32 accumulator in format block 0. -/
def mm : State := kreg 0 0x44 m0

theorem witness_mma : mm.Issues (mmaIns 0xA0 0 (2 : BitVec 3).toNat 8 16) ∧ mm.active = BitVec.allOnes 64 ∧ (formatBlock (mm.mmaBlock (0 : BitVec 4).toNat)).ok mm.grp.repIx 2 = true ∧
    mm.mmaTrap (formatBlock (mm.mmaBlock 0)) 2 = none ∧ mm.mmaHeld (tileMask 2 1) = false ∧ (guarded 1 mm).Issues (mmaIns 0xA0 0 2 8 16) ∧ (guarded 1 mm).active ≠ BitVec.allOnes 64 ∧
    m0.Issues (mmaIns 0xA0 0 2 8 16) ∧ (formatBlock (m0.mmaBlock 0)).ok m0.grp.repIx 2 = false ∧
    (let s : State := kreg 0 0x300 m0
     (formatBlock (s.mmaBlock 0)).ok s.grp.repIx 6 = true ∧ (formatBlock (s.mmaBlock 0)).tiles = 2) ∧
    (let s : State := kreg 0 0x300 { m0 with warp := { m0.warp with tquota := 7 } }
     s.Issues (mmaIns 0xA0 0 6 8 16) ∧ s.warp.tquota < 6 + (formatBlock (s.mmaBlock 0)).tiles) := by decide +kernel
theorem witness_mmas : mm.Issues (mmaIns 0xA1 0 2 8 16) ∧ tileMask 2 1 &&& ~~~mm.warp.ts ≠ 0 ∧ mm.grantedReq = none ∧
    ((mm.acqWaiting mm.warp.core true).isEmpty && mm.canAcquire mm.warp (popByte (tileMask 2 1)) true) = false ∧
    (roomy mm).Issues (mmaIns 0xA1 0 2 8 16) ∧ (roomy mm).grantedReq = none ∧ ((roomy mm).acqWaiting mm.warp.core true).isEmpty = true ∧ (roomy mm).canAcquire (roomy mm).warp (popByte (tileMask 2 1)) true = true ∧
    tileMask 2 1 &&& ~~~({ mm with warp := { mm.warp with ts := 0xFF } } : State).warp.ts = 0 := by decide +kernel
/-- The MMA of `mm` on its way. -/
def mma : State := match exec (.mma 0 0 2 8 16) mm with
  | .next t => t
  | _ => mm
theorem witness_mma_completes : (match mma.opOf 1, mma.opOf 0 with
    | some o, _ => decide ((mma.findWarp o.uid).isSome) && decide ((mma.ownEarlier o).length = 0) && decide (o.flightTiles = 4)
    | none, some o => decide ((mma.findWarp o.uid).isSome) && decide ((mma.ownEarlier o).length = 0) && decide (o.flightTiles = 4)
    | none, none => false) = true := by decide +kernel
theorem test_mma_sets_f : after (.mma 0 0 2 8 16) mm (fun t => (t.warp.tf, t.ops.length, t.warp.frag.pc)) = some (4, 1, 4) := by decide +kernel
theorem test_mma_partial : after (.mma 0 0 2 8 16) (guarded 1 mm) (fun t => t.warp.trapCode) = some 7 := by decide +kernel
theorem test_mmas_waits : after (.mmas 0 0 2 8 16) mm (fun t => t.warp.frag.state) = some .waiting := by decide +kernel
/-- The example of R67: sixteen products of 2^-24 on an accumulator of 1.0 under FP16 operands, and products that cancel. -/
def halves (f : Nat → Nat) : SMap Word := (List.range 8).foldl (fun m r => wr m r (BitVec.ofNat 32 (f (2 * r) + 65536 * f (2 * r + 1)))) []
theorem test_mma_element : ({ f := formatBlock 0x44, kx := 0, wm := 7, a := halves fun _ => 1, b := halves fun _ => 0x3C00, sram := [] } : MmaIn).element 0 0 (some 0x3F800000) = 0x3F800008 ∧
    ({ f := formatBlock 0x44, kx := 0, wm := 7, a := halves fun k => if k < 8 then 1 else 0x8001, b := halves fun _ => 0x3C00, sram := [] } : MmaIn).element 0 0 (some 0x3F800000) = 0x3F800000 := by decide +kernel
theorem test_mma_element_int : ({ f := formatBlock 0x1AA, kx := 0, wm := 7, a := [(0, 0x80)], b := [(0, 0x80)], sram := [] } : MmaIn).element 0 0 (some 5) = 16389 := by decide +kernel

/-- The reserved bits of TMOV in direction `r`, outside a repeated group. -/
def movIll (d a : Code) (r : Nat) : Bool := (decide (8 ≤ m0.baseByte 0 d) && (r == 1 || r == 2)) || (decide (8 ≤ m0.baseByte 1 a) && (r == 0 || r == 2))
theorem witness_tiles : m0.grp.rep = none ∧ m0.Issues (tmaskIns 0xA6 3 false) ∧ m0.tileBusy 3 = false ∧ m0.Issues (tmaskIns 0xA2 3 (m0.warp.splitsPair 3)) ∧ m0.Issues (tmaskIns 0xA3 3 (m0.warp.splitsPair 3)) ∧
    m0.Issues { op := 0xA9, d := .tile (2 : BitVec 3).toNat (if m0.wide then 2 else 1), a := srcF 5 m0.wide, b := .imm, bad := m0.wide && (2 : BitVec 3).toNat % 2 == 1 } ∧
    m0.Issues { op := 0xA8, d := vecF 16 8 8 false true, a := .tile ((2 : Code).toNat % 8) 1, b := .low3, ill := movIll 16 2 0 } ∧
    m0.Issues { op := 0xA8, d := .tile ((2 : Code).toNat % 8) 1, a := vecF 16 8 8 true false, b := .low3, ill := movIll 2 16 1 } ∧
    m0.Issues { op := 0xA8, d := .tile ((2 : Code).toNat % 8) 1, a := .tile ((3 : Code).toNat % 8) 1, b := .low3, ill := movIll 2 3 2, bad := (0 : BitVec 1) == 1 || (0 : BitVec 3) != 0 } ∧
    m0.Issues { op := 0xA7, d := .tile 1 1, a := .tile 0 1, b := .opd 0xF5 0x1E 1 1 true false, bad := m0.grp.rep.isSome && m0.grp.step 2 != 0 } := by decide +kernel
theorem test_tfill_row : after (.tfill 1 5 0) (guarded 2 (lanes 5 [(1, 9)] m0)) (fun t => (rd t.warp.tiles (4096 + 64), rd t.warp.tiles (4096 + 65), rd t.warp.tiles 4096, t.warp.tv)) = some (9, 9, 0, 2) := by decide +kernel
theorem test_tmov_out : vAfter (.tmov 16 0 0 0 1) { m0 with warp := { m0.warp with tiles := [(8, 7), (73, 3)] } } 16 0 = some 7 ∧
    vAfter (.tmov 16 0 0 0 1) { m0 with warp := { m0.warp with tiles := [(8, 7), (73, 3)] } } 17 1 = some 3 := by decide +kernel
theorem test_tzero : after (.tzero 1) { m0 with warp := { m0.warp with tiles := [(8, 7), (4096, 3)] } } (fun t => (t.warp.tiles, t.warp.td)) = some ([(4096, 3)], 1) := by decide +kernel
theorem test_mcommit : after (.mcommit 1) { m0 with warp := { m0.warp with tiles := [(8, 7)], shadow := [(9, 3)], ts := 1 } } (fun t => (t.warp.tiles, t.warp.ts, t.warp.tv)) = some ([(9, 3)], 0, 1) := by decide +kernel

/-- Lane 1 at a row of 256 bytes at 0x200. -/
def mr : State := guarded 2 (lanes 2 [(1, 0x200)] m0)

theorem witness_tile_moves : mr.tileBusy (tileMask 3 1) = false ∧ mr.slotsFull = false ∧ mr.acquiring = false ∧ mr.Issues (tileIns 0xA4 3 2 0) ∧ misaligned mr.active 16 (mr.memAddr 2 0) = 0 ∧ mr.active ≠ 0 ∧
    mr.Issues (tileIns 0xA5 3 2 0) ∧ misaligned mr.doers 16 (mr.memAddr 2 0) = 0 ∧
    (lanesOf mr.doers).any (fun l => (rowParts l (mr.memAddr 2 0 l)).any fun p => mr.storeMeetsLoad (laneBit l) (if p.2.2 = 0 then 256 else p.2.2) (fun _ => p.2.1)) = false ∧
    (match mr.openRows mr.active (.tileLoad 3 false false) (mr.memAddr 2 0) with
      | (u, ls, fs) => decide (u.warp = mr.warp) && !ls.isEmpty && fs.isEmpty && ls.all fun l => !l.stage.parked) = true ∧
    (match mr.openRows mr.doers (.tileStore 3 false false) (mr.memAddr 2 0) with
      | (u, ls, fs) => decide (u.warp = mr.warp) && !ls.isEmpty && fs.isEmpty && ls.all fun l => !l.stage.parked) = true ∧
    mr.Issues (sramTileIns 0xAA 3 2) ∧ misaligned mr.active 16 (fun l => BitVec.ofNat 64 (mr.sramOffset 2 l)) = 0 ∧ mr.sramOut mr.active 256 (mr.sramOffset 2) = 0 ∧ mr.Issues (sramTileIns 0xAB 3 2) ∧
    mr.sramOut mr.doers 256 (mr.sramOffset 2) = 0 ∧ mr.doers = laneBit 1 := by decide +kernel
theorem witness_tile_moves_empty : (let s := guarded 0 mr
    s.Issues (tileIns 0xA4 3 2 0) ∧ s.Issues (tileIns 0xA5 3 2 0) ∧ s.Issues (sramTileIns 0xAA 3 2) ∧ s.Issues (sramTileIns 0xAB 3 2) ∧ s.active = 0 ∧ s.doers = 0 ∧ misaligned s.active 16 (s.memAddr 2 0) = 0 ∧
    s.tileBusy (tileMask 3 1) = false ∧ s.slotsFull = false) := by decide +kernel
theorem witness_tile_completions : (let o := opWith (.tileLoad 3 false false) [laneAt 1 0x200 0 .served]
    (holding o m0).opOf 5 = some o ∧ (holding o m0).findWarp o.uid = some m0.warp ∧ o.lanes.all fun q => q.stage == .served) ∧
    (let o := opWith (.tileStore 3 false false) [laneAt 1 0x200 0 .done]
     (holding o m0).opOf 5 = some o ∧ (holding o m0).findWarp o.uid = some m0.warp) ∧ (let o := opWith (.port 3 true) []
     (holding o m0).opOf 5 = some o ∧ (holding o m0).findWarp o.uid = some m0.warp ∧ o.kind = .port 3 true) := by decide +kernel
theorem test_tile_load_writes : after (.tileMoveCompletion 5) (holding { opWith (.tileLoad 3 true true) [laneAt 1 0x200 0 .served] with data := [(64, 9), (66, 4)] } m0)
    (fun t => (t.warp.elem 3 0 1, t.warp.elem 3 2 1, t.warp.tv, t.warp.td, t.ops.length)) = some (9, 4, 8, 8, 0) := by decide +kernel
theorem test_tstS : after (.tstS 0 3 2) { mr with warp := { mr.warp with tiles := [(3 * 4096 + 64, 0x55)] } } (fun t => t.sramRead 0x200 4) = some 0x55 := by decide +kernel

/-! Textures, rays, and the instructions of geometry and fragment warps. -/

/-- Lane 0, a descriptor at 0x240 in k6 and k7, and in memory an image of one R8 texel at 0x300. -/
def mg : State := guarded 1 (kreg 6 0x240 (stored 0x240 8 0x01010001 (stored 0x248 8 0x300 (stored 0x300 1 0xFF m0))))
def texIns (op : Nat) : Ins := { op := op, d := vecF 16 4 4 false true, a := vecF 20 4 4 true false, b := handleF 0xC6 }

theorem witness_textures : mg.Issues (texIns 0xC0) ∧ (∀ l, l < 64 → mg.active.getLsbD l → BitVec.ofNat 64 (mg.src 0xC6 true l) = 0x240) ∧ mg.active ≠ 0 ∧ mg.slotsFull = false ∧ (guarded 0 mg).Issues (texIns 0xC0) ∧ (guarded 0 mg).active = 0 ∧
    mg.Issues { op := 0xC1, d := vecF 16 8 8 false true, a := vecF 20 4 4 true false, b := handleF 0xC6 } ∧
    mg.Issues { op := 0xC2, d := vecF 16 4 4 false true, a := .opd 20 0x3B 1 1 true false, b := handleF 0xC6 } := by decide +kernel
theorem witness_texture_held : (let s := { mg with ops := (List.range 64).map fun i => { opWith (.load .plain 4 true false 4) [laneAt 0 0x100 0x30100 .request] with id := i } }
     s.slotsFull = true ∧ s.active ≠ 0 ∧ s.Issues (texIns 0xC0)) := by decide +kernel
theorem witness_texture_handles : (let s := guarded 3 (lanes 6 [(1, 64)] m0)
    s.Issues { op := 0xC0, d := vecF 16 4 4 false true, a := vecF 20 4 4 true false, b := handleF 6 } ∧ lowest s.active = some 0 ∧
    (maskOf fun j => s.active.getLsbD j && BitVec.ofNat 64 (s.src 6 true j) != BitVec.ofNat 64 (s.src 6 true 0)) ≠ 0) := by decide +kernel
theorem witness_trace : mg.Issues { op := 0xC3, d := .imm, a := vecF 8 8 8 true false, b := handleF 0xC6 } ∧ mg.slotsFull = false ∧ mg.performers ≠ 0 ∧
    (∀ l, l < 64 → mg.warp.tracing 1 l = false) ∧ mg.Issues { op := 0xC4, d := vecF 16 8 8 false true, a := .imm, b := .resv } := by decide +kernel
/-- The TEX of `mg` on its way, and the same once its descriptor is kept. -/
def texOn (mode : Nat) : Op := { opWith (.tex mode 16 0x240) [laneAt 0 0x240 0 .request] with data := [] }
def kept (o : Op) (x : Nat) (n : Nat) : Op := { o with bytes := SMap.insert (2 ^ 21) 1 ((leBytes n x).zipIdx.foldl (fun m e => wr m e.2 e.1) o.bytes) }
def image1 : Nat := 0x01010001 + 2 ^ 64 * 0x300
theorem witness_texture_result : (let s := holding (texOn 0) mg
    s.opOf 5 = some (texOn 0) ∧ s.findWarp (texOn 0).uid = some s.warp ∧ ((texOn 0).lanes.all fun q => q.stage == .request && decide (q.lane < 64)) ∧ (texOn 0).descBytes 64 = none ∧
    (match s.pathRead (texOn 0) 0x240 64 with
      | (_, .ok bs) => (imageOf bs).isSome
      | _ => false) = true) := by decide +kernel
theorem witness_texture_samples : (let o := kept (texOn 0) image1 64
    let s := holding o mg
    match o.descBytes 64, o.lanes with
    | some bs, [l] => (match imageOf bs with
      | some i => (match i.sampleTaps (fun _ => 0) (clampLod (f32Value (i.lambda (rhoSquared (fun x => (o.lane x).isSome) (fun _ _ => 0) [i.w, i.h] l.lane) 0)) (i.levels - 1)) with
        | some ts => (match s.pathReads o ((ts.filter fun t => t.2 != 0).filterMap fun t => t.1.map fun a => (a, texelBytes i.fmt)) with
          | (u, .ok xs) => decide (u.findWarp o.uid = some s.warp) && decide (u.opOf 5 = some o) && decide ((i.sampled (ts.filter fun t => t.2 != 0) xs).length = 4)
          | _ => false)
        | none => false)
      | none => false)
    | _, _ => false) = true := by decide +kernel
theorem witness_texture_query : (let o := kept (texOn 2) image1 64
    (holding o mg).opOf 5 = some o ∧ (o.descBytes 64).any (fun bs => (imageOf bs).isSome)) ∧
    (let o := kept (texOn 0) 0 64
     (o.descBytes 64).any fun bs => (imageOf bs).isNone && (materialOf bs).isNone) := by decide +kernel
/-- The material has one channel, one hidden neuron and one output over a grid of one texel. -/
theorem witness_material : (let o := kept (texOn 1) (2 + 2 ^ 16 + 2 ^ 24 + 2 ^ 32 + 2 ^ 48 + 2 ^ 64 * 0x300 + 2 ^ 192 * 0x400) 64
    let s := holding o mg
    match o.descBytes 64 with
    | some bs => (match materialOf bs with
      | some mt => (match mt.gridTaps 0 0 0 with
        | some ts => (match s.pathReads o (mt.latentReads ts ++ weightReads mt.layers mt.weights) with
          | (u, .ok xs) => decide (u.findWarp o.uid = some s.warp) && decide (u.opOf 5 = some o) && decide ((mt.outputs ts (xs.take (mt.latentReads ts).length) (xs.drop (mt.latentReads ts).length)).length = 8)
          | _ => false)
        | none => false)
      | none => false)
    | none => false) = true := by decide +kernel
theorem test_texq_size : after (.textureResult 5) (holding (kept (texOn 2) (0x01010001 + 2 ^ 64 * 0x300 + 2 ^ 128 * 6 + 2 ^ 144 * 4) 64) mg)
    (fun t => (t.findWarp 1).map fun w => (rd w.v (16 * 64), rd w.v (17 * 64), rd w.v (18 * 64), rd w.v (19 * 64))) = some (some (7, 5, 1, 1)) := by decide +kernel
/-- A ray of lane 0 in slot 1 that points along x. -/
def ray1 (ws : List Word) : Ray := { running := true, parked := none, addr := 0x240, words := ws, hit := missRecord 0, op := 5, restarts := 0 }
def rayOn (ws : List Word) (o : Op) : State := { holding o mg with warp := { mg.warp with rays := [(64, ray1 ws)] } }
def along : List Word := [0, 0, 0, 0, 0x3F800000, 0, 0, 0x41200000]
theorem witness_rays : (let o := { opWith (.trace 1) [] with data := [(0, 0x240)] }
    let s := rayOn along o
    s.findWarp 1 = some s.warp ∧ (SMap.find 64 s.warp.rays).any (fun r => r.running && r.parked.isNone) ∧ s.opOf 5 = some o ∧ o.uid = 1 ∧ o.descBytes 32 = none ∧
    (match s.pathRead o 0x240 32 with
      | (_, .ok bs) => !traceOk bs
      | _ => false) = true) ∧ rayMisses along = false ∧ rayMisses [0x7FC00000, 0, 0, 0, 0, 0, 0, 0] = true ∧ traceOk (leBytes 32 0x300) = true := by decide +kernel
theorem test_ray_nan_misses : after (.rayTraversalEnd 1 1 0) (rayOn [0x7FC00000, 0, 0, 0, 0, 0, 0, 0] (kept { opWith (.trace 1) [] with data := [(0, 0x240)] } 0x300 32))
    (fun t => (t.findWarp 1).map fun w => w.tracing 1 0) = some (some false) := by decide +kernel

/-- Warps of the other kinds. -/
def geo : State := guarded 1 { m0 with warp := { m0.warp with kind := .geometry } }
def frg : State := guarded 1 { m0 with warp := { m0.warp with kind := .fragment } }
def attrIns (w : BitVec 1) (i : BitVec 2) : Ins := { op := 0xC6, d := vecF 8 4 4 (w == 1) (w == 0), a := .imm, b := .resv, bad := w == 1 && i != 0 }
def primIns : Ins := { op := 0xC5, d := .resv, a := srcF 3 false, b := .resv }
def expfIns : Ins := { op := 0xC7, d := .imm, a := vecF 8 4 4 true false, b := .imm, bad := decide (9 ≤ (2 : BitVec 4).toNat) }
def killIns : Ins := { op := 0xC8, d := .resv, a := .resv, b := .resv }

theorem witness_graphics : geo.Issues primIns ∧ (∀ l, l < 64 → geo.performers.getLsbD l → primOk (BitVec.ofNat 32 (geo.src 3 false l))) ∧ geo.Issues (attrIns 1 0) ∧ frg.Issues (attrIns 0 2) ∧ frg.Issues expfIns ∧
    frg.Issues killIns ∧ frg.Issues primIns ∧ frg.Issues (attrIns 1 0) ∧ frg.warp.kind ≠ .geometry ∧ geo.Issues (attrIns 0 2) ∧ geo.Issues expfIns ∧ geo.Issues killIns ∧ geo.warp.kind ≠ .fragment := by decide +kernel
/-- A fragment warp whose quad shows a point at pixel (0, 0). -/
def pointPass : Pass := { launch := 1, desc := [], committed := 0, nextSeq := 1, prims := [{ seq := 0, kind := 2, verts := [[(3, 0x3F800000), (5, 7)]], front := true, drawn := [] }], arena := 0, frags := [], waiting := [], reruns := [], geoInv := 0, primSub := 0, primCull := 0, primBin := 0, fragInv := 0, occ := 0, replays := 0 }
def frq : State := { frg with warp := { frg.warp with quads := [{ prim := 0, px := 0, py := 0 }] }, passes := [pointPass] }
theorem witness_attribute_read : frq.Issues (attrIns 0 2) ∧ frq.active = laneBit 0 ∧ (frq.readAttr 1 2 0).length = 4 := by decide +kernel
theorem test_attr_flat : vAfter (.attr 8 0 2 1) frq 9 0 = some 7 := by decide +kernel
theorem test_attr_write : after (.attr 8 1 0 2) (lanes 9 [(0, 5)] geo) (fun t => t.warp.vattr) = some [(9, 5)] := by decide +kernel
theorem test_prim_kind_trap : after (.prim 3) m0 (fun t => t.warp.trapCode) = some 0x10 := by decide +kernel
theorem test_prim_point : after (.prim 3) (lanes 3 [(0, 0x20000000)] geo) (fun t => t.warp.prims.map fun p => (p.kind, p.verts.length)) = some [(2, 1)] := by decide +kernel
theorem test_expf_done : after (.expf 2 8 1) (lanes 8 [(0, 6)] frg) (fun t => (t.warp.exports.map fun e => (e.lane, e.tgt, e.vals), t.warp.doneMask)) = some ([(0, 2, [6, 0, 0, 0])], 1) := by decide +kernel
theorem test_kill : after .kill frg (fun t => (t.warp.helper, t.warp.killed, t.warp.frag.mask)) = some (1, 1, BitVec.allOnes 64) := by decide +kernel

/-! Handlers. -/

def so : State := soloed m0
def withHandler (h : Solo) (s : State) : State := { s with warp := { s.warp with solo := some h } }

theorem witness_handler_registers : so.grp.solo = true ∧ so.warp.solo = some loadedHandler ∧ so.inPrologue = false ∧ so.Issues { op := 0xD0, d := hkDst 1, a := .imm, b := .imm } ∧
    so.Issues { op := 0xD1, d := hkSrc 1, a := .imm, b := .imm } ∧ (so.csr loadedHandler 0x100).isSome = true ∧ so.csr loadedHandler 0x200 = none ∧ loadedHandler.csrWrite 1 0 = none ∧
    (loadedHandler.csrWrite 7 1).isSome = true ∧ so.Issues { op := 0xD4, d := hkDst 1, a := .imm, b := hkLit 2, bad := !frozenCode 3 } ∧
    so.Issues { op := 0xD5, d := .imm, a := hkLit 1, b := hkLit 2, bad := !frozenCode 0xF9 } ∧ so.frozenBusy 3 = false ∧ so.frozenBusy 0xF9 = false ∧ loadedHandler.fragMask.getLsbD 0 = true ∧
    3 < 16 * (so.warp.quota + 1) ∧ (let t := withHandler { loadedHandler with h := [(2, 64)] } so
      64 ≤ (t.srcU 2).toNat ∧ t.Issues { op := 0xD4, d := hkDst 1, a := .imm, b := hkLit 2, bad := !frozenCode 3 }) := by decide +kernel
theorem test_csrr_trapcode : after (.csrr 1 1) so (fun t => t.warp.solo.map fun h => rd h.h 1) = some (some 0x12) := by decide +kernel
theorem test_csrw_trappc : after (.csrw 1 0) (withHandler { loadedHandler with h := [(1, 0x80)] } so) (fun t => t.warp.solo.map fun h => (h.trapPc, h.sstatus)) = some (some (0x80, 0x10)) := by decide +kernel
theorem test_csrw_reserved : after (.csrw 1 7) (withHandler { loadedHandler with h := [(1, 3)] } so) (fun t => t.warp.solo.isNone) = some true := by decide +kernel
theorem test_vget : after (.vget 1 3 2) (lanes 3 [(5, 9)] (withHandler { loadedHandler with h := [(2, 5)] } so)) (fun t => t.warp.solo.map fun h => rd h.h 1) = some (some 9) := by decide +kernel
theorem test_vset_predicate : after (.vset 0xF9 1 2) (withHandler { loadedHandler with h := [(1, 1), (2, 5)] } so) (fun t => t.warp.pred 1) = some 0x20 := by decide +kernel
theorem witness_returns : loadedHandler.entry = so.warp.fragIx ∧ so.warp.debug = false ∧ so.Issues { op := 0xD2, d := .resv, a := .resv, b := .resv } ∧ so.handLoads = false ∧ field loadedHandler.sstatus 0 2 = 0 ∧
    so.Issues { op := 0xD6, d := .resv, a := .resv, b := .resv } ∧ field ({ loadedHandler with sstatus := 1 } : Solo).sstatus 0 2 = 1 ∧ field ({ loadedHandler with sstatus := 2 } : Solo).sstatus 0 2 = 2 ∧
    (holding { opWith (.kload 3) [laneAt 0 0x100 0x30100 .request] with uid := so.warp.uid } so).handLoads = true := by decide +kernel
theorem test_rett : after .rett (withHandler { loadedHandler with trapPc := 0x40, slrpc := 0x39, repcnt := 3, swmode := 0x87 } so)
    (fun t => (t.warp.frag.state, t.warp.frag.pc, t.warp.frag.repcnt, t.warp.frag.wmode, t.warp.solo.isNone)) = some (.ready, 0x38, 3, 0x87, true) := by decide +kernel
theorem test_rett_kills : after .rett (withHandler { loadedHandler with sstatus := 1, trapMask := 0xF } so) (fun t => t.warp.liveLanes) = some (~~~0xF#64) := by decide +kernel
theorem test_park : after .park (withHandler { loadedHandler with trapPc := 0x40 } so) (fun t => (t.warp.frag.state, t.warp.frag.wait, t.warp.frag.pc)) = some (.waiting, .parked, 0x40) := by decide +kernel

/-- Handlers with h1 and h2 as given, and a mailbox at 0x400 with four slots. -/
def so2 (h1 h2 : Nat) (s : State) : State := withHandler { loadedHandler with h := [(1, BitVec.ofNat 64 h1), (2, BitVec.ofNat 64 h2)].filter fun e => e.2 != 0 } s
def mailbox (s : State) : State := stored 0x410 1 2 { s with launches := s.launches.map fun l => { l with path := [{ RegionItems.empty with rcb := 0x100000, upcallmb := 0x400 }] } }

theorem witness_tlbi : (let s := so2 0 (2 ^ 16) so
    s.Issues { op := 0xD3, d := .resv, a := hkSrc 1, b := hkSrc 2 } ∧ field (s.srcU 2) 0 2 ≠ 3 ∧ field (s.srcU 2) 2 14 = 0 ∧ field (s.srcU 2) 32 32 = 0 ∧ field (s.srcU 2) 0 2 ≠ 2 ∧ (s.srcU 2).extractLsb' 16 16 = s.asid ∧
    s.throughBusy (s.tlb.filter fun _ => true) = false) ∧ (let s := so2 0 2 so
     s.Issues { op := 0xD3, d := .resv, a := hkSrc 1, b := hkSrc 2 } ∧ field (s.srcU 2) 0 2 = 2 ∧ (s.warp.solo.all fun h => !h.sstatus.getLsbD 5)) := by decide +kernel
theorem test_tlbi_privilege : after (.tlbi 1 2) (so2 0 2 so) (fun t => t.warp.solo.isNone) = some true := by decide +kernel
theorem witness_wake : (let s := so2 (2 ^ 16) 0 so
    s.Issues { op := 0xD7, d := kDstF 3, a := hkSrc 1, b := .resv } ∧ field (s.srcU 1) 14 2 = 0 ∧
    (s.allWarps.find? fun w => w.placedOn && w.core == field (s.srcU 1) 0 8 && w.slot == field (s.srcU 1) 8 6 && w.launch % 2 ^ 48 == field (s.srcU 1) 16 48) = some s.warp ∧ s.asidOf s.warp.launch = s.asid) ∧
    (let s := so2 (2 ^ 17) 0 so
     s.Issues { op := 0xD7, d := kDstF 3, a := hkSrc 1, b := .resv } ∧
     s.allWarps.find? (fun w => w.placedOn && w.core == field (s.srcU 1) 0 8 && w.slot == field (s.srcU 1) 8 6 && w.launch % 2 ^ 48 == field (s.srcU 1) 16 48) = none) := by decide +kernel
theorem witness_upcall : (let s := mailbox so
    let mb := (s.region s.warp.launch).upcallmb
    s.Issues { op := 0xD8, d := .resv, a := .imm, b := .imm } ∧ s.handLoads = false ∧ s.releaseBusy = false ∧ mb ≠ 0 ∧ mb.toNat % 64 = 0 ∧
    (match s.pre mb .rmw with
      | (u, .ok q) => !placePeer q && (let v := u.mergeBytes (placePa q) 64
        let slot := mb + BitVec.ofNat 64 (64 + 256 * (v.memRead (placePa q + 8) 8 % 4))
        decide (v.memRead (placePa q + 16) 1 = 2) && (match v.pre slot .rmw with
          | (u0, .ok q0) => !placePeer q0 && (match u0.pre (slot + 128) .rmw with
            | (u2, .ok q2) => !placePeer q2 && decide (u2.warp = s.warp) && decide (u2.grp = s.grp) && decide ((placePa q0) / 4096 = (placePa q0 + 64) / 4096)
            | _ => false)
          | _ => false))
      | _ => false) = true) ∧ (so.region so.warp.launch).upcallmb = 0 ∧ so.Issues { op := 0xD8, d := .resv, a := .imm, b := .imm } ∧ (stored 0x408 8 4 (mailbox so)).memRead 0x30408 8 = 4 := by decide +kernel
theorem test_upcall : after (.upcall 0x40) (mailbox so) (fun t => (t.memRead 0x30408 8, t.memRead 0x30440 8, t.warp.solo.map (·.wait))) = some (1, 0x40 + 2 ^ 32 * 0x12, some (.upcall 0x440)) := by decide +kernel
theorem test_upcall_full : after (.upcall 0x40) (stored 0x408 8 4 (mailbox so)) (fun t => (t.memRead 0x30408 8, t.warp.solo.map (·.wait))) = some (4, some (.upcall 0x401)) := by decide +kernel
theorem test_upcall_no_mailbox : after (.upcall 1) so (fun t => t.warp.solo.isNone) = some true := by decide +kernel

/-! Service cores. -/

/-- Service core 0 in M-mode, x11 and x12 as given. -/
def sv (x11 x12 : Nat) (s : State) : State :=
  { s with svcs := [(0, { x := [(11, BitVec.ofNat 64 x11), (12, BitVec.ofNat 64 x12)].filter fun e => e.2 != 0, pc := 0x30000, priv := 3, asid := 0, waiting := false, epc := 0, cause := 0, watch := none, resv := none })] }
/-- A spawn record at 0x30040: one warp, an RCB at 0x100. -/
def record (s : State) : State := (s.memWrite 0x30048 8 0x100).memWrite 0x30058 4 1

theorem witness_spawn : ((sv 0x30040 1 m0).svc 0).priv ≠ 0 ∧ (((sv 0x30040 1 m0).svc 0).reg 11).toNat % 64 = 0 ∧ (((sv 0x30041 1 m0).svc 0).reg 11).toNat % 64 ≠ 0 ∧
    (match (sv 0x30040 1 m0).svcLoads 0 0x30040 8 with
      | (_, .ok head) => decide (recField (head.flatMap fun x => leBytes 8 x.toNat) 24 4 = 0)
      | _ => false) = true ∧
    (match (sv 0x30040 1 (record m0)).svcLoads 0 0x30040 8 with
      | (u, .ok head) => let bs := head.flatMap fun x => leBytes 8 x.toNat
        recZero bs 29 64 && decide (recField bs 24 4 = 1) && decide (recField bs 28 1 = 0) && (match u.svcLoads 0 0x30080 0 with
          | (x, .ok _) => (x.ctxs.any fun y => y.asid == 1) && x.rcbInContext 1 0x100 && !(x.ctxs.any fun y => y.asid == 2)
          | _ => false)
      | _ => false) = true ∧ (({ sv 0 0 m0 with svcs := [(0, { (sv 0 0 m0).svc 0 with priv := 0 })] } : State).svc 0).priv = 0 := by decide +kernel
theorem test_spawn_malformed : after (.psvSpawn 10 11 12) (sv 0x30040 1 m0) (fun t => ((t.svc 0).reg 10, (t.svc 0).pc)) = some (1, 0x30004) := by decide +kernel
theorem test_spawn_context : after (.psvSpawn 10 11 12) (sv 0x30040 2 (record m0)) (fun t => (t.svc 0).reg 10) = some 2 := by decide +kernel
theorem witness_psv_cwait : (((sv 0x30080 3 m0).svc 0).reg 11).toNat % 8 = 0 ∧ (((sv 0x30084 3 m0).svc 0).reg 11).toNat % 8 ≠ 0 ∧
    (match (sv 0x30080 3 m0).svcReach 0 0x30080 .r loadPageFault loadAccessFault with
      | (u, .ok place) => !placePeer place && placeHome place != 1 && !u.bytesOwned (placePa place) 8 && decide ((u.mergeBytes (placePa place) 8).memQ (placePa place) < 3)
      | _ => false) = true := by decide +kernel
theorem test_psv_cwait : after (.psvCwait 10 11 12) (sv 0x30080 3 (m0.memWrite 0x30080 8 5)) (fun t => ((t.svc 0).reg 10, (t.svc 0).pc)) = some (5, 0x30004) ∧
    after (.psvCwait 10 11 12) (sv 0x30080 6 (m0.memWrite 0x30080 8 5)) (fun t => ((t.svc 0).waiting, (t.svc 0).pc)) = some (true, 0x30000) := by decide +kernel

/-! Memory events. -/

theorem witness_load_data : (let l := laneAt 1 0x200 0x30200 .request
    let o := opWith (.load .plain 4 false false 3) [l]
    let s := holding o m0
    s.request 5 1 = some (o, l) ∧ placePeer l.pa = false ∧ s.bytesOwned 0x30200 4 = false ∧ s.inOrder o 0x200 0x30200 4 true = true ∧ s.clusterStoring o.core 0x30200 4 = false ∧ (s.nearRead o.core 0x30200 4).isNone) ∧
    (let l := laneAt 0 0x200 0x30200 .request
     let o := opWith (.kload 0xC1) [l]
     let s := holding o m0
     s.request 5 0 = some (o, l) ∧ placePeer l.pa = false ∧ s.bytesOwned 0x30200 8 = false ∧ s.inOrder o 0x200 0x30200 8 true = true ∧ s.clusterStoring o.core 0x30200 8 = false ∧ (s.nearRead o.core 0x30200 8).isNone) ∧
    (let l := { laneAt 1 0x200 0x30200 .served with val := 9 }
     [OpKind.load .plain 4 false false 3, .load .nc 16 false false 4, .atom 0 7 3, .cadd 2, .kload 0xC1, .kload 3].all (fun k => let o := opWith k [l]
      decide ((holding o so).opOf 5 = some o) && decide (o.lane 1 = some l) && ((holding o so).findWarp o.uid).isSome && o.kind.returns) = true) := by
  simp only []
  decide +kernel
/-- The line of 0x200 in the L1 of core 0, whose word there is 7, and a load of it. -/
def nearLoad : Op := opWith (.load .plain 4 false false 3) [laneAt 1 0x200 0x30200 .request]
def nearCopy : State := (holding nearLoad m0).setWord (l1Of 0) (0x30200 / 4) fun i => if i = 0 then 7 else 0
theorem witness_load_near : nearCopy.opOf 5 = some nearLoad ∧ nearLoad.lane 1 = some (laneAt 1 0x200 0x30200 .request) ∧ nearLoad.waitsPart (laneAt 1 0x200 0x30200 .request) = false ∧ nearLoad.kind.tileMove = false ∧
    nearCopy.near nearLoad (laneAt 1 0x200 0x30200 .request) = some 7 := by decide +kernel
theorem test_load_near : after (.loadDataReturn 5 1) nearCopy (fun t => ((t.findWarp 1).map fun w => rd w.v (3 * 64 + 1), t.ops.length)) = some (some 7, 0) := by decide +kernel
theorem test_load_byte_signed : after (.loadDataReturn 5 1) (holding (opWith (.load .plain 1 true false 3) [{ laneAt 1 0x200 0x30200 .served with val := 0x80 }]) m0)
    (fun t => (t.findWarp 1).map fun w => rd w.v (3 * 64 + 1)) = some (some 0xFFFFFF80) := by decide +kernel
theorem test_load_served : after (.homeRequestService 5 1) (holding (opWith (.load .plain 2 false false 3) [laneAt 1 0x200 0x30200 .request]) (stored 0x200 4 0x12345678 m0))
    (fun t => (t.opOf 5).map fun o => o.lanes.map fun q => (q.stage, q.val)) = some (some [(.served, 0x5678)]) := by decide +kernel

theorem witness_store : (let l := laneAt 1 0x200 0x30200 .request
    let o := { opWith (.store 4 false) [l] with data := [(4, 9)] }
    let s := holding o m0
    s.opOf 5 = some o ∧ o.lane 1 = some l ∧ s.findWarp o.uid = some s.warp ∧ placePeer l.pa = false ∧ o.waitsPart l = false ∧ s.bytesOwned 0x30200 4 = false ∧ s.inOrder o 0x200 0x30200 4 false = true ∧
    o.lanesBefore l = false) ∧ (let l := { laneAt 1 0x200 0x30200 .served with aux := 2 }
     let o := opWith (.mcas 3 1) [l]
     let s := holding o m0
     s.opOf 5 = some o ∧ o.lane 1 = some l ∧ s.findWarp o.uid = some s.warp ∧ placePeer l.pa = false ∧ o.waitsPart l = false ∧ s.bytesOwned 0x30200 256 = false ∧ 1 < l.aux.toNat % 16 ∧
     ∀ j, j < 8 → s.inDram (0x30200 + 24 + 24 + j) = true) := by decide +kernel
theorem test_store_registers : after (.storeRegistration 5 1) (holding { opWith (.store 2 false) [laneAt 1 0x200 0x30200 .request] with data := [(4, 0x12345678)] } (stored 0x200 4 0xFFFFFFFF m0))
    (fun t => (t.memRead 0x30200 4, t.ops.length)) = some (0xFFFF5678, 0) := by decide +kernel

theorem witness_atomics_served : (let l := laneAt 1 0x200 0x30200 .request
    [OpKind.atom 0 7 3, .cadd 3, .red 0 7 false, .red 0 8 true, .mcas 3 1].all (fun k => let o := opWith k [l]
      let s := holding o m0
      decide (s.request 5 1 = some (o, l)) && (s.findWarp o.uid).isSome && !placePeer l.pa && !s.bytesOwned 0x30200 256 && s.inOrder o 0x200 0x30200 256 false && !s.clusterStoring o.core 0x30200 256) = true) ∧
    (∀ i, i < 8 → (stored 0x200 8 (2 ^ 64 - 1) m0).inDram (0x30200 + i) = true) ∧ (stored 0x200 8 (2 ^ 64 - 1) m0).memRead 0x30200 8 + 1 ≥ 2 ^ 64 ∧
    (placeCached 0x30200 && !(false && decide (8 ≤ 7)) && !m0.watched 0x30200) = true ∧ (placeCached 0x30200 && !(true && decide (8 ≤ 8)) && !m0.watched 0x30200) = false ∧ m0.comm = [] := by decide +kernel
theorem test_cadd_saturates : after (.homeRequestService 5 1) (holding { opWith (.cadd 3) [laneAt 1 0x200 0x30200 .request] with data := [(4, 2)] } (stored 0x200 8 (2 ^ 64 - 1) m0)) (fun t => t.memRead 0x30200 8) =
    some (2 ^ 64 - 1) := by decide +kernel

/-- A block at 0x400 of one wide entry that expects 5 at 0x200 and writes 9. -/
def block (x : Nat) : State := stored 0x200 8 x (stored 0x400 2 0x0101 (stored 0x410 8 0x200 (stored 0x418 8 5 (stored 0x420 8 9 m0))))
def mcasOn (s : State) : State := holding (opWith (.mcas 3 1) [laneAt 1 0x400 0x30400 .request]) s
theorem witness_mcas : (let s := mcasOn (block 5)
    let o := opWith (.mcas 3 1) [laneAt 1 0x400 0x30400 .request]
    let m := s.mergeBytes 0x30400 256
    s.request 5 1 = some (o, laneAt 1 0x400 0x30400 .request) ∧ s.bytesOwned 0x30400 256 = false ∧ s.inOrder o 0x400 0x30400 256 false = true ∧ s.clusterStoring 0 0x30400 256 = false ∧
    mcasEntries 0x400 (fun i => m.memByte (0x30400 + i)) = some [{ addr := 0x200, size := 8, expect := 5, new := 9 }] ∧
    (match (m.viaOp o).translateIn 1 0x200 .rmw o.sys ((m.viaOp o).ownOf 1).1 with
      | (u, .ok p _) => decide (p = 0x30200) && !placePeer p && !u.bytesOwned 0x30200 8 && u.inOrder o 0x200 0x30200 8 false
      | _ => false) = true) ∧ mcasEntries 0x400 (fun i => m0.memByte (0x30400 + i)) = none := by decide +kernel
theorem test_mcas_succeeds : after (.mcasLaneEvent 5 1) (mcasOn (block 5)) (fun t => (t.memRead 0x30200 8, t.ops.length, (t.findWarp 1).map fun w => (w.pred 1, rd w.v (3 * 64 + 1)))) = some (9, 0, some (2, 0)) := by decide +kernel
theorem test_mcas_fails : (match exec (.mcasLaneEvent 5 1) (mcasOn (block 6)) with
    | .next t => (after (.storeRegistration 5 1) t fun u => (t.memRead 0x30200 8, (t.findWarp 1).map (fun w => (w.pred 1, rd w.v (3 * 64 + 1))), t.memRead 0x30418 8, u.memRead 0x30418 8, u.ops.length))
    | _ => none) = some (6, some (0, 1), 5, 6, 0) := by decide +kernel
theorem test_mcas_format : after (.mcasLaneEvent 5 1) (mcasOn m0) (fun t => (t.sfrlost, t.launches.map (·.killed), t.ops.length)) = some (1, [true], 0) := by decide +kernel
theorem test_red_partial : after (.redPartialUpdate 5 1) (holding { opWith (.red 0 7 false) [laneAt 1 0x200 0x30200 .request] with data := [(4, 7)] } m0)
    (fun t => (t.memRead 0x30200 4, t.comm.map (fun c => (c.line, c.parts.map (·.2))), t.ops.length)) = some (0, [(0x30200 / 128, [7])], 0) := by decide +kernel

/-- A page of peer device 2. -/
def peerPlace : Nat := 2 * 2 ^ 55 + 2 ^ 54 + 0x30200
/-- The warp of `m0` in an open latch chain that restarts at 0x40. -/
def chained : State := { m0 with clock := 9, warp := { m0.warp with heldGrp := some { entry := 0, grp := m0.grp, since := 4, off := false }, chainLen := 1, latValid := 1, frag := { m0.warp.frag with lrpc := some 0x40 } } }
theorem witness_parked : (let l := laneAt 1 0x200 0 (.retry 0)
    [OpKind.load .plain 4 false false 3, .store 4 false].all (fun k => let o := opWith k [l]
      let s := holding o m0
      decide (s.opOf 5 = some o) && decide (o.lane 1 = some l) && decide ((o.lanes.filter fun m => m.stage.isRetry) = [l]) && (s.findWarp o.uid).isSome && match (s.viaOp o).translateIn o.asid l.va o.kind.acc o.sys (s.ownOf o.uid).1 with
        | (u, .ok p _) => (o.kind.homeRule p).isNone && u.inOrder o 0x200 (placePa p) (l.bytes o.kind) true
        | _ => false) = true) ∧ (let l := laneAt 1 (2 ^ 60) 0 (.retry 0)
     let o := opWith (.load .plain 4 false false 3) [l]
     (match ((holding o m0).viaOp o).translateIn o.asid l.va o.kind.acc o.sys ((holding o m0).ownOf o.uid).1 with
       | (_, .fault _ _ _) => true
       | _ => false) = true) ∧ (let l := laneAt 1 0x200 peerPlace .request
     [OpKind.load .plain 4 false false 3, .store 4 false].all (fun k => let o := opWith k [l]
      decide ((holding o m0).request 5 1 = some (o, l)) && placePeer l.pa && !(holding o m0).peerBefore o l) = true) ∧
    chained.findWarp 1 = some chained.warp ∧ chained.warp.chainOpen = true ∧ chained.warp.heldGrp.all (fun g => decide (g.since + 4 < chained.clock)) = true ∧ chained.warp.heldGrp.isSome = true := by
  simp only []
  decide +kernel
theorem test_retry : after (.fillWaiterRetry 5 1) (holding (opWith (.load .plain 4 false false 3) [laneAt 1 0x200 0 (.retry 0)]) m0) (fun t => (t.opOf 5).map (·.lanes)) = some (some [laneAt 1 0x200 0x30200 .request]) := by decide +kernel
/-- Context 1 with credential 6 (R423). -/
def credited (s : State) : State := { s with ports := wr s.ports 0x100000 (BitVec.ofNat 64 (6 * 2 ^ 32)) }
theorem witness_credited : m0.credOf 1 = 0 ∧ (credited m0).credOf 1 = 6 ∧ placeId peerPlace ≠ (credited m0).selfId := by decide +kernel
theorem test_peer_load : after (.peerPageAccess 5 1 (.answer (.data [1, 2, 3, 4, 5]))) (credited (holding (opWith (.load .plain 4 false false 3) [laneAt 1 0x200 peerPlace .request]) m0))
    (fun t => (t.opOf 5).map fun o => o.lanes.map fun q => (q.stage, q.val)) = some (some [(.served, 0x04030201)]) := by decide +kernel
theorem test_peer_denied : after (.peerPageAccess 5 1 (.answer .denied)) (credited (holding (opWith (.load .plain 4 false false 3) [laneAt 1 0x200 peerPlace .request]) m0)) (fun t => (t.sfrlost, t.ops.length)) = some (1, 0) := by decide +kernel
theorem test_force_off : after (.latchChainForceOff 1) chained (fun t => (t.findWarp 1).map fun w => (w.latValid, w.frag.pc, w.frag.lrpc)) = some (some (0, 0x40, none)) := by decide +kernel

/-- Memory cells, each run given as (offset, bytes, value). -/
def cellsAt (base : Nat) (fs : List (Nat × Nat × Nat)) : List Host.Cell :=
  fs.flatMap fun f => ((leBytes f.2.1 f.2.2).zipIdx.map fun e => (base + f.1 + e.2, e.1)).filter fun e => e.2 != 0
/-- The tables of `m0` and its word, then a region at 0x800 of context 1 with a budget of each kind, and a kernel of one warp at 0x900. -/
def ctxCells : List Host.Cell :=
  [(0x10000, 1), (0x10002, 2), (0x20000, 1), (0x20001, 16), (0x20002, 2), (0x21000, 1), (0x21001, 32), (0x21002, 2), (0x22000, 61), (0x22002, 3), (0x30003, 1)] ++
  cellsAt 0x30800 [(0x10, 2, 1), (0x14, 4, 0x7FFF), (0x18, 2, 64), (0x1A, 2, 1536), (0x1C, 2, 512), (0x20, 4, 1024), (0x27, 1, 1)] ++
  cellsAt 0x30900 [(0x10, 1, 16), (0x18, 2, 64), (0x1A, 2, 1), (0x1C, 2, 1), (0x1E, 1, 1)]
def ctx1 : State := { m0 with mem := ctxCells, ctxs := [{ asid := 1, ptroot := 0x10000, rootRcb := 0x800 }], readyf := 0xFFFFFFFF }

def req1 : LaunchReq := { asid := 1, root := 0x800, kd := 0x900, rcb := 0x800, gx := 1, gy := 1, gz := 1, gang := false, persist := false, geometry := false, initial := 0, params := 0, given := none, done := 0, queue := none, hint := 0, join := 0, leader := none, handoff := none }

/-- Blocks of 64 KiB at 0x10000; the leader entry of the first stands at 0x22080. -/
def region1 : QRegion := { asid := 1, blkLog2 := 16, maxDepth := 4, reclaim := true, rights := 7, pageLog2 := 12, base := 0x10000, size := 65536, genKd := 0x900, genParam := 7, genRcb := 0x800 }
def fill1 : Fill := { leader := 0x22080, asid := 1, block := 0x10000, depth := 1, launch := none, backing := [0x400000], edges := [], held := false }
def filling : State := { ctx1 with regions := [region1], fills := [fill1] }
def filled : State := { ctx1 with regions := [region1], filledOrder := [0x22080], watermark := [(homeDie 0x22080, 1)] }.memWrite 0x22080 8 (0x40003D + 2 ^ 61 + 2 ^ 63)

theorem witness_generator : (let x := (filling.stock []).backFills (homeDie 0x22080)
    x.fillOf 0x22080 = some fill1 ∧ x.fills.find? (fun g => homeDie g.leader == homeDie 0x22080 && g.launch.isNone) = some fill1 ∧ fill1.held = false ∧ x.feReady (4 * homeDie 0x22080) = true ∧
    x.regionOf 1 0x10000 = some region1 ∧ (let req : LaunchReq := { asid := 1, root := (((x.ctxs.find? fun c => c.asid == 1).map (·.rootRcb)).getD 0), kd := 0x900, rcb := 0x800, gx := 1, gy := 1, gz := 1, gang := false, persist := false, geometry := false, initial := 0, params := 0, given := some [0x10000, 65536, 7, 1], done := 0, queue := none, hint := 0, join := 0, leader := some 0x22080, handoff := none }
     (match x.resolve req with
       | (_, .ok kd _ ps _) => decide (kd.regs = 16) && decide (ps.length = 4)
       | _ => false) = true ∧ (match x.resolve { req with kd := 0xA00 } with
       | (_, .reject 2) => true
       | _ => false) = true)) := by decide +kernel
theorem witness_reclaim : (filled.pool (homeDie 0x22080)).length < filled.mark (homeDie 0x22080) ∧ (let s : State := { filled with reclaiming := [homeDie 0x22080], pools := [(homeDie 0x22080, [0x600000])] }
     homeDie 0x22080 ∈ s.reclaiming ∧ (s.pool (homeDie 0x22080)).length = s.mark (homeDie 0x22080)) ∧
    (let s : State := { filled with pools := [(homeDie 0x22080, [0x600000, 0x800000])] }
     s.mark (homeDie 0x22080) < (s.pool (homeDie 0x22080)).length) ∧ filled.filledOrder = [] ++ 0x22080 :: [] ∧ filled.blockAt 0x22080 = some (region1, 0x10000) ∧
    eFill (filled.memQ 0x22080) = 2 ∧ (∀ i, i < 8 → filled.inDram (0x22080 + i) = true) ∧ filled.rangeBusy (ePa (filled.memQ 0x22080)) (2 ^ 16) = false ∧
    (∀ i, i < 2 ^ 16 / 128 → filled.lineOwned (lineOf (ePa (filled.memQ 0x22080)) + i) = false) := by decide +kernel
theorem test_generator : after (.generatorLaunch 0x22080 []) filling (fun t => (t.launches.map fun l => (l.params, l.generator, l.unplaced)).getLast?) = some (some ([0x10000, 65536, 7, 1], some 0x22080, [0])) := by decide +kernel
theorem test_reclaim : after (.pressureReclaim { die := homeDie 0x22080, mark := none }) filled (fun t => (eFill (t.memQ 0x22080), t.pool (homeDie 0x22080), t.filledOrder)) = some (0, [0x400000], []) := by decide +kernel

/-- Page 1 of `m0` as a COW page of frame 0x400000, whose first word is 7. -/
def cowPage : State := ({ m0 with readyf := 0xF }.memWrite 0x22008 8 (0x400025 + 2 ^ 60)).memWrite 0x400000 4 7
theorem witness_pages : (field (0x200 : DWord) 52 12 = 0 ∧ m0.tlbFind 1 0x200 = none ∧ (match m0.lookup 1 0x200 with
      | .leaf l => (rightsCheck l.entry .r true).isNone && !eQs l.entry
      | _ => false) = true) ∧
    ((match m0.walk 1 0x5000 with
      | .miss => true
      | _ => false) = true ∧ (let es : List (Nat × DWord) := [(0x22028, 0x40103D)]
     let s : State := { m0 with readyf := 0xF }
     (∀ e ∈ es, eV (s.memQ e.1) = false) ∧ (match s.planned 1 es (fun lo l shared => !shared && s.leafAllowed 1 lo l) with
       | some u => (u.walkLeaf 1 0x5000).isSome && ((s.writePlan es).newLeaves s 1).any fun e => !ePeer e.2.1.entry && !eShared e.2.1.entry && !eCow e.2.1.entry && !eQs e.2.1.entry && s.inDram e.2.1.frame
       | none => false) = true)) ∧
    (match cowPage.walkLeaf 1 0x1000 with
      | some l => let v := cowPage.writePlan []
        eCow l.entry && !eW l.entry && decide (l.at_ = 0x22008) && decide (l.bytes = 4096) && cowPage.inDram 0x600000 && !cowPage.rangeBusy l.frame l.bytes && cowPage.planOk 1 [] && decide (v.comm = []) &&
        decide (v.walkLeaf 1 0x1000 = some l) && decide (v.mapping 1 = cowPage.mapping 1) && v.privateLeaf 1 l && v.cowFrameOk 1 0x1000 l (some 0x600000) && v.cowFrameOk 1 0x1000 l none &&
        decide (l.at_ / 4096 * 4096 + 4096 ≤ 0x600000)
      | none => false) = true := by decide +kernel
theorem test_walk : after (.pageWalk 1 0x200 .r) { m0 with via := [3] } (fun t => t.tlb.map fun e => (e.vpn, e.pages)) = some [(0, 1)] := by decide +kernel
theorem test_miss_zeroes : after (.translationMissResolve 1 0x5000 (some [(0x22028, 0x40103D)])) ({ m0 with readyf := 0xF }.memWrite 0x401008 4 5) (fun t => (t.memRead 0x401008 4, t.memQ 0x22028)) = some (0, 0x40103D) := by decide +kernel
theorem test_cow_in_place : after (.copyOnWrite 1 0x1000 none []) cowPage (fun t => (t.memRead 0x400000 4, t.memQ 0x22008)) = some (7, 0x40002D) := by decide +kernel
theorem test_cow_lent : after (.copyOnWrite 1 0x1000 none []) { cowPage with treg := { cowPage.treg with lends := [{ id := 1, asid := 1, vpns := [1], taken := [], added := [], counter := 0 }] } } (fun t => t.memQ 0x22008) = some (BitVec.ofNat 64 (0x400025 + 2 ^ 60)) := by decide +kernel
theorem test_cow : after (.copyOnWrite 1 0x1000 (some 0x600000) []) cowPage (fun t => (t.memRead 0x600000 4, t.memQ 0x22008)) = some (7, 0x60002D) := by decide +kernel

/-- The fragment of `m0` waits at a CWAIT on 0x30200 for 5, with its value to k1. -/
def watching (v : Nat) : State := stored 0x200 8 v { m0 with warp := { m0.warp with frag := { m0.warp.frag with state := .waiting, wait := .cwait 0x30200 5 0xC1 8 } } }
def handWatching : State := stored 0x200 8 6 (withHandler { loadedHandler with wait := .cwait 0x30200 5 0xC1 8 } so)
/-- An acquisition of two blocks at core 0, in a region with budgets. -/
def acquiring (k : OpKind) : State := { roomy m0 with ops := [opWith k []], warp := { m0.warp with quota := 0, tquota := 0, frag := { m0.warp.frag with state := .waiting, wait := .acquire 5 } } }
theorem witness_watches : (watching 5).findWarp 1 = some (watching 5).warp ∧ ((watching 5).warp.fragAt 0).state = .waiting ∧ ((watching 5).warp.fragAt 0).wait = .cwait 0x30200 5 0xC1 8 ∧
    5 ≤ ((watching 5).mergeBytes 0x30200 8).memQ 0x30200 ∧ ((watching 4).mergeBytes 0x30200 8).memQ 0x30200 < 5 ∧ handWatching.findWarp 1 = some handWatching.warp ∧
    handWatching.warp.solo = some { loadedHandler with wait := .cwait 0x30200 5 0xC1 8 } ∧ 5 ≤ (handWatching.mergeBytes 0x30200 8).memQ 0x30200 := by decide +kernel
theorem witness_grants : ((acquiring (.acquireRegs 2 1 false)).acqWaiting 0 false = [opWith (.acquireRegs 2 1 false) []] ∧ (acquiring (.acquireRegs 2 1 false)).acqWaiting 0 true = [] ∧
      (acquiring (.acquireRegs 2 1 false)).canAcquire (acquiring (.acquireRegs 2 1 false)).warp 2 false = true) ∧
    ((acquiring (.acquireTiles 2 1 false)).acqWaiting 0 true = [opWith (.acquireTiles 2 1 false) []] ∧ (acquiring (.acquireTiles 2 1 false)).acqWaiting 0 false = [] ∧
      (acquiring (.acquireTiles 2 1 false)).canAcquire (acquiring (.acquireTiles 2 1 false)).warp 2 true = true) ∧
    (let s : State := { roomy m0 with ops := [opWith (.shadowReq 3) []], warp := { m0.warp with frag := { m0.warp.frag with state := .waiting, wait := .shadow 5 } } }
     s.acqWaiting 0 true = [opWith (.shadowReq 3) []] ∧ s.canAcquire s.warp (popByte 3) true = true ∧ (s.warp.fragAt 0).wait = .shadow 5) := by decide +kernel
theorem test_watch_wakes : after (.watchWake 1 0) (watching 6) (fun t => (t.findWarp 1).map fun w => (rd w.k 1, w.frag.pc, w.frag.state)) = some (some (6, 8, .ready)) := by decide +kernel
theorem test_poll_waits : after (.watchPoll 1 0) (watching 4) (fun t => (t.findWarp 1).map fun w => (rd w.k 1, w.frag.state)) = some (some (0, .waiting)) := by decide +kernel
theorem test_grant : after (.acquisitionGrant 0) (acquiring (.acquireRegs 2 1 false)) (fun t => ((t.findWarp 1).map fun w => (w.quota, w.frag.state), t.ops.length)) = some (some (2, .ready), 0) := by decide +kernel
theorem test_shadow_grant : after (.shadowGrant 0) { roomy m0 with ops := [opWith (.shadowReq 3) []], warp := { m0.warp with frag := { m0.warp.frag with state := .waiting, wait := .shadow 5 } } }
    (fun t => (t.findWarp 1).map fun w => (w.frag.state, w.frag.wait)) = some (some (.ready, .none)) := by decide +kernel

/-! Replies. -/

def call1 : Call := { id := 9, asid := 1, callId := 77, nr := 0, args := [], token := 0, result := some (BitVec.ofNat 64 0x500000002), subs := [(5, 1)] }
def syscOp : Op := opWith (.sysc 3) [laneAt 1 0x200 0 .request]
def calling : State := { holding syscOp m0 with calls := [call1] }
theorem witness_sysc_reply : calling.opOf 5 = some syscOp ∧ syscOp.kind = .sysc 3 ∧ calling.findWarp 1 = some m0.warp ∧ calling.calls.find? (fun c => c.result.isSome && c.subs.contains (5, 1)) = some call1 ∧
    syscOp.lane 1 = some (laneAt 1 0x200 0 .request) ∧ syscOp.lanes = [laneAt 1 0x200 0 .request] ∧ (laneAt 1 0x200 0 .request).stage ≠ .done := by decide +kernel
theorem test_sysc_reply : after (.syscReply 5 1) calling (fun t => ((t.findWarp 1).map fun w => (rd w.v (3 * 64 + 1), rd w.v (4 * 64 + 1)), t.ops.length)) = some (some (2, 5), 0) := by decide +kernel
theorem test_sysc_resubmit : after (.syscResubmit 5 1) { holding { syscOp with bytes := [(64, 77)] } m0 with calls := [] } (fun t => t.calls.map fun c => (c.callId, c.subs)) = some [(77, [(5, 1)])] := by decide +kernel
theorem test_sysc_resubmit_same : after (.syscResubmit 5 1) { holding { syscOp with bytes := [(64, 77)] } m0 with calls := [{ call1 with subs := [] }] } (fun t => t.calls.map fun c => (c.id, c.result.isSome, c.subs)) =
    some [(9, true, [(5, 1)])] := by decide +kernel

def upcalled (status : Nat) : State := stored 0x448 8 status (stored 0x450 8 3 (stored 0x458 8 4 (withHandler { loadedHandler with wait := .upcall 0x440 } so)))
theorem witness_upcall_reply : (upcalled 1).findWarp 1 = some (upcalled 1).warp ∧ (upcalled 1).warp.solo = some { loadedHandler with wait := .upcall 0x440 } ∧ (0x440 : DWord).getLsbD 0 = false ∧
    (upcalled 1).reach (some ((upcalled 1).asidOf (upcalled 1).warp.launch)) 0x440 .r = some 0x30440 ∧ ((upcalled 1).mergeBytes 0x30440 32).memQ (0x30440 + 8) ≠ 0 ∧
    ((upcalled 0).mergeBytes 0x30440 32).memQ (0x30440 + 8) = 0 ∧ (upcalled 0).warp = (upcalled 1).warp := by decide +kernel
theorem test_upcall_reply : after (.upcallReply 1) (upcalled 1) (fun t => (t.findWarp 1).map fun w => w.solo.map fun h => (rd h.h 0, rd h.h 1, h.wait)) = some (some (some (3, 4, .none))) := by decide +kernel

def rwr1 (code : Code) (lid : Nat) : Rwr := { id := 7, uid := 2, code := code, core := 0, slot := 0, lid48 := lid, wide := false, mask := 2, vals := [(0, 6), (1, 9)], op := 5 }
def writing (r : Rwr) : State := { holding (opWith .rwr []) m0 with rwrs := [r] }
theorem witness_rwr_landing : (writing (rwr1 3 1)).rwrs.find? (fun r => r.id == 7) = some (rwr1 3 1) ∧ (writing (rwr1 3 1)).rwrTarget 2 0 0 1 3 false = some m0.warp ∧ (writing (rwr1 3 1)).findWarp m0.warp.uid = some m0.warp ∧
    (writing (rwr1 0xC3 1)).rwrTarget 2 0 0 1 0xC3 false = some m0.warp ∧ (writing (rwr1 3 2)).rwrTarget 2 0 0 2 3 false = none ∧ (writing (rwr1 3 2)).opOf 5 = some (opWith .rwr []) ∧
    (∀ e ∈ m0.warp.live, e.2.inGroup = false) := by decide +kernel
theorem test_rwr_lands : after (.rwrLanding 7) (writing (rwr1 3 1)) (fun t => ((t.findWarp 1).map fun w => (rd w.v (3 * 64 + 1), rd w.v (3 * 64)), t.rwrs.length)) = some (some (9, 0), 0) := by decide +kernel
theorem test_rwr_target : after (.rwrLanding 7) (writing (rwr1 3 2)) (fun t => (t.sfrlost, t.ops.length, t.rwrs.length)) = some (1, 0, 0) := by decide +kernel

/-- A workgroup of a persistent launch that asks for work: mailbox 32, sequence number 3. -/
def asking (persist : Bool) : State :=
  { m0 with wgs := m0.wgs.map (fun g => { g with fetch := [{ mailbox := 32, seq := 3 }] }), launches := m0.launches.map fun l => { l with persist := persist, gx := 4, unplaced := [3, 2] } }
theorem witness_fetchw_reply : (match (asking true).wgOf 1 0, (asking true).launchOf 1 with
    | some g, some ln => decide (g.fetch = { mailbox := 32, seq := 3 } :: []) && g.onCore && ln.persist && ln.unplaced.contains 2 && ln.unplaced.all (2 ≤ ·)
    | _, _ => false) = true ∧ (match (asking false).wgOf 1 0, (asking false).launchOf 1 with
    | some g, some ln => decide (g.fetch = { mailbox := 32, seq := 3 } :: []) && g.onCore && !ln.persist
    | _, _ => false) = true := by decide +kernel
theorem test_fetchw : after (.fetchwReply 1 0) (asking true) (fun t => (t.sramRead 32 4, t.sramRead 36 4, t.sramRead 40 4)) = some (1, 3, 2) := by decide +kernel
theorem test_fetchw_none : after (.fetchwReply 1 0) (asking false) (fun t => (t.sramRead 32 4, t.sramRead 36 4)) = some (2, 3) := by decide +kernel

/-- Generations that opened at clock 1, in a region with BARTMO 1 whose time has passed. -/
def late : State :=
  { m0 with
    clock := 801
    warp := { m0.warp with frag := { m0.warp.frag with state := .waiting, wait := .bar 2 2 } }
    launches := m0.launches.map fun l => { l with path := [{ RegionItems.empty with rcb := 0x800, bartmo := 1 }] }
    wgs := m0.wgs.map fun g => { g with bars := [(2, { gen := 0, count := 2, byZero := false, arrived := [0], since := 1, timedOut := false })], gbars := [(3, { gen := 0, arrived := true, since := 1, timedOut := false })] } }
theorem witness_timeout : (late.region 1).bartmo = 1 ∧ (match late.wgOf 1 0 with
    | some g => (match SMap.find 2 g.bars with
      | some b => !b.timedOut && decide (b.since ≠ 0) && decide (b.since + 800 ≤ late.clock)
      | none => false)
    | none => false) = true ∧ late.gridOpen 1 3 = (1, false) := by decide +kernel
theorem test_timeout : after (.barTimeout 1 0 false 2) late (fun t => (t.sfrlost, (t.wgOf 1 0).map fun g => g.bars.map fun b => b.2.timedOut)) = some (1, some [true]) := by decide +kernel

/-! Engines. -/

/-- A copy of two words from 0x200 to 0x280, whose counter at 0x300 takes 5. -/
def job1 : CopyJob := { id := 3, cluster := 0, engine := 0, uid := 1, launch := 1, asid := 1, core := 0, slot := 0, pc := 0, lane := 0, desc := 0x400, esize := 2, zero := false, src := 0x200, dst := 0x280, cnt := 0x300, cinc := 5, dims := [(2, 4, 4)], index := 0, written := false, parked := none }
def copying (j : CopyJob) : State := stored 0x204 4 8 (stored 0x200 4 7 { m0 with copyJobs := [j] })
theorem witness_copy : (copying job1).copyJobs.find? (fun k => k.id == 3) = some job1 ∧ (copying job1).copyHead job1 = true ∧ job1.parked = none ∧
    (match (copying job1).engineReach job1 0x200 .r with
      | (u, some p) => decide (p = 0x30200) && !u.ownedBefore job1 0x30200 4 && (match (u.mergeBytes 0x30200 4).engineReach job1 0x280 .w with
        | (v, some q) => decide (q = 0x30280) && !placePeer q && !v.ownedBefore job1 0x30280 4
        | _ => false)
      | _ => false) = true ∧ (match (copying job1).engineReach job1 0x300 .rmw with
      | (u, some p) => (counterTrap p 0 0x300).isNone && !u.bytesOwned (placePa p) 8 && decide ((u.mergeBytes (placePa p) 8).memRead (placePa p) 8 + 5 < 2 ^ 64)
      | _ => false) = true := by decide +kernel
theorem test_copy_second : after (.copyEngineCopy 3) (copying { job1 with index := 1 }) (fun t => (t.memRead 0x30284 4, t.memRead 0x30280 4, t.copyJobs.map (·.written))) = some (8, 0, [true]) := by decide +kernel
theorem test_copy_counts : after (.copyCompletion 3) (copying { job1 with written := true, index := 2 }) (fun t => (t.memRead 0x30300 8, t.copyJobs.length)) = some (5, 0) := by decide +kernel

/-- Window 0 gives all devices READ and DEPOSIT with credential 6 to context 1's first page; its landing counter is at 0x300. -/
def windowed (s : State) : State :=
  { s with ports := [(0x4000, BitVec.ofNat 64 0x00010101), (0x4010, 4096), (0x4018, 0x300), (0x4020, BitVec.ofNat 64 (0x700 + 2 ^ 16 * 6))].foldl (fun m e => wr m e.1 e.2) s.ports }
def xreq (cred : BitVec 32) : XferReq := { requester := 9, window := 0, offset := 0x200, len := 4, cred := cred, recips := [9, 5], landWin := 1, dstOff := 0x40 }
def drop1 (cred : BitVec 32) : Deposit := { requester := 9, window := 0, offset := 0x280, cred := cred, bytes := [1, 2, 3, 4] }
/-- A peer's request that has arrived. -/
def arrived (x : Xfer) (s : State) : State := { s with nextOp := s.nextOp + 1, xfers := s.xfers ++ [x] }
def asked (cred : BitVec 32) (s : State) : Xfer :=
  { s.foreignXfer true 9 cred with expWin := 0, src := 0x200, len := 4, recips := [9, 5], landWin := 1, dstOff := 0x40 }
def dropped (s : State) : Xfer := { s.foreignXfer false 9 6 with landWin := 0, dstOff := 0x280, data := some [1, 2, 3, 4], len := 4 }
def mWin : State := windowed (stored 0x200 4 7 m0)
theorem witness_source : mWin.windowCheck 0 9 9 5 0x200 4 = none ∧ (mWin.windowCheck 0 9 9 6 0x200 4).isSome = true ∧ [9, 5].contains mWin.selfId = false ∧
    (match (arrived (asked 6 mWin) mWin).letIn (asked 6 mWin) 0 9 0x200 4 with
      | some a => (match ((arrived (asked 6 mWin) mWin).onXfer (asked 6 mWin).id fun y => { y with admitted := some a }).reachRange (asked 6 mWin).who a.asid .r 4100 a.va 4 with
        | (u, .ok ps) => !u.piecesOwned ps
        | _ => false)
      | none => false) = true := by decide +kernel
theorem witness_landing : (mWin.windowCheck 0 10 9 6 0x280 4).isSome = true ∧ mWin.windowCheck 0 10 9 5 0x280 4 = none ∧
    (match (arrived (dropped mWin) mWin).letIn (dropped mWin) 0 10 0x280 4 with
      | some a => (match ((arrived (dropped mWin) mWin).onXfer (dropped mWin).id fun y => { y with admitted := some a }).reachRange (dropped mWin).who a.asid .w 4100 a.va 4 with
        | (u, .ok ps) => !u.piecesOwned ps && decide (a.cnt = 0x300) &&
          (match ((u.writePieces ps [1, 2, 3, 4]).onXfer (dropped mWin).id fun z => { z with landed := true }).agentTranslate (dropped mWin).who a.asid a.cnt .rmw false with
            | (v, .ok q _) => (counterTrap q 0 a.cnt).isNone && !v.bytesOwned (placePa q) 8 && decide ((v.mergeBytes (placePa q) 8).memRead (placePa q) 8 + 1 < 2 ^ 64)
            | _ => false)
        | _ => false)
      | none => false) = true := by decide +kernel
/-- A peer's load of 4 bytes of a page that it maps of this device. -/
def peerLoad (cred : BitVec 32) : PeerAccess := { requester := 9, cred := cred, window := 0, offset := 0x200, len := 4, op := .load }
theorem witness_peer_arrives : (let x : Xfer := { mWin.foreignXfer false 9 6 with expWin := 0, src := 0x200, len := 4, page := some .load }
    (match (arrived x mWin).letIn x 0 9 0x200 4 with
      | some a => (match ((arrived x mWin).onXfer x.id fun y => { y with admitted := some a }).reachRange x.who a.asid .r 2 a.va 4 with
        | (u, .ok ps) => !u.piecesOwned ps
        | _ => false)
      | none => false) = true) := by decide +kernel
theorem test_source : after (.transferSourceRead 0 (some (xreq 6)) .here) mWin (fun t => t.outbox.map fun r => (r.kind, r.bytes.drop 18)) = some [(0x100, [7, 0, 0, 0]), (0x100, [7, 0, 0, 0])] := by decide +kernel
theorem test_source_denied : after (.transferSourceRead 0 (some (xreq 5)) .here) (windowed m0) (fun t => t.outbox.map fun r => (r.kind, r.error)) = some [(0x102, true)] := by decide +kernel
theorem test_landing : after (.transferLanding 0 0 (some (drop1 6)) .here) (windowed m0) (fun t => (t.memRead 0x30280 4, t.memRead 0x30300 8, t.outbox.map (·.kind))) = some (0x04030201, 1, [0x101]) := by decide +kernel
theorem test_peer_arrives : after (.peerPageAccess 0 0 (.arrives (peerLoad 6))) mWin (fun t => t.outbox.map fun r => (r.kind, r.bytes)) = some [(0x100, [9, 0, 7, 0, 0, 0])] := by decide +kernel

/-- A PUTX of this device to device 9, with its acknowledgement at 0x300. -/
def put1 (d : Option (List Byte)) (conf : List Nat) : Xfer := { id := 4, uid := 1, launch := 1, asid := 1, core := 0, slot := 0, pc := 0, lane := 0, get := false, desc := 0x400, owner := m0.selfId, recips := [9], expWin := 0, landWin := 0, src := 0x200, dstOff := 0, len := 4, ack := 0x300, cred := 0, group := none, since := 0, parked := none, data := d, answered := conf, confirmed := conf, posted := false, foreign := false, admitted := none, landed := false }
def putting (x : Xfer) : State := stored 0x200 4 7 { m0 with xfers := [x], clock := 10 ^ 9 }
theorem witness_transfers : (putting (put1 none [])).xferOf 4 = some (put1 none []) ∧ (putting (put1 none [])).foreignOf 4 = none ∧ (put1 none []).owner = (putting (put1 none [])).selfId ∧
    (match (putting (put1 none [])).reachRange (put1 none []).who 1 .r 4100 0x200 4 with
      | (u, .ok ps) => !u.piecesOwned ps
      | _ => false) = true ∧ (9 ∈ (put1 (some []) []).recips ∧ 9 ∉ (put1 (some []) []).answered ∧ 9 ≠ (putting (put1 (some []) [])).selfId) ∧ (∀ d ∈ (put1 (some []) [9]).recips, d ∈ (put1 (some []) [9]).confirmed) ∧
    (let g := { put1 none [] with get := true, cred := 6 }
     (match (windowed (putting g)).sourceStage g with
      | (_, .ok bs) => bs == [7, 0, 0, 0]
      | _ => false) = true) ∧
    (match (putting (put1 (some []) [9])).agentTranslate (put1 (some []) [9]).who 1 0x300 .rmw false with
      | (v, .ok q _) => (counterTrap q 0 0x300).isNone && !v.bytesOwned (placePa q) 8 && decide ((v.mergeBytes (placePa q) 8).memRead (placePa q) 8 + 1 < 2 ^ 64)
      | _ => false) = true ∧ (∀ d ∈ (put1 none []).recips, (put1 none []).owner ≤ d) ∧ (put1 none []).since + 800 * (putting (put1 none [])).ptmo.toNat ≤ (putting (put1 none [])).clock ∧
    (let o := opWith (.load .plain 4 false false 3) [laneAt 1 0x200 (2 * 2 ^ 55 + 2 ^ 54 + 0x30200) .request]
     (holding o m0).request 5 1 = some (o, laneAt 1 0x200 (2 * 2 ^ 55 + 2 ^ 54 + 0x30200) .request)) := by decide +kernel
theorem test_confirm : after (.transferConfirm 4) (putting (put1 (some []) [9])) (fun t => (t.memRead 0x30300 8, t.xfers.length)) = some (1, 0) := by decide +kernel
theorem test_timeout_transfer : after (.peerTimeout 4 none) (putting (put1 none [])) (fun t => (t.sfrlost, t.xfers.length)) = some (1, 0) := by decide +kernel

/-! Queues. -/

/-- Queue 0 of context 1: its QCB at 0x200000, its ring of two packets at 0xC00 and its counter pair at 0xB00. `low` gives cells between 0xB00 and the ring, a packet cells of the ring. -/
def queue0 (low pkt : List (Nat × Nat × Nat)) (st step seen waddr wval : Nat) : State :=
  { ctx1 with
    mem := ctxCells ++ cellsAt 0x30000 low ++ cellsAt 0x30C00 pkt ++ cellsAt 0x200000 [(8, 8, seen), (64, 8, 0xC00), (72, 2, 1), (74, 1, 1), (75, 1, 8), (76, 1, st), (77, 1, step), (80, 8, 0x800), (88, 8, waddr), (96, 8, wval), (104, 8, 0xB00)]
    qbase := 0x200000
    fes := [(0, { count := 0, cur := some 0, since := 0, commit := 0, prologue := none })] }
/-- The queue with a head packet. -/
def packet (fs : List (Nat × Nat × Nat)) : State := queue0 [] fs 1 0 1 0 0
def signal0 : State := packet [(0, 1, 3), (8, 8, 0xB80), (16, 8, 6)]
def wait0 : State := packet [(0, 1, 4), (8, 8, 0xB80), (16, 8, 6)]
def write0 (step : Nat) : State := queue0 [] [(0, 1, 5), (8, 8, 0xBC0), (16, 8, 9), (24, 8, 0xB80), (32, 8, 6)] 1 step 1 0 0
def launch0 (kd : Nat) : State := packet [(0, 1, 1), (4, 4, 2), (8, 4, 1), (12, 4, 1), (16, 8, kd), (24, 8, 0x800)]
/-- Whether a queue's head packet is served, and of type `t`. -/
def serves (s : State) (t : Nat) : Bool :=
  s.feReady (s.feOf 0) && s.serving (s.feOf 0) == some 0 && match (if (s.fe (s.feOf 0)).cur = some 0 then s else s.onFe (s.feOf 0) fun e => { e with cur := some 0, since := s.clock }).headPacket 0 with
    | (u, .ok bs) => packetOk bs && recField bs 0 1 == t && (match u.agentCounter (u.qAsid 0) (BitVec.ofNat 64 (recField bs (if t = 5 then 24 else 8) 8)) (if t = 4 then .r else .rmw) with
      | (v, .ok pa) => decide (pa = 0x30B80) && (match v.agentPlace (v.qAsid 0) (BitVec.ofNat 64 (recField bs 8 8)) .w false with
        | (_, .ok _) => true
        | _ => false)
      | _ => t == 1 || t == 2) && u.qClear 0
    | _ => false
theorem witness_queue_steps : serves signal0 3 = true ∧ serves wait0 4 = true ∧ serves (write0 0) 5 = true ∧ (write0 0).qStep 0 = 0 ∧ serves (write0 1) 5 = true ∧ (write0 1).qStep 0 = 1 := by decide +kernel
theorem witness_commit : (∀ i, i < 192 → signal0.inDram (signal0.qcb 0 + i) = true) ∧ signal0.comm = [] := by decide +kernel
theorem witness_tail : (let s := queue0 [(0xB00, 8, 1)] [] 0 0 0 0 0
    s.qEnabled 0 = true ∧ s.feReady (s.feOf 0) = true ∧ s.qState 0 ≠ 3 ∧ (s.qQctr 0).toNat % 16 = 0 ∧ (match s.agentCounter (s.qAsid 0) (s.qQctr 0) .rmw with
      | (u, .ok pa) => let m := u.mergeBytes pa 8
        decide (m.qSeen 0 < m.memRead pa 8) && decide (m.memRead pa 8 ≤ m.qHead 0 + m.qSize 0)
      | _ => false) = true) ∧ (queue0 [] [] 3 0 0 0 0).qEnabled 0 = true ∧ (queue0 [] [] 3 0 0 0 0).qState 0 = 3 ∧
    (let s := queue0 [] [] 2 0 1 0xB80 6
     s.qEnabled 0 = true ∧ s.qState 0 = 2 ∧ s.feReady (s.feOf 0) = true ∧ (match s.agentCounter (s.qAsid 0) (s.qWaddr 0) .r with
       | (_, .ok pa) => pa == 0x30B80
       | _ => false) = true) := by decide +kernel
theorem test_tail_wake : after (.tailWake 0) (queue0 [(0xB00, 8, 1)] [] 0 0 0 0 0) (fun t => (t.qSeen 0, t.qState 0)) = some (1, 1) := by decide +kernel
theorem test_signal : after (.signal 0) signal0 (fun t => (t.memRead 0x30B80 8, t.qHead 0, t.qState 0, t.memRead 0x30B08 8)) = some (6, 1, 0, 1) := by decide +kernel
theorem test_wait_blocks : after (.wait 0) wait0 (fun t => (t.qState 0, t.qWaddr 0, t.qWval 0, t.qHead 0)) = some (2, 0xB80, 6, 0) := by decide +kernel
theorem test_wait_met : after (.waitMet 0) (queue0 [(0xB80, 8, 6)] [] 2 0 1 0xB80 6) (fun t => (t.qState 0, t.qHead 0)) = some (0, 1) := by decide +kernel
theorem test_writesignal_store : after (.writesignalStore 0) (write0 0) (fun t => (t.memRead 0x30BC0 8, t.qStep 0, t.qHead 0)) = some (9, 1, 0) := by decide +kernel
theorem test_writesignal_signal : after (.writesignalSignal 0) (write0 1) (fun t => (t.memRead 0x30B80 8, t.qHead 0)) = some (6, 1) := by decide +kernel
theorem test_queue_restart : after (.queueRestart 0) (queue0 [] [] 3 0 1 0 0) (fun t => t.qState 0) = some 1 := by decide +kernel

theorem witness_launch_packets : serves (launch0 0x900) 1 = true ∧ (match (launch0 0x900).resolve { req1 with gx := 2 } with
      | (_, .ok _ _ _ _) => true
      | _ => false) = true ∧ (match (launch0 0x900).resolve { req1 with gx := 2, kd := 0xA00 } with
      | (_, .reject 2) => true
      | _ => false) = true ∧ (match (packet [(0, 1, 9)]).headPacket 0 with
      | (_, .ok bs) => !packetOk bs
      | _ => false) = true := by decide +kernel
theorem test_launch_packet : after (.launchPacket 0) (launch0 0x900) (fun t => (t.launches.map (·.lid), (t.launches.map (·.unplaced)).getLast?, t.qHead 0)) = some ([1, 16], some [0, 1], 1) := by decide +kernel
theorem test_launch_rejected : after (.launchPacket 0) (launch0 0xA00) (fun t => (t.launches.length, t.qState 0, t.qHead 0, t.sfrlost)) = some (1, 3, 1, 1) := by decide +kernel

/-- A launch of one workgroup that waits for its place. -/
def launch1 : Launch := { loadedLaunch false with kd := { (loadedLaunch false).kd with regs := 16, tiles := 0 }, path := [{ RegionItems.empty with rcb := 0x100000, warps := 64, rblk := 256, tileb := 64, sramKib := 512 }], unplaced := [0], clusters := [], params := [9], arrivals := [0xD00] }
def placing : State := { ctx1 with launches := [launch1], warp := Warp.empty, wgs := [], readyc := BitVec.allOnes 64 }
theorem witness_place : placing.hawReady = true ∧ placing.launchOf 1 = some launch1 ∧
    (let m : State := { placing with gathering := placing.bestGang }
     m.heldByGang launch1 = false ∧ (∀ n ∈ placing.launches, n.lid = 1) ∧ m.placing launch1 = 1 ∧ (let v := m.readyBlocks 1 1
       v.blocksReady 1 1 = true ∧ v.launchOf 1 = some launch1 ∧ launch1.gang = false ∧ launch1.killed = false ∧ launch1.complete = false ∧ v.hasSaved 1 = false ∧
       launch1.next (v.idleLaunch 1) = some 0 ∧ (match v.findPlace launch1 launch1.kd.coreNeeds with
         | some (core, _, sent) => v.leafActs (clusterOf core) (v.hawSeq + sent.length)
         | none => false) = true)) := by decide +kernel
theorem witness_handoff : (let r : LaunchReq := { req1 with handoff := some (0, 0, 0) }
     r.handoff ≠ none ∧ (∀ m ∈ placing.launches, m.handoff ≠ r.handoff) ∧
     (let s : State := { placing with launches := [{ launch1 with handoff := some (0, 0, 0) }] }
      s.launches.find? (fun m => m.handoff == r.handoff) = some { launch1 with handoff := some (0, 0, 0) })) := by decide +kernel
/-- The block of arrival counters that a placement takes reads zero, and the warp's counter is its first word. -/
theorem test_arrival_counter : after (.place 1) (stored 0xD00 8 5 placing) (fun t => (t.warps.map (·.arrival), t.memRead 0x30D00 8, t.launches.map (·.arrivals))) = some ([0xD00], 0, [[]]) := by decide +kernel
theorem test_place : after (.place 1) placing (fun t => (t.warps.map fun w => (w.core, w.slot, rd w.k 0), t.wgs.map (·.idx), t.launches.map (·.unplaced), t.permitsUsed 0)) = some ([(0, 0, 9)], [0], [[]], 1) := by decide +kernel
theorem test_permit : after (.placeReply 0) { placing with permits := [(0, 1)] } (fun t => t.permitsUsed 0) = some 0 := by decide +kernel
theorem test_takeover : after .hawthornTakeover { placing with permits := [(0, 2)], leafOpen := [(0, 1)] } (fun t => (t.hawActive, t.permitsUsed 0)) = some (1, 1) := by decide +kernel
/-- A launch all of whose workgroups have exited; DONE is the counter at 0xB80. -/
def finished (d : DWord) : State := { placing with launches := [{ launch1 with unplaced := [], exited := [0], done := d }] }
theorem witness_completion : (finished 0xB80).launchOf 1 = some { launch1 with unplaced := [], exited := [0], done := 0xB80 } ∧ (finished 0xB80).launchOver { launch1 with unplaced := [], exited := [0], done := 0xB80 } = true ∧
    (finished 0xB80).passOf 1 = none ∧ (finished 0).launchOver { launch1 with unplaced := [], exited := [0], done := 0 } = true ∧ (match (finished 0xB80).agentCounter 1 0xB80 .rmw with
      | (u, .ok a) => decide (a = 0x30B80) && (match u.agentCounter 1 0xB80 .rmw with
        | (v, .ok pa) => decide ((v.mergeBytes pa 8).memRead pa 8 + 1 < 2 ^ 64)
        | _ => false)
      | _ => false) = true := by decide +kernel
theorem test_completion : after (.launchCompletion 1) (finished 0xB80) (fun t => (t.memRead 0x30B80 8, t.launches.map (·.complete))) = some (1, [true]) := by decide +kernel

/-! Prologues and the care of front ends. -/

def stage2 (wval : Nat) : State := queue0 [] [(0, 1, 2), (4, 4, 2), (8, 4, 1), (12, 4, 1), (16, 8, 0x900), (24, 8, 0x800), (48, 8, 0x40)] 1 0 1 0 wval
/-- The prologue's warp, its handler at its end with the verdict `x` on a grid of 3 by 1 by 1, or trapped. -/
def prologueAt (x : Nat) (st : FragState) : Warp :=
  { Warp.empty with uid := 9, resident := true, launch := prologueLid 0, core := 200, kind := .prologue 0, frag := { Frag.free with mask := 1, state := st }, solo := some { loadedHandler with h := [(0, BitVec.ofNat 64 x), (1, 3), (2, 1), (3, 1)].filter (fun e => e.2 != 0), wait := .parked, fragMask := 1 } }
def prologued (x : Nat) (st : FragState) (groups : Nat) : State :=
  { stage2 0 with
    fes := [(0, { count := 0, cur := some 0, since := 0, commit := 0, prologue := some { queue := 0, rep := 0, groups := groups, kd := kdOf ((List.range 64).map fun i => (stage2 0).memByte (0x30900 + i)), path := (((stage2 0).regionPath 1 0x800).getD []) } })]
    warps := [prologueAt x st]
    launches := [{ loadedLaunch false with lid := prologueLid 0, complete := true, kd := { (loadedLaunch false).kd with regs := 16 } }] }
theorem witness_prologue : serves (stage2 0) 2 = true ∧ (stage2 0).qWval 0 = 0 ∧ (stage2 2).qWval 0 ≠ 0 ∧ ((stage2 0).fe 0).prologue = none ∧ (match (stage2 0).resolveHead { req1 with gx := 2 } with
      | (v, .ok (kd, _)) => decide (kd.nparam = 0) && (match v.agentRead 1 false 2 0 (8 * kd.nparam) with
        | (_, .ok _) => true
        | _ => false)
      | _ => false) = true := by decide +kernel
theorem witness_verdict : serves (prologued 0 .waiting 0) 2 = true ∧ (prologued 0 .waiting 0).prologueWarp 0 = some (prologueAt 0 .waiting) ∧ (prologued 0 .waiting 0).killed (prologueLid 0) = false ∧ (prologued 0 .waiting 0).quiet 9 = true ∧
    (prologued 0 .trapped 0).prologueWarp 0 = some (prologueAt 0 .trapped) ∧ ((prologued 0 .waiting 0).launchOf (prologueLid 0)).isSome = true ∧ (match ((prologued 0 .waiting 0).fe 0).prologue with
      | some p => decide (p.groups ≤ 65536) && (match (prologued 0 .waiting 0).resolveAfter { req1 with gx := 3, given := some [] } p with
        | (_, .ok _ _ _ _) => true
        | _ => false) && (match (prologued 0 .waiting 0).resolveAfter { req1 with gx := 0, given := some [] } p with
        | (_, .reject _) => true
        | _ => false)
      | none => false) = true ∧ (((prologued 0 .waiting 65537).fe 0).prologue.map (·.groups)) = some 65537 ∧ serves (prologued 0 .waiting 65537) 2 = true := by decide +kernel
theorem test_prologue_starts : after (.twoStageLaunch 0) (stage2 0) (fun t => t.warps.map fun w => (w.solo.map fun h => (h.pc, rd h.h 1, rd h.h 4, rd h.h 5))) = some [some (0x40, 2, 0xC00, 0)] := by decide +kernel
theorem test_prologue_repeats : after (.prologueRepeat 0) (stage2 2) (fun t => t.warps.map fun w => (w.solo.map fun h => (h.pc, rd h.h 5))) = some [some (0x40, 2)] := by decide +kernel
theorem test_verdict_launches : after (.twoStageLaunch 0) (prologued 0 .waiting 0) (fun t => (t.launches.map fun l => (l.lid, l.gx), t.warps.length, t.qHead 0)) = some ([(16, 3)], 0, 1) := by decide +kernel
theorem test_group_limit : after (.prologueGroupLimit 0) (prologued 0 .waiting 65537) (fun t => (t.warps.length, t.qState 0, t.qHead 0)) = some (0, 3, 1) := by decide +kernel

/-- Queues 0 and 16 of front end 0, each with a SIGNAL at its head; queue 0 has a quantum of 1 that is over. -/
def twoQueues : State :=
  let q : List (Nat × Nat × Nat) := [(8, 8, 1), (64, 8, 0xC00), (72, 2, 1), (74, 1, 1), (75, 1, 8), (76, 1, 1), (78, 2, 1), (80, 8, 0x800), (104, 8, 0xB00)]
  { packet [] with mem := ctxCells ++ cellsAt 0x30C00 [(0, 1, 3), (8, 8, 0xB80), (16, 8, 6)] ++ cellsAt 0x200000 q ++ cellsAt 0x201000 q, clock := 10 ^ 6 }
theorem witness_quantum : (twoQueues.fe 0).cur = some 0 ∧ (twoQueues.fe 0).prologue = none ∧ twoQueues.qQuantum 0 = 1 ∧ (twoQueues.fe 0).since + 800 * twoQueues.qQuantum 0 ≤ twoQueues.clock ∧
    twoQueues.pickQueue 0 ((twoQueues.runnableOf 0).filter fun q => q != 0 && decide (twoQueues.qPrio 0 ≤ twoQueues.qPrio q)) = some 16 ∧ (!(twoQueues.runnableOf 0).isEmpty) = true ∧
    (twoQueues.fe 0).commit + 800000 ≤ twoQueues.clock := by decide +kernel
theorem test_quantum : after (.quantumExpiry 0) twoQueues (fun t => ((t.fe 0).cur, (t.fe 0).since)) = some (some 16, 10 ^ 6) := by decide +kernel
theorem test_watchdog : after (.frontEndWatchdog 0) { prologued 0 .waiting 0 with clock := 10 ^ 6 } (fun t => ((t.fe 0).cur, (t.fe 0).prologue, t.warps.length)) = some (none, none, 0) := by decide +kernel

/-! Pre-emption. -/

/-- The workgroup of `m0` in a pre-emption state, in a region with the methods `pm`; its warp has 16 registers. -/
def pre (p : PreState) (pm : Nat) (s : State) : State :=
  { s with
    launches := s.launches.map fun l => { l with kd := { l.kd with flags := 1 }, path := [{ RegionItems.empty with rcb := 0x100000, warps := 64, rblk := 256, tileb := 64, sramKib := 512, pmeth := pm, pbound := 1, flushpm := 1000 }] }
    wgs := s.wgs.map fun g => { g with pre := p, preSince := 5, sramSize := 4 }
    warp := { s.warp with quota := 0, tquota := 0 }
    clock := 1000 }
def preWg (s : State) : Wg := s.wgs.headD { launch := 0, idx := 0, core := 0, sramBase := 0, uids := [], bars := [], gbars := [], fetch := [], seq := 0, retired := 0, eligible := false, pre := .running, preSince := 0, placed := 0, image := 0, sramSize := 0, forPrio := 0 }
def isPre (s : State) (p : PreState) : Bool := (s.launchOf 1).isSome && decide (s.wgOf 1 0 = some (preWg s)) && decide (s.wgs.filter (fun h => h.launch == 1 && h.idx == 0) = [preWg s]) && decide ((preWg s).pre = p)
/-- The workgroup of `m0` saved at 0x600000, k1 and one byte of SRAM in its image, with a call of lane 1 that has a reply. -/
def savedWg (kind : Nat) : State :=
  let w : Warp := { m0.warp with resident := false, quota := 0, tquota := 0, frag := { m0.warp.frag with state := .waiting, wait := if kind = 2 then .sysc 5 else if kind = 1 then .cpyY 0x50 [] true else .none }, solo := if kind = 3 then some { loadedHandler with wait := .upcall 0x440 } else none }
  { pre .saved 7 m0 with
    warp := Warp.empty
    saved := [w]
    wgs := (pre .saved 7 m0).wgs.map fun g => { g with image := 0x600000, sramSize := 4 }
    launches := (pre .saved 7 m0).launches
    ops := [opWith (.sysc 3) [laneAt 1 0x200 0 .request]]
    calls := [call1]
    readyf := 0xFFFFFFFF
    readyc := BitVec.allOnes 64
    mem := ctxCells ++ cellsAt 0x600000 [(257, 1, 0x10), (0x203, 1, 7), (0x1048, 1, 9), (0x1000 + 4352, 1, kind), (0x1000 + 4360, 1, 2)] }
theorem witness_preempt : isPre (pre .running 7 m0) .running = true ∧ isPre (pre .stopping 7 m0) .stopping = true ∧ isPre (pre .draining 7 m0) .draining = true ∧ isPre (pre .draining 4 m0) .draining = true ∧
    isPre (pre .saving 7 m0) .saving = true ∧ isPre (pre .flushing 7 m0) .flushing = true ∧ isPre (savedWg 1) .saved = true := by decide +kernel
theorem witness_drain : (match (pre .draining 7 m0).launchOf 1 with
    | some l => decide ((preWg (pre .draining 7 m0)).drainBound l = 800) && decide (5 + 800 ≤ (pre .draining 7 m0).clock) && (l.path.headD RegionItems.empty).pmeth.testBit 1 && decide (l.hint = 0) && !l.gang
    | none => false) = true ∧ (match (pre .draining 4 m0).launchOf 1 with
    | some l => !(l.path.headD RegionItems.empty).pmeth.testBit 1 && (pre .draining 4 m0).flushable l (preWg (pre .draining 4 m0))
    | none => false) = true := by decide +kernel
/-- The page at 0x600000 is one of the context's without USER, for images (R365). -/
def saveable : State := (pre .saving 7 m0).memWrite 0x21008 8 0x60008D
theorem witness_save : (let s := saveable
    (∀ i, i < 16 → s.inDram (0x600000 + i) = true) ∧ (s.withdraw (preWg s)).saveReady (preWg s) = true ∧ (s.withdraw (preWg s)).saveArea 1 0x600000 ((s.withdraw (preWg s)).imageLen (preWg s)) = true ∧ (s.launchOf 1).map (fun l => (l.gang, l.asid)) = some (false, 1)) ∧ (let s := pre .flushing 7 m0
    s.flushBusy (preWg s) = false ∧ ∀ w ∈ (s.withdraw (preWg s)).warpsOf (preWg s), w.kind ≠ .fragment) := by decide +kernel
theorem witness_saved : (let s := savedWg 2
    let g := preWg s
    let pend := s.recordAt g 0 + 4352
    pend = 0x601000 + 4352 ∧ (s.savedOf g)[0]? = s.saved[0]? ∧ (s.memQ (pend + 8)).getLsbD 1 = true ∧ (s.memQ (pend + 16)).getLsbD 1 = false ∧ s.memRead pend 1 = 2 ∧ (savedWg 1).memRead pend 1 = 1 ∧
    (savedWg 1).copyJobs = [] ∧ (s.takeReply 5 1).isSome = true ∧ (s.saved.map fun w => (w.fragAt (s.memRead (pend + 1) 1)).wait) = [.sysc 5] ∧ ((savedWg 1).saved.map fun w => (w.fragAt ((savedWg 1).memRead (pend + 1) 1)).wait) = [.cpyY 0x50 [] true] ∧
    (let u := stored 0x448 8 1 (savedWg 3)
     u.memRead pend 1 = 3 ∧ (u.saved.map fun w => w.solo.map (·.wait)) = [some (.upcall 0x440)] ∧ u.reachAs (some (u.asidOf 1)) 0x440 .r (u.region 1).system = some 0x30440 ∧ u.bytesOwned 0x30440 32 = false ∧ (u.mergeBytes 0x30440 32).memQ 0x30448 ≠ 0 ∧ (u.memQ (pend + 8)).getLsbD 1 = true) ∧
    (s.launchOf 1).all (fun l => !l.gang && !s.heldByGang l) = true ∧ (∀ m ∈ s.launches, m.lid = 1) ∧ s.hawReady = true ∧ s.launches.all (fun l => !l.killed) = true ∧ (match s.launchOf 1 with
      | some l => (s.findPlace l (s.savedNeeds g)).isSome
      | none => false) = true ∧ m0.findWarp 1 = some m0.warp) := by decide +kernel
theorem test_preempt_stops : after (.preemptionRequest 1 0) (pre .running 7 m0) (fun t => t.wgs.map fun g => (g.pre, g.preSince)) = some [(.stopping, 1000)] := by decide +kernel
theorem test_preempt_method : after (.preemptStopped 1 0) (pre .stopping 7 m0) (fun t => t.wgs.map fun g => g.pre) = some [.flushing] ∧ after (.preemptStopped 1 0) (pre .stopping 2 m0) (fun t => t.wgs.map fun g => g.pre) = some [.saving] := by
  decide +kernel
theorem test_drain_bound : after (.drainBoundExpiry 1 0) (pre .draining 7 m0) (fun t => t.wgs.map fun g => g.pre) = some [.saving] := by decide +kernel
theorem test_flush : after (.workgroupFlush 1 0) (pre .flushing 7 m0) (fun t => (t.wgs.length, t.warp.uid, t.launches.map (·.unplaced))) = some (0, 0, [[0]]) := by decide +kernel
theorem test_reply_saved : after (.savedImageReplyWrite 1 0 0 1) (savedWg 2) (fun t => (t.memRead (0x601000 + 4352 + 72) 8, t.memRead (0x601000 + 4352 + 16) 1)) = some (0x500000002, 2) := by decide +kernel
theorem test_restore : after (.workgroupRestore 1 0) (savedWg 1) (fun t => (t.warps.map fun w => (w.core, w.slot, rd w.k 1), t.saved.length, t.wgs.map (·.pre), t.sramRead 3 1)) = some ([(0, 0, 9)], 0, [.running], 7) := by decide +kernel
theorem test_debug_release : after (.debugRelease 1) { m0 with warp := { m0.warp with debug := true, frag := { m0.warp.frag with state := .debugStopped } } } (fun t => (t.findWarp 1).map fun w => (w.debug, w.frag.state)) =
    some (some (false, .ready)) := by decide +kernel

/-! Tregrim's services. -/

/-- A call of context 1, and a machine that is to run it: page 1 maps 0x400000 and belongs to an allocation. -/
def callOf (nr : Nat) (args : List Nat) : Call := { id := 9, asid := 1, callId := 77, nr := nr, args := args.map fun x => BitVec.ofNat 64 x, token := 0, result := none, subs := [(5, 1)] }
def alloc1 : Alloc := { asid := 1, base := 0x1000, bytes := 4096, pageLog2 := 12, home := 0, homeId := 0, rights := 7 }
def calledWith (nr : Nat) (args : List Nat) (more : List (Nat × Nat × Nat)) : State :=
  { ctx1 with
    mem := [(0x10000, 1), (0x10002, 2), (0x20000, 1), (0x20001, 16), (0x20002, 2), (0x21000, 1), (0x21001, 32), (0x21002, 2), (0x22000, 61), (0x22002, 3), (0x22008, 61), (0x2200A, 64)] ++ ctxCells.drop 10 ++ cellsAt 0x30C00 more
    calls := [callOf nr args]
    treg := { ctx1.treg with allocs := [alloc1] } }
def called (nr : Nat) (args : List Nat) : State := calledWith nr args []
theorem witness_called : (called 2 [0x1000, 4096]).calls.find? (fun x => x.id == 9) = some (callOf 2 [0x1000, 4096]) ∧ (callOf 2 [0x1000, 4096]).nr = 2 ∧ (callOf 2 [0x1000, 4096]).result = none ∧
    (called 2 [0x1000, 4096]).calls.takeWhile (fun y => y.id != 9) = [] := by decide +kernel
theorem witness_memalloc : (let s := called 1 [4096, 12, 0x70, 0]
    let x := callOf 1 [4096, 12, 0x70, 0]
    x.clean 4 = true ∧ x.num 0 ≠ 0 ∧ x.num 1 ∈ [12, 16, 21, 30] ∧ x.arg 2 &&& ~~~0x73 = 0 ∧ s.homeOk 0 0 12 = true ∧ s.pinFits 0 0 4096 = true ∧ canonicalRange 0x40000 4096 = true ∧
    (∀ z ∈ s.treg.allocs, z.asid = x.asid → overlap 0x40000 4096 z.base.toNat z.bytes = false) ∧ (∀ va ∈ pagesOf 0x40000 0x41000, s.isMiss 1 va = true)) ∧
    (let s := called 1 [4096, 12, 0x72, 0]
     (callOf 1 [4096, 12, 0x72, 0]).arg 2 &&& ~~~0x73 = 0 ∧ s.homeOk 2 0 12 = true ∧ s.pinFits 2 0 4096 = true ∧
     (s.mapRange 1 0x40000 0x41000 [(0x22200, BitVec.ofNat 64 (0x70083D))] { alloc1 with base := 0x40000, home := 2 }.allows).isSome = true) := by decide +kernel
theorem test_memalloc : after (.memalloc 9 0x40000 []) (called 1 [4096, 12, 0x70, 0]) (fun t => (t.calls.map (·.result), t.treg.allocs.map (·.base))) = some ([some 0x40000], [0x1000, 0x40000]) := by decide +kernel
theorem test_memalloc_bad : after (.memalloc 9 0x40000 []) (called 1 [4096, 13, 0x70, 0]) (fun t => t.calls.map (·.result)) = some [some (-1)] := by decide +kernel
theorem witness_memfree : (callOf 2 [0x1000, 4096]).clean 2 = true ∧ (called 2 [0x1000, 4096]).rangeRefused 1 0x1000 4096 = none ∧ (called 2 [0x2000, 4096]).rangeRefused 1 0x2000 4096 = some notFound ∧
    (called 2 [0x1000, 4096]).lent 1 0x1000 0x2000 = false ∧ ((called 2 [0x1000, 4096]).unmapRange 1 0x1000 0x2000 [(0x22008, 0)]).isSome = true := by decide +kernel
theorem test_memfree : after (.memfree 9 [(0x22008, 0)]) (called 2 [0x1000, 4096]) (fun t => (t.calls.map (·.result), t.treg.allocs, t.memQ 0x22008)) = some ([some 0], [], 0) := by decide +kernel
theorem witness_memprotect : (let s := called 3 [0x1000, 4096, 1]
    let ls := s.leavesIn 1 0x1000 0x2000
    (callOf 3 [0x1000, 4096, 1]).clean 3 = true ∧ s.rangeRefused 1 0x1000 4096 = none ∧ s.planOk 1 [(0x22008, 0x400025)] = true ∧ ls.all (fun l => decide (l.at_ = 0x22008) && reright 1 ((pagesOf 0x1000 0x2000).any fun va => s.walkLeaf 1 va == some l && s.leafHeld 1 va l) l.entry 0x400025 && !s.rangeBusy l.frame l.bytes) = true ∧
    ls.length = 1) := by decide +kernel
theorem test_memprotect : after (.memprotect 9 [(0x22008, 0x400025)]) (called 3 [0x1000, 4096, 1]) (fun t => (t.calls.map (·.result), t.memQ 0x22008, t.treg.allocs.map (·.rights))) = some ([some 0], 0x400025, [1]) := by decide +kernel
/-- An image of one code word and one kernel descriptor at 0xC00. -/
def kernelImage : State :=
  calledWith 0x20 [0xC00, 192] [(0, 4, 0x4B565350), (4, 2, 1), (6, 2, 1), (8, 4, 4), (24, 4, 64), (28, 4, 64), (64, 4, 0x0B000000), (128 + 16, 1, 16), (128 + 24, 2, 64), (128 + 26, 2, 1), (128 + 28, 2, 1), (128 + 30, 1, 1)]
def linkPlan : List (Nat × DWord) := [(0x22200, 0x700035), (0x22208, 0x701035)]
theorem witness_link : (callOf 0x20 [0xC00, 192]).clean 2 = true ∧ (match kernelImage.agentRead 1 false 2 0xC00 192 with
      | (u, .ok bs) => (match imageOfBytes bs with
        | some i => let k := i.rels.foldl (KImage.relocate 0x40000 0) i
          let parts := [(true, 0x40000, k.code), (false, 0, k.const), (true, 0x41000, k.kds)]
          i.ok && canonicalRange 0x40000 i.code.length && decide (i.code.length = 4) && decide (i.kds.length = 64) && decide (0x40000 % i.codeAlign = 0) && decide (0 % i.constAlign = 0) &&
          !overlap 0x40000 i.code.length 0x41000 i.kds.length && linkPlan.all (fun e => !eV (u.memQ e.1)) && [0x40000, 0x41000].all (u.isMiss 1) &&
          (match u.planned 1 linkPlan (fun va l shared => !shared && partLeaf parts va l) with
            | some m => [0x40000, 0x41000].all fun va => (m.walkLeaf 1 va).any (linkedLeaf true)
            | none => false)
        | none => false)
      | _ => false) = true ∧ imageOfBytes (List.replicate 64 0) = none := by decide +kernel
theorem test_link : after (.link 9 0x40000 0 0x41000 linkPlan) kernelImage (fun t => (t.calls.map (·.result), t.memRead 0x700000 4)) = some ([some 0x41000], 0x0B000000) := by decide +kernel
def sharing : State := { called 0x21 [7, 0x200000] with treg := { ctx1.treg with sets := [{ id := 7, level := 2, tables := [0x700000] }] } }
def sharePlan : List (Nat × DWord) := [(0x21008, BitVec.ofNat 64 (0x700001 + 2 ^ 59))]
theorem witness_sharemap : (callOf 0x21 [7, 0x200000]).clean 2 = true ∧ sharing.treg.sets.find? (fun y => y.id == 7) = some { id := 7, level := 2, tables := [0x700000] } ∧ sharing.rootOf 1 = some 0x10000 ∧
    canonicalRange 0x200000 (2 ^ 21) = true ∧ sharing.entryAt 0x200000 2 4 0x10000 = some 0x21008 ∧ eV (sharing.memQ 0x21008) = false ∧
    (match sharing.planned 1 sharePlan (fun _ _ shared => shared) with
      | some m => decide (m.entryAt 0x200000 2 4 0x10000 = some 0x21008) && decide (m.memQ 0x21008 = setBit (setField (1 : DWord) 12 36 (0x700000 / 4096)) 59 true)
      | none => false) = true := by decide +kernel
/-- A table whose one leaf is SHARED without W may be registered, one whose leaf has W may not (R307). -/
def setTable (leaf : Nat) : State := ctx1.memWrite 0x700000 8 leaf
theorem witness_set : (setTable (0x71002D + 2 ^ 59)).setOk { id := 7, level := 2, tables := [0x700000] } = false ∧ (setTable (0x710025 + 2 ^ 59)).setOk { id := 7, level := 2, tables := [0x700000] } = true := by decide +kernel
/-- No private leaf is written into a shared table (R307). -/
theorem test_shared_table : ({ (setTable (0x710025 + 2 ^ 59)) with treg := { ctx1.treg with sets := [{ id := 7, level := 2, tables := [0x700000] }] } } : State).planOk 1 [(0x700008, 0x71103D)] = false := by decide +kernel
theorem test_sharemap : after (.sharemap 9 { register := [], tables := sharePlan }) sharing (fun t => (t.calls.map (·.result), t.memRead 0x21008 4)) = some ([some 0], 0x700001) := by decide +kernel
/-- The tables of a new context with ASID 2, its root RCB at address 0, and the ring and the counters of its queue 3 in the pages after it. -/
def plan2 : List (Nat × DWord) := [(0x610000, 0x620001), (0x620000, 0x621001), (0x621000, 0x622001), (0x622000, 0x63003D), (0x622008, 0x64003D), (0x622010, 0x65003D)]
def rcb2 : List Byte := (List.range 256).map fun i => ((cellsAt 0 [(8, 8, 0x610000), (16, 2, 2), (20, 4, 0x7FFF), (0x27, 1, 1)]).find? fun e => e.1 == i).elim 0 (·.2)
def made2 (tables : List (Nat × DWord)) : CtxPlan := { register := [], tables := tables, rcbBytes := rcb2, sets := [], images := [], queue := some (3, 0x1000, 6, 1, 0x2000) }
def ctxQ : State := { ctx1 with qbase := 0x800000 }
theorem witness_context : ctxQ.asidFree 2 = true ∧ ctxQ.inDram 0x610000 = true ∧ ctxQ.inDram (0x610000 + 65535) = true ∧ ctxQ.dramReady 0x610000 = true ∧ rcb2.length = 256 ∧
    (let z : State := { ctxQ.zeroRange 0x610000 65536 with ctxs := (ctxQ.zeroRange 0x610000 65536).ctxs ++ [{ asid := 2, ptroot := 0x610000, rootRcb := 0 }] }
     let made := made2 plan2
     match z.planned 2 plan2 (ctxLeafOk made 0) with
     | some m => (m.putVa 2 2 0 rcb2).ctxMade 2 0x610000 0 made
     | none => false) = true := by decide +kernel
theorem test_context : after (.contextCreate 2 0x610000 0 (made2 plan2)) ctxQ (fun t => t.rootOf 2) = some (some 0x610000) := by decide +kernel
/-- A private page beside those of the root RCB is refused (R320). -/
theorem test_context_private : after (.contextCreate 2 0x610000 0 (made2 (plan2 ++ [(0x622018, 0x66003D)]))) ctxQ (fun t => t.rootOf 2) = some none := by decide +kernel

/-- The machine of `calledWith`, with entries of the level-1 table from page 16 on and a queue 0. -/
def calledMap (nr : Nat) (args : List Nat) (leaves : List DWord) (more : List (Nat × Nat × Nat)) : State :=
  { calledWith nr args [] with
    mem := (called nr args).mem.take 12 ++ cellsAt 0x22080 (leaves.zipIdx.map fun e => (8 * e.2, 8, e.1.toNat)) ++ ctxCells.drop 10 ++ cellsAt 0x30C00 more ++
      cellsAt 0x200000 [(64, 8, 0xC00), (72, 2, 1), (74, 1, 6), (75, 1, 8), (80, 8, 0x800), (104, 8, 0xB00)]
    qbase := 0x200000 }
def leafOf (fill frame : Nat) : DWord := BitVec.ofNat 64 (0x3D + frame + 2 ^ 61 + 2 ^ 62 * fill)
def declaring : State := calledMap 0x10 [0xD00] [] [(0x100, 1, 1), (0x101, 1, 16), (0x102, 1, 4), (0x103, 1, 0x1F), (0x104, 1, 12), (0x108, 8, 0x10000), (0x110, 8, 65536), (0x118, 8, 0x900), (0x120, 8, 7), (0x128, 8, 0x800)]
def leafPlan : List (Nat × DWord) := (List.range 16).map fun i => (0x22080 + 8 * i, leafOf 0 0)
theorem witness_qsdeclare : (callOf 0x10 [0xD00]).clean 1 = true ∧ (match declaring.agentRead 1 false 2 0xD00 64 with
      | (u, .ok bs) => (match qregionOf 1 bs with
        | some r => decide (r = { region1 with rights := 15 }) && (match u.agentRead 1 false 2 r.genKd 64 with
          | (v, .ok kb) => kdOk kb && recField kb 30 1 == 1 && (v.regionPath 1 r.genRcb.toNat).isSome && (pagesOf 0x10000 0x20000).all (v.isMiss 1) &&
            (v.mapRange 1 0x10000 0x20000 leafPlan r.leafOk).isSome
          | _ => false)
        | none => false)
      | _ => false) = true ∧ qregionOf 1 [] = none := by decide +kernel
def blocked (nr fill : Nat) : State := { calledMap nr [0x10000] [leafOf fill 0x400000] [] with regions := [region1] }
theorem witness_qs_blocks : (∀ nr ∈ [0x11, 0x13], ∀ fill ∈ [0, 2, 3], (blocked nr fill).leaderAt 1 0x10000 = some (region1, 0x10000, 0x22080) ∧ eFill ((blocked nr fill).memQ 0x22080) = fill) ∧
    (∀ i, i < 8 → (blocked 0x11 3).inDram (0x22080 + i) = true) ∧ (∀ i, i < 2 ^ 16 / 128 → (blocked 0x13 2).lineOwned (lineOf (ePa ((blocked 0x13 2).memQ 0x22080)) + i) = false) ∧ (blocked 0x13 2).ops = [] ∧ (blocked 0x13 2).copyJobs = [] ∧ (blocked 0x12 1).regions.find? (fun r => r.asid == 1 && r.base == 0x10000) = some region1 := by decide +kernel
theorem test_qsdeclare_bad : after (.qsdeclare (.call 9) [] []) (calledMap 0x10 [0xD00] [] []) (fun t => t.calls.map (·.result)) = some [some (-1)] := by decide +kernel
theorem test_qsrearm : after (.qsrearm (.call 9)) (blocked 0x11 3) (fun t => (t.calls.map (·.result), t.memQ 0x22080)) = some ([some 0], leafOf 0 0) := by decide +kernel
theorem test_qsrearm_own : after (.qsrearm (.own 1 0x10000)) (blocked 0x11 3) (fun t => (t.calls.map (·.result), t.memQ 0x22080)) = some ([none], leafOf 0 0) := by decide +kernel
theorem test_qsevict : after (.qsevict (.call 9)) (blocked 0x13 2) (fun t => (t.calls.map (·.result), eFill (t.memQ 0x22080), t.pool 0)) = some ([some 0], 0, [0x400000]) := by decide +kernel
theorem test_qswithdraw : after (.qswithdraw (.call 9)) (blocked 0x12 2) (fun t => (t.calls.map (·.result), t.memQ 0x22080, t.regions)) = some ([some 0], 0, []) := by decide +kernel

def queueing : State := calledMap 0x30 [6, 3, 0x800, 0xB00] [] []
theorem witness_qcreate : (callOf 0x30 [6, 3, 0x800, 0xB00]).clean 4 = true ∧ (match queueing.agentCounter 1 0xB00 .rmw with
      | (u, .ok _) => (match u.agentRead 1 false 2 0xB00 16 with
        | (w, .ok pair) => w.qctrOk 1 0xB00 && recZero pair 0 16 && ((w.regionPath 1 0x800).any fun p => p.length == 1) && !w.qEnabled 1 && (w.mapRange 1 0x40000 0x41000 [(0x22200, 0x70002D)] ringLeaf).isSome
        | _ => false)
      | _ => false) = true := by decide +kernel
def destroying (tail : Nat) : State := { calledMap 0x31 [0] [] [] with mem := (calledMap 0x31 [0] [] []).mem.take 31 ++ cellsAt 0x30B00 [(0, 8, tail)] ++ (calledMap 0x31 [0] [] []).mem.drop 31 }
theorem witness_qdestroy : (callOf 0x31 [0]).clean 1 = true ∧ (destroying 0).qEnabled 0 = true ∧ (destroying 0).qAsid 0 = 1 ∧ (match (destroying 0).agentCounter 1 ((destroying 0).qQctr 0) .r with
      | (u, .ok pa) => let m := u.mergeBytes pa 8
        decide (m.qHead 0 = m.memRead pa 8)
      | _ => false) = true ∧ (match (destroying 1).agentCounter 1 ((destroying 1).qQctr 0) .r with
      | (u, .ok pa) => let m := u.mergeBytes pa 8
        decide (m.qHead 0 ≠ m.memRead pa 8)
      | _ => false) = true := by decide +kernel
theorem test_qdestroy : after (.qdestroy 9) (destroying 0) (fun t => (t.calls.map (·.result), t.qEnabled 0)) = some ([some 0], false) := by decide +kernel
theorem test_qdestroy_busy : after (.qdestroy 9) (destroying 1) (fun t => (t.calls.map (·.result), t.qEnabled 0)) = some ([some (-4)], true) := by decide +kernel

def sock1 : Sock := { id := 5, asid := 1, udp := false, nonblocking := true }
def socketCall (nr : Nat) (args : List Nat) (more : List (Nat × Nat × Nat)) : State := { calledWith nr args more with treg := { ctx1.treg with socks := [sock1] } }
theorem witness_sockets : (callOf 0x40 [1, 0]).clean 2 = true ∧ (socketCall 0x40 [1, 0] []).freshSock (callOf 0x40 [1, 0]) 6 = true ∧
    (∀ nr ∈ [0x41, 0x42, 0x43], (callOf nr [5, 0xC00]).clean 2 = true ∧ (socketCall nr [5, 0xC00] []).sockOf (callOf nr [5, 0xC00]) = some sock1) ∧ sockFailure sock1 0 = false ∧ sockFailure sock1 wouldBlock = true ∧
    (match (socketCall 0x41 [5, 0xC00] [(0, 2, 2)]).agentRead 1 false 2 0xC00 32 with
      | (_, .ok bs) => recField bs 0 2 == 2
      | _ => false) = true ∧ (socketCall 0x43 [6] []).sockOf (callOf 0x43 [6]) = none ∧ (callOf 0x44 [5]).clean 1 = true ∧ (socketCall 0x44 [5] []).freshSock (callOf 0x44 [5]) 6 = true ∧
    (socketCall 0x48 [5] []).sockOf (callOf 0x48 [5]) = some sock1 := by decide +kernel
theorem test_socket : after (.socket 9 6) (socketCall 0x40 [1, 0] []) (fun t => (t.calls.map (·.result), t.treg.socks.map fun k => (k.id, k.udp))) = some ([some 6], [(5, false), (6, true)]) := by decide +kernel
theorem test_bind : after (.bind 9 0) (socketCall 0x41 [5, 0xC00] [(0, 2, 2)]) (fun t => t.calls.map (·.result)) = some [some 0] ∧ after (.bind 9 wouldBlock) (socketCall 0x41 [5, 0xC00] []) (fun t => t.calls.map (·.result)) = some [some (-6)] := by
  decide +kernel
theorem test_connect : after (.connect 9 0) (socketCall 0x42 [5, 0xC00] [(0, 2, 10)]) (fun t => t.calls.map (·.result)) = some [some 0] := by decide +kernel
theorem test_listen_unknown : after (.listen 9 0) (socketCall 0x43 [6] []) (fun t => t.calls.map (·.result)) = some [some (-5)] := by decide +kernel
theorem test_accept : after (.accept 9 6) (socketCall 0x44 [5] []) (fun t => (t.calls.map (·.result), t.treg.socks.map fun k => (k.id, k.nonblocking))) = some ([some 6], [(5, true), (6, true)]) := by decide +kernel
theorem test_close : after (.close 9) (socketCall 0x48 [5] []) (fun t => (t.calls.map (·.result), t.treg.socks)) = some ([some 0], []) := by decide +kernel

theorem witness_send : (∀ m ∈ [0, 1], (callOf 0x45 [5, 0x1000, 4, 0xB80, m]).clean 5 = true) ∧ (match (socketCall 0x45 [5, 0x1000, 4, 0xB80, 0] []).agentRead 1 false 2 0x1000 4 with
      | (u, .ok bs) => decide (bs.length = 4) && (u.leavesIn 1 0x1000 0x1004).all fun l => !eQs l.entry && !u.rangeBusy l.frame l.bytes
      | _ => false) = true := by decide +kernel
theorem test_send_copies : after (.send 9 2) (socketCall 0x45 [5, 0xC00, 4, 0xB80, 1] [(0, 4, 0x04030201)]) (fun t => (t.calls.map (·.result), t.outbox.map fun r => (r.kind, r.bytes.drop 6))) = some ([some 2], [(0x45, [1, 2])]) := by decide +kernel
theorem test_send_lends : after (.send 9 4) (socketCall 0x45 [5, 0x1000, 4, 0xB80, 0] []) (fun t => (t.treg.lends.map (·.vpns), eW (t.memQ 0x22008), eCow (t.memQ 0x22008))) = some ([[1]], false, true) := by decide +kernel
def lent1 : Lend := { id := 3, asid := 1, vpns := [1], taken := [0x1000], added := [], counter := 0xB80 }
def lending : State := { socketCall 0x45 [] [] with treg := { ctx1.treg with lends := [lent1] } }
theorem witness_lend : lending.treg.lends.find? (fun l => l.id == 3) = some lent1 ∧ lent1.counter ≠ 0 ∧ (match lending.agentCounter 1 0xB80 .rmw with
    | (_, .ok pa) => pa == 0x30B80
    | _ => false) = true := by decide +kernel
theorem test_lend_end : after (.sendLendEnd 3) lending (fun t => (t.treg.lends, t.memRead 0x30B80 8)) = some ([], 1) := by decide +kernel
def recvPlan : List (Nat × DWord) := (List.range 16).map fun i => (0x22080 + 8 * i, BitVec.ofNat 64 (0x600225 + 4096 * i))
theorem witness_recv : (callOf 0x46 [5, 64, 0xB80]).clean 3 = true ∧ (match (socketCall 0x46 [5, 64, 0xB80] []).agentReach 1 0xB80 .w false with
    | (u, .ok _) => (u.mapRange 1 0x10000 0x10003 recvPlan fun l => eR l.entry && eUser l.entry && !eW l.entry && !eCow l.entry && !eX l.entry && !eQs l.entry && !ePeer l.entry && unpinned l).isSome
    | _ => false) = true := by decide +kernel
def received : State := { calledWith 0x47 [0x1000] [] with treg := { ctx1.treg with recvs := [(1, 0x1000, 3)] } }
theorem witness_return : (callOf 0x47 [0x1000]).clean 1 = true ∧ received.treg.recvs.find? (fun e => e.1 == 1 && e.2.1 == 0x1000) = some (1, 0x1000, 3) ∧ (received.unmapRange 1 0x1000 0x1003 [(0x22008, 0)]).isSome = true := by decide +kernel
theorem test_return : after (.returnRange 9 [(0x22008, 0)]) received (fun t => (t.calls.map (·.result), t.treg.recvs, t.memQ 0x22008)) = some ([some 0], [], 0) := by decide +kernel

/-! Render passes. -/

/-- A point at the middle of a target of 8 by 8 pixels of RGBA8, and the pass that draws it. -/
def point : PrimOut := { kind := 2, verts := [[(3, 0x3F800000)]] }
def pass1 (prims : List BinPrim) (arena : Nat := 2 ^ 20) : Pass :=
  { pointPass with
    prims := prims
    desc := cellsAt 0 [(0, 1, 1), (1, 1, 1), (8, 2, 7), (10, 2, 7), (24, 4, 0x41000000), (28, 4, 0x41000000), (36, 4, 0x3F800000), (40, 8, 0x900), (80, 8, arena), (128 + 8, 1, 2), (128 + 10, 1, 15), (272, 1, 16), (280, 2, 64), (282, 2, 1), (284, 2, 1), (286, 1, 1)]
    nextSeq := 0 }
def binned : BinPrim := { seq := 0, kind := 2, verts := point.verts, front := true, drawn := [] }
def geoLaunch : Launch := { loadedLaunch true with arrivals := [0xD00], path := [{ RegionItems.empty with rcb := 0x100000, warps := 64, rblk := 256, tileb := 64, sramKib := 512 }] }
def passing (p : Pass) : State := { ctx1 with launches := [geoLaunch], passes := [p], warp := Warp.empty, wgs := [], readyc := BitVec.allOnes 64 }
/-- The arena is one byte long, so that whatever size the vertex data has it is stored in page 0. -/
def committing : Pass := { pass1 [] 1 with waiting := [(0, 0, 1, [point])] }
def drawing : State := passing (pass1 [binned])
def fragDone (killed : Bool) : FragRec := { px := 4, py := 4, seq := 0, cover := 1, uid := 2, lane := 0, complete := true, killed := killed, exports := [{ lane := 0, tgt := 0, vals := [0x3F800000, 0, 0, 0x3F800000] }] }
def retiring (killed : Bool) : State := passing { pass1 [{ binned with drawn := [(0, 1)] }] with frags := [fragDone killed] }
theorem witness_commit_primitives : (passing committing).launchOf 1 = some geoLaunch ∧ (passing committing).passOf 1 = some committing ∧ committing.arena < committing.binSize ∧
    geoLaunch.skipClaimed (geoLaunch.claimed.length * geoLaunch.kd.warps) committing.committed = 0 ∧ committing.waiting.find? (fun e => geoLaunch.warpOrder e.1 e.2.1 == 0) = some (0, 0, 1, [point]) ∧
    ∀ n : Nat, (let size := Min.min n (committing.binSize - committing.arena)
      ((passing committing).canReach none geoLaunch .w (pagePieces (size / 4096 + 2) (committing.binMem + committing.arena) size)).2 = true) := by
  refine ⟨by decide +kernel, by decide +kernel, by decide +kernel, by decide +kernel, by decide +kernel, fun n => ?_⟩
  have small : ∀ k < 2, ((passing committing).canReach none geoLaunch .w (pagePieces (k / 4096 + 2) (committing.binMem + committing.arena) k)).2 = true := by decide +kernel
  have one : committing.binSize - committing.arena = 1 := by decide +kernel
  exact small _ (by rewrite [one]; omega)
theorem witness_replay : ({ pass1 [] with arena := 2 ^ 20 } : Pass).binSize ≤ 2 ^ 20 ∧ ({ pass1 [] with arena := 2 ^ 20 } : Pass).allDrawn = true := by decide +kernel
theorem witness_fragment_launch : (let s1 := drawing.readyBlocks 1 1
    geoLaunch.killed = false ∧ geoLaunch.complete = false ∧ s1.updating = false ∧ s1.readyc.getLsbD (drawing.binOwner 0 0) = true ∧ s1.withinBudget geoLaunch (pass1 [binned]).kernel.needs = true ∧ s1.blocksReady 1 1 = true ∧ (pass1 [binned]).reruns = [] ∧
    (match s1.leafPick (drawing.binOwner 0 0) (pass1 [binned]).kernel.coreNeeds with
      | some (core, _) => (match s1.takeQuads geoLaunch 0 ((pass1 [binned]).pending 0 0) [] with
        | (u, ts) => !ts.isEmpty && !(pickSlots (emptiest (u.slotsHeld core)) 1 0 (u.slotsHeld core)).isEmpty)
      | none => false) = true) := by decide +kernel
theorem witness_retire : (let p := { pass1 [{ binned with drawn := [(0, 1)] }] with frags := [fragDone false] }
    leastBy FragRec.seq (p.frags.filter fun f => f.px == 4 && f.py == 4) = some (fragDone false) ∧ (match (retiring false).canReach ((retiring false).owner 4 4) geoLaunch p.depthAcc (if p.earlyZ then [] else p.depthReach 4 4 1) with
      | (u, true) => (u.canReach (u.owner 4 4) geoLaunch .w (p.colourReach { fragDone false with cover := (u.fragTest geoLaunch p (fragDone false)).2 })).2 && (match u.aim (u.owner 4 4) geoLaunch (p.texelAddr (p.target 0 0 8) 4 4 4 0) 4 .w with
        | (_, some (.home pa)) => pa == 0x30410
        | _ => false)
      | _ => false) = true ∧ texelBytes (p.target 0 8 1) = 4) := by decide +kernel
theorem test_primitive_commit : (let q := committing.commitPrim point; (q.primSub, q.nextSeq, q.primBin, q.prims.map fun b => (b.kind, b.seq))) = (1, 1, 1, [(2, 0)]) := by decide +kernel
theorem test_arena_replay : after (.binArenaReplay 1) (passing { pass1 [] with arena := 2 ^ 20 }) (fun t => t.passes.map fun p => (p.arena, p.replays)) = some [(0, 1)] := by decide +kernel
theorem test_retire : after (.fragmentRetire 1 4 4) (retiring false) (fun t => (t.memRead 0x30410 4, t.passes.map fun p => (p.occ, p.frags.length))) = some (0xFF0000FF, [(1, 0)]) := by decide +kernel
theorem test_retire_killed : after (.fragmentRetire 1 4 4) (retiring true) (fun t => (t.memRead 0x30410 4, t.passes.map fun p => (p.occ, p.frags.length))) = some (0, [(0, 0)]) := by decide +kernel

/-! The device. -/

theorem witness_device : (0x70 ≠ 0x78) ∧ m0.sourceOk 11 0 = true ∧ m0.sourceOk 10 3 = true ∧ 3 < 8 * m0.dieCount ∧ m0.diePresent 0 = true ∧ m0.diePresent 7 = false := by decide +kernel
theorem test_pwrcap : after (.pwrcapWrite 50) m0 (fun t => t.pwrcap) = some 100 ∧ after (.deviceRegisterWrite true 0x78 5000) m0 (fun t => t.pwrcap) = some 1900 ∧ after (.deviceRegisterWrite true 0x58 5) m0 (fun t => t.qbase) = some 0 := by decide +kernel
theorem test_window_entry : after (.windowEntryWrite 1 2 7) m0 (fun t => rd t.ports 0x4050) = some 7 := by decide +kernel
theorem test_capture_clear : after (.captureCtlWrite 1 3) { m0 with monitors := [(1, { Monitor.zero with count := 5, sum := 6 })] } (fun t => ((t.monitor 1).ctl, (t.monitor 1).count, (t.monitor 1).min)) = some (1, 0, BitVec.allOnes 64) := by decide +kernel
/-- Monitor 0 on source 11 of instance 0, with linear bins of 4 from 8 on. -/
def monitored : State := { m0 with monitors := [(0, { Monitor.zero with ctl := BitVec.ofNat 64 (1 + 2 ^ 8 * 2 + 2 ^ 16 * 11), binBase := 8, min := BitVec.allOnes 64 })] }
theorem witness_monitor : monitored.sourceOk 11 0 = true ∧ (match SMap.find 0 monitored.monitors with
    | some x => x.ctl.getLsbD 0 && !x.ctl.getLsbD 2 && decide (field x.ctl 16 8 = 11) && decide (field x.ctl 32 16 = 0) && decide (x.binBase.toNat = 8)
    | none => false) = true := by decide +kernel
theorem test_capture_sample : after (.captureSample 11 0 13) monitored (fun t => ((t.monitor 0).count, (t.monitor 0).max, (t.monitor 0).bins, SMap.getD 0 t.temps 0)) = some (1, 13, [(2, 1)], 13) := by decide +kernel
theorem test_island_clock : after (.islandClockControl 3 900) m0 (fun t => SMap.getD 0 t.islandClk 3) = some 900 := by decide +kernel
theorem test_sensor : after (.i3cSensorRead 1) m0 (fun t => t.outbox.map fun r => (r.kind, r.bytes)) = some [(0x417, leBytes 8 1900)] := by decide +kernel

theorem witness_boot : m0.lifeState ≠ 4 ∧ State.lifeState { m0 with lcs := 4 } = 4 ∧ (let s : State := { m0 with readyf := 0x10 }
    s.diePresent 0 = true ∧ s.readyf.getLsbD 4 = true ∧ s.readyf.getLsbD 0 = false) ∧ 2 < field m0.sizecap 8 8 ∧ lifeNext 0 false true 1 = some 1 ∧ lifeNext 0 false false 1 = none ∧
    (let s : State := { m0 with readyf := 0x40000, ports := [(0x200000, 3)] }
     s.readyf.getLsbD 18 = true ∧ s.inDram (field (rd s.ports 0x200000) 21 27 * 2 ^ 21 + 0x200) = true ∧ (rd s.ports 0x200000).getLsbD 1 = true) ∧ ({ m0 with readyf := 0x100 } : State).svcReady 0 = true := by decide +kernel
theorem test_reset_parks : after .reset { m0 with lcs := 4 } (fun t => (t.readyf, t.readyc, t.mem, t.warps.length)) = some (0x20000, 0, [], 0) := by decide +kernel
theorem test_dram_wipe : after (.dramWipeDone 0) { m0 with readyf := 0xF0 } (fun t => t.readyf) = some 0xF1 := by decide +kernel
theorem test_link_training : after (.linkTraining 2 true) { m0 with readyf := 0x20000 } (fun t => (t.portstat, t.readyf)) = some (4, 0x820000) := by decide +kernel
theorem test_life_refused : after (.lifeCycleChange false false 1) { m0 with lcs := 0 } (fun t => (t.lifeState, t.outbox.map (·.error))) = some (0, [true]) := by decide +kernel
theorem test_aperture : after (.hostApertureWrite 0x200 [1, 2]) { m0 with readyf := 0x40000, ports := [(0x200000, 3)] } (fun t => t.memRead 0x200 2) = some 0x201 ∧
    after (.hostApertureRead (.bar2 0x10000) 1) { m0 with readyf := 0x40000, ports := [(0x200000, 1)] } (fun t => t.outbox.map (·.bytes)) = some [[1]] := by decide +kernel
theorem test_interrupt : after (.serviceCoreInterrupt 0 7) { sv 3 0 m0 with readyf := 0x100 } (fun t => ((t.svc 0).epc, (t.svc 0).cause)) = some (0x30000, 7) := by decide +kernel

theorem witness_update : ({ m0 with readyf := 0x20000, spdm := { versioned := true, session := true } } : State).readyf.getLsbD 17 = true ∧ field m0.updctl 1 3 = 0 ∧ (1 : DWord).getLsbD 0 = true ∧
    (let s : State := { m0 with wgs := [] }
     s.copyJobs = [] ∧ s.xfers = [] ∧ s.handover = none ∧ ∀ f, f < 16 → (s.fe f).prologue = none) ∧ field ({ m0 with updctl := 10, handover := some 0x700000 } : State).updctl 1 3 = 5 := by decide +kernel
theorem test_spdm_no_session : after (.negotiateAlgorithms true false) { m0 with readyf := 0x20000 } (fun t => (t.spdm.session, t.outbox.map (·.error))) = some (false, [true]) := by decide +kernel
theorem test_update_refused : after (.updctlGo 0x101 none) m0 (fun t => (field t.updctl 1 3, field t.updctl 8 32)) = some (1, 1) ∧
    after (.updctlGo 0 (some .badSignature)) { m0 with updctl := 0x102 } (fun t => (field t.updctl 1 3, field t.updctl 8 32)) = some (3, 1) := by decide +kernel
theorem witness_update_checks : field ({ m0 with updctl := 0x102 } : State).updctl 1 3 = 1 ∧ field ({ m0 with updctl := 0x104 } : State).updctl 1 3 = 2 := by decide +kernel
theorem test_bar_read : after (.hostApertureRead (.bar0 0x78) 8) m0 (fun t => t.outbox.map fun r => (r.error, r.bytes)) = some [(false, leBytes 8 1900)] := by decide +kernel
theorem test_qbase_in_use : after (.deviceRegisterWrite false 0x800000000058 0x30000) m0 (fun t => t.qbase) = some 0 ∧ after (.deviceRegisterWrite false 0x800000000058 0x800000) m0 (fun t => t.qbase) = some 0x800000 := by decide +kernel

/-! Steps. -/

theorem witness_step : (let u : State := { m0.tick with agenda := [] }
    let a := u.ages 0 (u.offers 0)
    m0.agenda = .part 0 :: [] ∧ (match a.choose 0 (u.offers 0) with
      | some w => (match w.parkMarked.pick a.wouldHold 128 with
        | (w', some n) => let f := (a.onWarp w.uid fun _ => w').select w.uid n true
          f.pendingTrap.isNone && (match f.nextGroup with
            | (v, .ok g) => !(v.openGroup g).grp.over && decide ((v.openGroup g).grp.instr = .nop)
            | _ => false)
        | _ => false)
      | none => false) = true) := by decide +kernel
/-- A prologue that is to issue the group at address 0. -/
def prologueRuns : State := { prologued 0 .waiting 0 with warps := [{ prologueAt 0 .waiting with solo := some { loadedHandler with wait := .none, fragMask := 1 } }], agenda := [.prologue 0] }
theorem witness_prologue_step : (let u : State := { prologueRuns.tick with agenda := [] }
    match u.allWarps.find? (fun w => w.kind == .prologue 0 && w.canIssue w.fragIx && w.frag.state != .trapped) with
    | some w => let f := u.select w.uid w.fragIx false
      f.pendingTrap.isNone && (match f.nextGroup with
        | (v, .ok g) => !(v.openGroup g).grp.over && decide ((v.openGroup g).grp.instr = .nop)
        | _ => false)
    | none => false) = true := by decide +kernel
theorem witness_service_step : (let s : State := { (({ sv 0x30080 3 (m0.memWrite 0x30000 4 0x00C5950B) with readyf := 0x100 } : State).tick) with agenda := [] }
    s.svcReady 0 = true ∧ (match s.svcFetch 0 with
      | (_, .word x) => decide (decodePsv x = some (.psvCwait 10 11 12))
      | _ => false) = true) ∧ encode (.pwrcapWrite 5) = none := by decide +kernel
/-- Service core 0 in M-mode at a word of RV64. -/
def svcAt (w : Nat) (mem : State) : State := { sv 0x30080 3 (mem.memWrite 0x30000 4 w) with readyf := 0x100, agenda := [.svc 0] }
/-- What a service core's step leaves in register x10, and its pc. -/
def svcStep (s : State) : Option (DWord × DWord) := match step s with
  | .next t => some ((t.svc 0).reg 10, (t.svc 0).pc)
  | _ => none
theorem witness_rv64_step : (let s : State := { (svcAt 0x00500513 m0).tick with agenda := [] }
    s.svcReady 0 = true ∧ (match s.svcFetch 0 with
      | (v, .word x) => decide (field x 0 7 ≠ 0x0B) && (v.rv64 0 x).isSome
      | _ => false) = true) := by decide +kernel
/-- ADDI x10, x0, 5; SRAI x10, x12, 1 of 3; LD x10, 0(x11); JAL x10, 16. -/
theorem test_rv64 : svcStep (svcAt 0x00500513 m0) = some (5, 0x30004) ∧ svcStep (svcAt 0x40165513 m0) = some (1, 0x30004) ∧ svcStep (svcAt 0x0005B503 (m0.memWrite 0x30080 8 7)) = some (7, 0x30004) ∧
    svcStep (svcAt 0x0100056F m0) = some (0x30004, 0x30010) := by decide +kernel
/-- SD x12, 0(x11); AMOADD.D x10, x12, (x11). -/
theorem test_rv64_memory : (match step (svcAt 0x00C5B023 m0) with
      | .next t => t.memRead 0x30080 8 == 3
      | _ => false) = true ∧ (match step (svcAt 0x00C5B52F (m0.memWrite 0x30080 8 7)) with
      | .next t => t.memRead 0x30080 8 == 10 && (t.svc 0).reg 10 == 7
      | _ => false) = true := by decide +kernel
/-- C.ADDI x10, 5; CLZ x10, x12 of 3; SH1ADD x10, x12, x12. -/
theorem test_rv64_more : svcStep (svcAt 0x0515 m0) = some (5, 0x30002) ∧ svcStep (svcAt 0x60061513 m0) = some (62, 0x30004) ∧ svcStep (svcAt 0x20C62533 m0) = some (9, 0x30004) := by decide +kernel
theorem witness_control_load : (let s := sv 0x800000000000 3 m0
    (s.svc 0).priv = 3 ∧ field (0x0005B503 : Word) 0 7 = 3 ∧ field (0x0005B503 : Word) 12 3 = 3 ∧ ((s.svc 0).reg ((0x0005B503 : Word).extractLsb' 15 5) + rvImmI 0x0005B503).toNat = 0x800000000000 + 0) := by decide +kernel
/-- LD x10, 0(x11) of DEVCAP (R393); SD x12, 0(x11) to SELFID (R422). -/
theorem test_rv64_control : (let at_ (a w : Nat) : State := { (svcAt w m0) with svcs := (sv a 3 m0).svcs }
    svcStep (at_ 0x800000000000 0x0005B503) = some (m0.devcap, 0x30004) ∧ (match step (at_ 0x800100000000 0x00C5B023) with
      | .next t => t.selfid == 3
      | _ => false) = true) := by decide +kernel
theorem witness_begun : (let g : Group := { m0.grp with word := 0x01000000, rep := some 0x01E000 }
    let s : State := { m0 with warp := { m0.warp with frag := { m0.warp.frag with group := some g, repcnt := 1 } } }
    s.begun.isSome = true) := by decide +kernel
theorem witness_fetch : (match m0.pre 0 .x with
    | (v, .ok place) => !placePeer place && !v.hasWord (icOf v.warp.core) (placePa place / 4) && !v.lineOwned (lineOf (placePa place))
    | _ => false) = true ∧ (match m0.fetchWord 0 with
    | (_, .word x) => x == 0x01000000
    | _ => false) = true := by decide +kernel
/-- A group that traps with a handler at 0x80, without one, and in a handler. -/
def vectored : State := { m0 with launches := m0.launches.map fun l => { l with path := [{ RegionItems.empty with rcb := 0x100000, trapvec := 0x80 }] } }
theorem witness_traps : (vectored.region vectored.warp.launch).trapvec ≠ 0 ∧ vectored.grp.solo = false ∧ vectored.warp.solo = none ∧ (m0.region m0.warp.launch).trapvec = 0 ∧ so.grp.solo = true ∧ so.warp.solo = some loadedHandler ∧
    (withHandler loadedHandler m0).grp.solo = false ∧ (withHandler loadedHandler m0).warp.solo = some loadedHandler ∧ loadedHandler.entry = so.warp.fragIx ∧ m0.gate (m0.alu3 0x10 etAny 0xF7 1 2) = some { code := 2, mask := m0.active, addr := 0, cause := 0 } ∧
    m0.warp.kind = .compute := by decide +kernel
theorem test_trap_vectored : after (.trap 9) vectored (fun t => (t.warp.frag.state, t.warp.solo.map fun h => (h.pc, h.trapPc, h.trapCode, h.fragMask))) = some (.trapped, some (0x80, 0, 0x12, BitVec.allOnes 64)) := by decide +kernel
theorem test_gate_order : after (.add 0xF7 1 2) vectored (fun t => t.warp.trapCode) = some 2 := by decide +kernel
theorem test_reset : State.reset.warps = [] ∧ State.reset.ptmo = 10000 ∧ State.reset.readyf = 0 ∧ Memory.wf State.reset.mem := by decide +kernel

/-! Further clauses. -/

/-- FP32 values that R138 names: a NaN, an infinity, a zero, a negative number, the powers 2 and 4 of 2, and 1.5. -/
theorem witness_special_values : fp32.input mf.md 0x7FC00000 = .nan ∧ fp32.input mf.md 0xFF800000 = .inf true ∧ (match fp32.input mf.md 0x80000000 with
      | .fin n m _ => n && m == 0
      | _ => false) = true ∧ fp32.input mf.md 0x40000000 = .fin false (2 ^ 23) (-22) ∧ fp32.input mf.md 0x40800000 = .fin false (2 ^ 23) (-21) ∧ fp32.input mf.md 0x3FC00000 = .fin false 0xC00000 (-23) ∧
    (∀ j, j < 24 → 0xC00000 ≠ 2 ^ j) ∧ fp32.narrow = false ∧ (typed 10 m0).et.kind = .fp fp16 ∧ fp16.narrow = true ∧ (-22 : Int) + 23 = 1 ∧ (-21 : Int) + 23 = 2 * 1 := by decide +kernel
theorem witness_special_exact : (Fv.fin false (2 ^ 23) (-22)).rat = (2 : Int) ∧ (Fv.fin false (2 ^ 23) (-21)).rat = ((1 : Nat) * (2 : ℚ) ^ (1 : Int)) ^ 2 ∧ ∀ k : Int, (Fv.fin false 0xC00000 (-23)).rat ≠ k := by
  refine ⟨by norm_num [Fv.rat], by norm_num [Fv.rat], fun k h => ?_⟩
  have h2 : (3 : ℚ) = 2 * k := by rw [← h]; norm_num [Fv.rat]
  have h3 : (3 : Int) = 2 * k := by exact_mod_cast h2
  omega
theorem witness_ulp : fp32.Ulp (Real.sqrt (Fv.fin false (2 ^ 23) (-21)).rat) (2 ^ (-22 : Int)) := by
  have h : Real.sqrt ((Fv.fin false (2 ^ 23) (-21)).rat : ℝ) = 2 := by
    rw [show ((Fv.fin false (2 ^ 23) (-21)).rat : ℝ) = 2 ^ 2 by norm_num [Fv.rat]]
    exact Real.sqrt_sq (by norm_num)
  refine ⟨1, ?_, ?_, by norm_num [fp32]⟩ <;> rw [h] <;> norm_num

/-- A JOIN and a BRX with operand `a` as A. -/
def mjb (a : Nat) : State := stored 4 4 (0x08C900C1 + 2 ^ 8 * a) { mb with grp := { mb.grp with lit := none } }
theorem witness_join_brx : (mjb 0xF1).Issues (j24Ins 0x0B) ∧ (match (mjb 2).fetchGroup { Group.empty with pc := (mjb 2).nextPc } with
    | (u, .ok g) => decide (g.instr = .brx 0xC9 2 0xC1) &&
        decide (State.Issues { u with grp := { g with pc := u.grp.pc, bytes := u.grp.bytes + g.bytes, join := some (u.target 9) } } { brxIns 0xC9 2 0xC1 with bad := classBit (2 : Code).toNat == clsLat })
    | _ => false) = true ∧ (match (mjb 0xF1).fetchGroup { Group.empty with pc := (mjb 0xF1).nextPc } with
    | (u, .ok g) => decide (g.instr = .brx 0xC9 0xF1 0xC1) && (State.gate { u with grp := { g with pc := u.grp.pc, bytes := u.grp.bytes + g.bytes, join := some (u.target 9) } } { brxIns 0xC9 0xF1 0xC1 with bad := classBit (0xF1 : Code).toNat == clsLat }).map (·.code) == some 2
    | _ => false) = true := by decide +kernel
/-- The join pair of `mj` splits, and so does a CALL of half of the lanes. -/
theorem witness_pair_splits : (match mj.fetchGroup { Group.empty with pc := mj.nextPc } with
    | (u, .ok g) => let p : State := { u with grp := { g with pc := u.grp.pc, bytes := u.grp.bytes + g.bytes, join := some (u.target 9) } }
      !p.grp.solo && decide (p.active ≠ 0) && decide (p.warp.frag.mask &&& ~~~p.active ≠ 0) && decide (p.target 5 ≠ p.nextPc) && (SMap.find (freeEntry u.warp.live) u.warp.live).isNone
    | _ => false) = true ∧ (partsOf ((lanesOf mb.fragMask).map fun l => (l, if l = 3 then (0x140 : DWord) else 0x100))).length = 2 ∧
    (let s := guarded 0xFF mc
     s.Issues { j24Ins 0x09 with bad := false } ∧ s.grp.solo = false ∧ s.warp.frag.mask &&& ~~~s.active ≠ 0 ∧ s.target 4 ≠ s.nextPc ∧ (SMap.find (freeEntry s.warp.live) s.warp.live).isNone ∧
     (match s.pre (s.k47 - 16) .w with
       | (u, .ok _) => decide (u.warp = s.warp) && decide (u.grp = s.grp) && !u.warp.holdsAt (s.k47 - 16).toNat 16
       | _ => false) = true) := by decide +kernel
/-- Nothing parked holds the addresses that BRX, RET, KLD, CWAIT, CPY, GETX and SYSC read, and none is a peer's; one that is traps. -/
theorem witness_not_held : m0.warp.frag.holds = [] ∧ (∀ va, va < 2 → ∀ n, n < 2 → m0.warp.holdsAt va n = false) ∧ mb.peerTrap [(0, 0x100, 0x30100)] laneBit = none ∧ m0.peerTrap [(0, 0x200, 0x30200)] (fun _ => m0.fragMask) = none ∧
    (m0.peerTrap [(0, 0x100, peerPlace)] laneBit).isSome = true ∧ ml.releaseBusy = false ∧ mw.releaseBusy = true ∧ m0.sliceBusy m0.selfOp (m0.selfReq 0x100 0x30100) = false := by decide +kernel
theorem witness_misaligned_more : (let s := lanes 2 [(0, 0x101), (1, 0x108)] ml
    s.Issues (s.loadIns 0x78 s.widthBytes 4 2 0) ∧ s.Issues (s.loadIns 0x79 s.widthBytes 4 2 0) ∧ s.Issues (s.storeIns 0x75 2 4 2 0) ∧ s.Issues (s.storeIns 0x7A s.widthBytes 4 2 0) ∧
    misaligned s.doers 2 (s.memAddr 2 0) ≠ 0 ∧ misaligned s.doers s.widthBytes (s.memAddr 2 0) ≠ 0) ∧ (let s := kreg 1 0x102 ma
    misaligned s.performers s.widthBytes (s.addr64 0xC1) ≠ 0 ∧ misaligned s.performers 256 (s.addr64 0xC1) ≠ 0 ∧ misaligned s.performers 8 (s.addr64Plain 0xC1) ≠ 0 ∧
    s.Issues { op := 0x81, d := .opd 4 0x17 (if s.wide then 2 else 1) (if s.wide then 2 else 1) true false, a := addr64F 0xC1 true, b := .imm, bad := decide (6 ≤ (0 : BitVec 3).toNat) || !atomType (0 : BitVec 3).toNat (wmEtype s.wm) } ∧
    s.Issues { op := 0x83, d := .opd 5 0x11 1 1 false true, a := addr64F 0xC1 true, b := .imm, preds := [2] } ∧
    s.Issues { op := 0x90, d := .opd 4 0x11 2 2 false true, a := addr64F 0xC1 false, b := .opd 0xC2 0x3F 1 1 true false }) ∧ (let s := lanes 2 [(0, 1), (1, 2000)] ms
    let off (l : Nat) : DWord := BitVec.ofNat 64 (s.sramOffset 2 l)
    misaligned s.active (s.sramBytes 2) off ≠ 0 ∧ misaligned s.performers (s.sramBytes 2) off ≠ 0 ∧ misaligned s.performers s.widthBytes off ≠ 0) ∧ (let s := lanes 2 [(0, 0), (1, 2000)] ms
    let off (l : Nat) : DWord := BitVec.ofNat 64 (s.sramOffset 2 l)
    misaligned s.performers (s.sramBytes 2) off = 0 ∧ misaligned s.performers s.widthBytes off = 0 ∧ s.sramSize < s.sramOffset 2 1 + 4 ∧ s.performers.getLsbD 1 = true) := by decide +kernel
/-- A page at 0x1000 that no access of a program may read or write. -/
theorem witness_refused_lane : (match (m0.memWrite 0x22008 8 0x400031).lookup 1 0x1000 with
    | .leaf lf => !eR lf.entry && !eW lf.entry && !eCow lf.entry && eUser lf.entry
    | _ => false) = true := by decide +kernel
theorem witness_mcas_looks : (match ma.clearElig.openLanes ma.performers (.mcas 5 2) (ma.addr64 0xC1) with
    | (u, ls, _) => !ls.isEmpty && ls.all fun l => l.live && u.mcasSees l) = true ∧ (let o := opWith (.store 4 false) [laneAt 1 0x104 0x30104 .request]
    match (holding o ma).openLanes ma.performers (.mcas 5 2) (ma.addr64 0xC1) with
    | (u, ls, _) => ls.any fun l => l.live && !u.mcasSees l) = true := by decide +kernel
/-- Lane 0 with a descriptor of 4 bytes of device 2's window 0, to this device, device 1 of a group; context 1 has credential 6. -/
def getter : State := credited { my with selfid := 0x101, ports := [(0x1008, 1), (0x1010, 1)] }
def getBlock : Nat := 1 + 2 ^ 16 * 2 + 2 ^ 24 + 2 ^ 192 * 4
theorem witness_transfer_record : xferOk true (leBytes 64 getBlock) = true ∧ getter.grouped = true ∧ getter.credOf getter.asid = 6 ∧ ({ getter with ports := [] } : State).credOf getter.asid = 0 ∧
    recField (leBytes 64 getBlock) 2 1 = 2 ∧ recField (leBytes 64 getBlock) 3 1 = 1 ∧ getter.peerValid 2 = true ∧ getter.peerValid 1 = true ∧ getter.selfId = 1 := by decide +kernel
theorem test_getx_asks : (let t := getter.submitXfers true 0xC8 [(0, getBlock)]
    (t.xfers.map fun x => (x.owner, x.recips, x.cred, x.len), t.outbox.map (·.kind))) = ([(2, [1], 6, 4)], [0x103]) := by decide +kernel
theorem witness_held_calls : (let s := holding (opWith (.store 4 false) [laneAt 0 0x100 0x30100 .request]) mz
    s.releaseBusy = true ∧ s.Issues syscIns ∧ misaligned s.performers 64 (s.addr64Plain 0xC8) = 0) ∧ ((mu.launchOf mu.warp.launch).any mu.budgetOwned) = false := by decide +kernel
theorem witness_bad_prim : (let s := lanes 3 [(0, 0xFFFFFFFF)] geo
    s.Issues primIns ∧ (maskOf fun l => s.performers.getLsbD l && !primOk (BitVec.ofNat 32 (s.src 3 false l))) ≠ 0) := by decide +kernel
theorem witness_tile_not_held : mr.laneHeld (.tileLoad 3 false false) [laneAt 1 0x200 0x30200 .request] = false ∧ mr.laneHeld (.tileStore 3 false false) [laneAt 1 0x200 0x30200 .request] = false := by decide +kernel
theorem witness_handler_more : (let s := so2 0 3 so
    s.Issues { op := 0xD3, d := .resv, a := hkSrc 1, b := hkSrc 2 } ∧ field (s.srcU 2) 0 2 = 3) ∧ (let s := so2 0xC000 0 so
    s.Issues { op := 0xD7, d := kDstF 3, a := hkSrc 1, b := .resv } ∧ field (s.srcU 1) 14 2 ≠ 0) ∧ (let s := stored 0x410 1 1 (mailbox so)
    (match s.pre 0x400 .rmw with
      | (u, .ok q) => !placePeer q && decide ((u.mergeBytes (placePa q) 64).memRead (placePa q + 16) 1 < 2)
      | _ => false) = true) := by decide +kernel
theorem witness_arrivals : (let l := laneAt 1 0x200 0x30200 .request
    [OpKind.store 4 false, .load .plain 4 false false 3, .atom 0 7 3, .cadd 3, .red 0 7 false, .mcas 3 1].all (fun k => let o := opWith k [l]
      let s := holding o m0
      s.arrives o l && !s.sliceBusy o l) = true) ∧ (m0.l2Set 0x30200).length < 16 ∧ (let first := { opWith (.store 4 false) [laneAt 1 0x200 0x30200 .request] with id := 4 }
    let o := opWith (.store 4 false) [laneAt 1 0x200 0x30200 .request]
    State.arrives { m0 with ops := [first, o] } o (laneAt 1 0x200 0x30200 .request) = false) := by decide +kernel
theorem witness_unowned : (watching 5).bytesOwned 0x30200 8 = false ∧ handWatching.bytesOwned 0x30200 8 = false ∧ (upcalled 1).bytesOwned 0x30440 32 = false ∧
    (upcalled 1).reachAs (some ((upcalled 1).asidOf (upcalled 1).warp.launch)) 0x440 .r ((upcalled 1).region (upcalled 1).warp.launch).system = some 0x30440 ∧
    (late.wgOf 1 0).any (fun g => g.pre == .running) = true := by decide +kernel
theorem witness_peer_times_out : (let l := { laneAt 1 0x200 peerPlace .request with since := 0 }
    let o := opWith (.load .plain 4 false false 3) [l]
    let s : State := { holding o m0 with clock := 10 ^ 8 }
    s.request 5 1 = some (o, l) ∧ placePeer l.pa = true ∧ l.since + 800 * s.ptmo.toNat ≤ s.clock ∧ (holding o m0).clock < l.since + 800 * (holding o m0).ptmo.toNat) := by decide +kernel
theorem witness_fresh : (match (({ m0 with readyf := 0xF } : State).planned 1 [(0x22028, 0x40103D)] fun _ _ _ => true) with
    | some u => decide ((({ m0 with readyf := 0xF } : State).writePlan [(0x22028, 0x40103D)]).newLeaves m0 1 ≠ []) && decide (u.memByte 0x401000 = 0)
    | none => false) = true := by decide +kernel
theorem witness_services_more : (match declaring.agentRead 1 false 2 0x900 64 with
      | (_, .ok kb) => recField kb 24 2 * recField kb 26 2 * recField kb 28 2 == 64
      | _ => false) = true ∧ (match declaring.agentRead 1 false 2 0xA00 64 with
      | (_, .ok kb) => recField kb 24 2 * recField kb 26 2 * recField kb 28 2 != 64
      | _ => false) = true ∧ ((pagesOf 0x40000 0x41000).all fun va => (queueing.allocOf 1 va).isNone) = true ∧
    (match (socketCall 0x46 [5, 64, 0xB80] []).reachRange 0 1 .w 2 0xB80 16 with
      | (u, .ok places) => (places.all fun p => !placePeer p.1) && !u.piecesOwned places && (pagesOf 0x10000 0x10003).all fun va => (u.allocOf 1 va).isNone
      | _ => false) = true := by decide +kernel
theorem witness_device_more : ({ m0 with readyf := 0x40000, ports := [(0x200000, 3)] } : State).hostQueue = [] ∧ ({ m0 with readyf := 0x40000, ports := [(0x200000, 3)] } : State).bytesOwned 0x200 2 = false ∧
    m0.rangeUsed 0x800000 (2 ^ 18) = false ∧ m0.rangeUsed 0x30000 (2 ^ 18) = true ∧ m0.windowWrites.any (fun w => w.svc == some 0) = false := by decide +kernel

end Sys2Proof.Tests
end

section
/-! SUPPORT. Masks built from a test of the lanes, and the write of a predicate (R20): what it leaves, and that it touches
nothing but the predicates. -/

namespace Sys2Proof.Machine

theorem getLsbD_maskOf (f : Nat → Bool) {l : Nat} (hl : l < 64) : (maskOf f).getLsbD l = f l := by
  rw [maskOf, BitVec.getLsbD_setWidth, BitVec.getLsbD_ofBoolListLE]
  simp [allLanes, hl]

theorem getLsbD_maskIn (m : Mask) (f : Nat → Bool) {l : Nat} (hl : l < 64) :
    (maskIn m f).getLsbD l = (m.getLsbD l && f l) := getLsbD_maskOf _ hl

/-- The predicates of a warp are those of its table. -/
theorem pred_congr {w u : Warp} (h : u.p = w.p) (n : Nat) : u.pred n = w.pred n := by
  simp only [Warp.pred, h]

@[simp] theorem setPred_v (w : Warp) (n : Nat) (m x : Mask) : (w.setPred n m x).v = w.v := by
  unfold Warp.setPred; split <;> rfl
@[simp] theorem setPred_k (w : Warp) (n : Nat) (m x : Mask) : (w.setPred n m x).k = w.k := by
  unfold Warp.setPred; split <;> rfl
@[simp] theorem setPred_lat (w : Warp) (n : Nat) (m x : Mask) : (w.setPred n m x).lat = w.lat := by
  unfold Warp.setPred; split <;> rfl

theorem setP_onlyRegs (s : State) (n : Nat) (m x : Mask) : s.OnlyRegs (s.setP n m x) :=
  ⟨rfl, by unfold State.setP Warp.setPred; split <;> rfl⟩

theorem setP_vl (s : State) (n : Nat) (m x : Mask) : s.SameVL (s.setP n m x) :=
  ⟨setPred_v s.warp n m x, setPred_lat s.warp n m x⟩

theorem setP_k (s : State) (n : Nat) (m x : Mask) : (s.setP n m x).warp.k = s.warp.k := setPred_k s.warp n m x

theorem setP_writesP (s : State) (n : Nat) (m x : Mask) : s.WritesP (s.setP n m x) n m x.getLsbD := by
  unfold State.setP Warp.setPred
  by_cases hn : n = 7
  · exact ⟨fun l _ h7 => absurd hn h7, fun k _ => by simp only [if_pos hn]⟩
  · simp only [if_neg hn]
    constructor
    · intro l hl _
      simp only [Warp.pred, if_neg hn, rd_wr_same]
      cases hm : m.getLsbD l <;> simp [-BitVec.getLsbD_eq_getElem, hm, hl]
    · intro k hk
      simp only [Warp.pred, rd_wr_other _ _ (hk.resolve_right hn)]

end Sys2Proof.Machine
end

section
/-! ADDX (R133). -/

namespace Sys2Proof.Machine

/-- A group whose effect is one `Dst` of the active lanes and one write of a predicate in them. -/
theorem exec_dst_setP {s : State} {i : Instr} {ins : Ins} {d : Code} {wide : Bool} {x : Nat → Nat} {p : Nat} {y : Mask}
    (hx : exec i s = .next (s.finish ins (.done ((s.dst d wide s.active x).setP p s.active y)))) (hs : s.grp.solo = false) :
    ∃ t, exec i s = .next t ∧ s.GroupDone t ins ∧ t.warp.k = s.warp.k ∧ s.WritesV t d wide s.active x ∧
      s.WritesLat t d s.active x ∧ s.WritesP t p s.active y.getLsbD := by
  have hregs := (dst_onlyRegs s d wide s.active x).trans (setP_onlyRegs _ p s.active y)
  obtain ⟨t, hnext, hdone, hv, hk, hp, hlat⟩ := exec_regs hx hs hregs
  obtain ⟨hk', hp'⟩ := dst_kp s d wide s.active x
  obtain ⟨hv', hlat'⟩ := setP_vl (s.dst d wide s.active x) p s.active y
  obtain ⟨hlanes, hothers⟩ := setP_writesP (s.dst d wide s.active x) p s.active y
  refine ⟨t, hnext, hdone, ?_, ?_, ?_, ?_, ?_⟩
  · rw [hk, setP_k, hk']
  · intro r l hl
    rw [hv, hv', dst_v s d wide s.active x r l hl]
  · intro q l hq hl
    rw [hlat, hlat', dst_lat s d wide s.active x q l hq hl]
  · intro l hl h7
    rw [pred_congr hp, hlanes l hl h7, pred_congr hp']
  · intro n hn
    rw [pred_congr hp, hothers n hn, pred_congr hp']

/-- Settles O3: the sum goes through `Dst` and the carry through the write of p6, and each leaves the other's registers alone. -/
theorem addWithCarry : Obligations.AddWithCarry := by
  intro s d a b h
  obtain ⟨t, hnext, hdone, hk, hv, hlat, hlanes, hothers⟩ :=
    exec_dst_setP ((exec_addx d a b s).trans (issue_runs h _)) (Issues.notSolo h rfl)
  refine ⟨t, hnext, hdone, hk, hv, hlat, ?_, fun n hn => hothers n (.inl hn)⟩
  intro l hl
  rw [hlanes l hl (by decide), getLsbD_maskIn _ _ hl]
  by_cases hm : s.active.getLsbD l <;> simp [hm]

end Sys2Proof.Machine
end

section
/-! HASH (R146). Each of its steps is an injection of the words: an addition, a product with an odd number, and the
exclusive or of a word with its own shift. -/

namespace Sys2Proof.Machine

/-- The step of HASH that mixes the high bits of a word into the low ones. -/
def xorShift {w : Nat} (k : Nat) (h : BitVec w) : BitVec w := h ^^^ (h >>> k)

theorem hashWord_eq (c key : Word) :
    hashWord c key = xorShift 15 (xorShift 12 (xorShift 15 (c + key * 0x9E3779B9) * 0x2C1B3C6D) * 0x297A2D39) := rfl

/-- Only zero is its own shift. -/
theorem eq_zero_of_eq_ushiftRight {w k : Nat} (hk : 0 < k) {x : BitVec w} (h : x = x >>> k) : x = 0#w := by
  have hdiv : x.toNat = x.toNat / 2 ^ k := by
    simpa [Nat.shiftRight_eq_div_pow] using congrArg BitVec.toNat h
  apply BitVec.eq_of_toNat_eq
  by_contra hne
  have hlt := Nat.div_lt_self (Nat.pos_of_ne_zero hne) (Nat.one_lt_two_pow hk.ne')
  omega

/-- The difference of two words with one image is its own shift. -/
theorem xorShift_injective {w k : Nat} (hk : 0 < k) : Function.Injective (xorShift (w := w) k) := by
  intro x y h
  have hdiff : (x ^^^ y) = (x ^^^ y) >>> k := by
    rw [BitVec.ushiftRight_xor_distrib]
    apply BitVec.xor_eq_zero_iff.1
    calc (x ^^^ y) ^^^ (x >>> k ^^^ y >>> k) = xorShift k x ^^^ xorShift k y := by unfold xorShift; ac_rfl
      _ = 0#w := BitVec.xor_eq_zero_iff.2 h
  exact BitVec.xor_eq_zero_iff.1 (eq_zero_of_eq_ushiftRight hk hdiff)

/-- The factors of HASH are odd, so each has an inverse modulo 2^32. -/
theorem hashWord_injective (key : Word) : Function.Injective fun c => hashWord c key := by
  have first : Function.Injective fun h : Word => h * 0x2C1B3C6D :=
    (IsUnit.of_mul_eq_one (0x64EA2D65 : Word) (by decide)).mul_left_injective
  have second : Function.Injective fun h : Word => h * 0x297A2D39 :=
    (IsUnit.of_mul_eq_one (0x0CF0B109 : Word) (by decide)).mul_left_injective
  simp only [hashWord_eq]
  exact (xorShift_injective (by decide)).comp <| second.comp <| (xorShift_injective (by decide)).comp <|
    first.comp <| (xorShift_injective (by decide)).comp <| add_left_injective (key * 0x9E3779B9)

/-- Settles O8: HASH is one `Dst`, and an injection of a finite type into itself is a bijection. -/
theorem hashIsBijective : Obligations.HashIsBijective := by
  refine ⟨?_, fun _ _ => rfl, by decide, fun key => Finite.injective_iff_bijective.1 (hashWord_injective key)⟩
  intro s d a b h
  exact writesVector_of ((exec_hash d a b s).trans (issue_runs h _)) (Issues.notSolo h rfl)

end Sys2Proof.Machine
end

section
/-! SUPPORT. Lane exchange (R150–R152): what `dstX` and `dstKX` leave of a latch, a v register and a k register, and a
group whose effect is one such write, or one write of a predicate. -/

namespace Sys2Proof.Machine

/-! Lanes. -/

theorem forLanes_zero {α : Type} (f : Nat → α → α) (a : α) : forLanes 0 f a = a := by
  simp [forLanes]

/-- One entry of a table after a write of the lanes of a mask. -/
theorem rd_forLanes_wr (t : SMap DWord) (n q l : Nat) (m : Mask) (x : Nat → DWord) (hl : l < 64) :
    rd (forLanes m (fun l t => wr t (n * 64 + l) (x l)) t) (q * 64 + l) =
      if q = n ∧ m.getLsbD l then x l else rd t (q * 64 + l) := by
  by_cases hq : q = n
  · subst hq
    simpa only [true_and] using rd_forLanes (fun t => t) (fun l t => wr t (q * 64 + l) (x l)) _ l (x l) hl
      (fun a => rd_wr_same a _ _) (fun l' a _ hne => rd_wr_other a _ (by omega)) m t
  · rw [if_neg (fun h => hq h.1)]
    exact forLanes_keeps (fun t => rd t (q * 64 + l)) _ (fun l' a h' => rd_wr_other a _ (by omega)) m t

/-! Destinations. -/

theorem dstX_latch (s : State) {d : Code} (h : 0xF0 ≤ d.toNat ∧ d.toNat ≤ 0xF3) (wide : Bool) (x : Nat → Nat) :
    s.dstX d wide x = { s with warp := { s.warp with
      lat := forLanes s.active (fun l t => wr t ((d.toNat - 0xF0) * 64 + l) (BitVec.ofNat 64 (x l))) s.warp.lat } } :=
  if_pos h

theorem dstX_other (s : State) {d : Code} (h : ¬(0xF0 ≤ d.toNat ∧ d.toNat ≤ 0xF3)) (wide : Bool) (x : Nat → Nat) :
    s.dstX d wide x = s.dst d wide s.active x := if_neg h

theorem dstX_onlyRegs (s : State) (d : Code) (wide : Bool) (x : Nat → Nat) : s.OnlyRegs (s.dstX d wide x) := by
  by_cases h : 0xF0 ≤ d.toNat ∧ d.toNat ≤ 0xF3
  · rw [dstX_latch s h]; exact ⟨rfl, rfl⟩
  · rw [dstX_other s h]; exact dst_onlyRegs ..

theorem dstX_kp (s : State) (d : Code) (wide : Bool) (x : Nat → Nat) : s.SameKP (s.dstX d wide x) := by
  by_cases h : 0xF0 ≤ d.toNat ∧ d.toNat ≤ 0xF3
  · rw [dstX_latch s h]; exact ⟨rfl, rfl⟩
  · rw [dstX_other s h]; exact dst_kp ..

theorem dstX_v (s : State) (d : Code) (wide : Bool) (x : Nat → Nat) :
    s.WritesV (s.dstX d wide x) d wide s.active x := by
  by_cases h : 0xF0 ≤ d.toNat ∧ d.toNat ≤ 0xF3
  · intro r l _
    rw [dstX_latch s h, if_neg (by omega)]
  · rw [dstX_other s h]; exact dst_v s d wide s.active x

theorem dstX_lat (s : State) (d : Code) (wide : Bool) (x : Nat → Nat) :
    s.WritesLatLanes (s.dstX d wide x) d s.active x := by
  intro q l hq hl
  by_cases h : 0xF0 ≤ d.toNat ∧ d.toNat ≤ 0xF3
  · have hlatch : q = d.toNat - 0xF0 ↔ d.toNat = 0xF0 + q := by omega
    rw [dstX_latch s h]
    simp only [rd_forLanes_wr _ _ _ _ _ _ hl, hlatch]
  · have hlatch : d.toNat ≠ 0xF0 + q := by omega
    rw [dstX_other s h, dst_lat s d wide s.active x q l hq hl, if_neg hlatch, if_neg (fun e => hlatch e.1)]

theorem dstX_of_active_zero {s : State} (h : s.active = 0) (d : Code) (wide : Bool) (x : Nat → Nat) :
    s.dstX d wide x = s := by
  unfold State.dstX State.dst
  simp only [h, forLanes_zero]
  split
  · rfl
  · split
    · rfl
    · rfl

theorem dstKX_of_active_zero {s : State} (h : s.active = 0) (d : Code) (wide : Bool) (x : Nat) : s.dstKX d wide x = s :=
  if_pos h

theorem dstKX_k {s : State} (h : s.active ≠ 0) {d : Code} (hd : 0xC0 ≤ d.toNat ∧ d.toNat ≤ 0xEF) (wide : Bool) (x : Nat) :
    s.dstKX d wide x = s.setK d (BitVec.ofNat 64 x) := by
  rw [State.dstKX, if_neg h, if_pos hd]

theorem dstKX_lanes (s : State) {d : Code} (hd : ¬(0xC0 ≤ d.toNat ∧ d.toNat ≤ 0xEF)) (wide : Bool) (x : Nat) :
    s.dstKX d wide x = s.dstX d wide fun _ => x := by
  by_cases h : s.active = 0
  · rw [dstKX_of_active_zero h, dstX_of_active_zero h]
  · rw [State.dstKX, if_neg h, if_neg hd]

theorem setK_k (s : State) {d : Code} (hd : 0xC0 ≤ d.toNat ∧ d.toNat ≤ 0xEF) (x : DWord) :
    s.setK d x = { s with warp := { s.warp with k := wr s.warp.k (d.toNat - 0xC0) x } } := by
  rw [State.setK, if_neg (by omega), if_pos hd]

/-! Groups of one write. -/

theorem writesExchange_of {s : State} {i : Instr} {ins : Ins} {d : Code} {wide : Bool} {x : Nat → Nat}
    (hx : exec i s = .next (s.finish ins (.done (s.dstX d wide x)))) (hs : s.grp.solo = false) :
    s.WritesExchange i ins d wide x := by
  obtain ⟨t, hnext, hdone, hv, hk, hp, hlat⟩ := exec_regs hx hs (dstX_onlyRegs s d wide x)
  obtain ⟨hk', hp'⟩ := dstX_kp s d wide x
  refine ⟨t, hnext, hdone, ⟨hk.trans hk', hp.trans hp'⟩, ?_, ?_⟩
  · intro r l hl; rw [hv]; exact dstX_v s d wide x r l hl
  · intro q l hq hl; rw [hlat]; exact dstX_lat s d wide x q l hq hl

theorem writesUniform_of {s : State} {i : Instr} {ins : Ins} {d : Code} {x : DWord}
    (hx : exec i s = .next (s.finish ins (.done (s.setK d x)))) (hs : s.grp.solo = false)
    (hd : 0xC0 ≤ d.toNat ∧ d.toNat ≤ 0xEF) : s.WritesUniform i ins d x := by
  rw [setK_k s hd] at hx
  obtain ⟨t, hnext, hdone, hv, hk, hp, hlat⟩ := exec_regs hx hs ⟨rfl, rfl⟩
  refine ⟨t, hnext, hdone, ⟨hv, hlat⟩, hp, fun n => ?_⟩
  have hn : n = d.toNat - 0xC0 ↔ d.toNat = 0xC0 + n ∧ d.toNat ≤ 0xEF := by omega
  simp only [hk, rd_wr, hn]

/-- A group that writes registers, none a predicate, and then one predicate. -/
theorem exec_regs_setP {s u : State} {i : Instr} {ins : Ins} {p : Nat} {m y : Mask}
    (hx : exec i s = .next (s.finish ins (.done (u.setP p m y)))) (hs : s.grp.solo = false) (hu : s.OnlyRegs u)
    (hup : u.warp.p = s.warp.p) :
    ∃ t, exec i s = .next t ∧ s.GroupDone t ins ∧ t.warp.v = u.warp.v ∧ t.warp.k = u.warp.k ∧ t.warp.lat = u.warp.lat ∧
      s.WritesP t p m y.getLsbD := by
  obtain ⟨t, hnext, hdone, hv, hk, hp, hlat⟩ := exec_regs hx hs (hu.trans (setP_onlyRegs u p m y))
  obtain ⟨hv', hlat'⟩ := setP_vl u p m y
  obtain ⟨hlanes, hothers⟩ := setP_writesP u p m y
  refine ⟨t, hnext, hdone, hv.trans hv', hk.trans (setP_k u p m y), hlat.trans hlat', ?_, ?_⟩
  · intro l hl h7
    rw [pred_congr hp, hlanes l hl h7, pred_congr hup]
  · intro n hn
    rw [pred_congr hp, hothers n hn, pred_congr hup]

/-- A lane exchange that writes a predicate too. -/
theorem exec_dstX_setP {s : State} {i : Instr} {ins : Ins} {d : Code} {wide : Bool} {x : Nat → Nat} {p : Nat} {y : Mask}
    (hx : exec i s = .next (s.finish ins (.done ((s.dstX d wide x).setP p s.active y)))) (hs : s.grp.solo = false) :
    ∃ t, exec i s = .next t ∧ s.GroupDone t ins ∧ t.warp.k = s.warp.k ∧ s.WritesV t d wide s.active x ∧
      s.WritesLatLanes t d s.active x ∧ s.WritesP t p s.active y.getLsbD := by
  obtain ⟨hk, hp⟩ := dstX_kp s d wide x
  obtain ⟨t, hnext, hdone, hv, hk', hlat, hpred⟩ := exec_regs_setP hx hs (dstX_onlyRegs s d wide x) hp
  refine ⟨t, hnext, hdone, hk'.trans hk, ?_, ?_, hpred⟩
  · intro r l hl; rw [hv]; exact dstX_v s d wide x r l hl
  · intro q l hq hl; rw [hlat]; exact dstX_lat s d wide x q l hq hl

/-- Only the bits of the lanes written count. -/
theorem WritesP.of_lanes {s t : State} {p : Nat} {m : Mask} {x y : Nat → Bool} (h : s.WritesP t p m y)
    (hxy : ∀ l, l < 64 → m.getLsbD l = true → y l = x l) : s.WritesP t p m x := by
  obtain ⟨hlanes, hothers⟩ := h
  refine ⟨fun l hl h7 => ?_, hothers⟩
  rw [hlanes l hl h7]
  split
  · next hm => exact hxy l hl hm
  · rfl

theorem writesPredicate_of {s : State} {i : Instr} {ins : Ins} {p : Nat} {m y : Mask} {x : Nat → Bool}
    (hx : exec i s = .next (s.finish ins (.done (s.setP p m y)))) (hs : s.grp.solo = false)
    (hxy : ∀ l, l < 64 → m.getLsbD l = true → y.getLsbD l = x l) : s.WritesPredicate i ins p m x := by
  obtain ⟨t, hnext, hdone, hv, hk, hlat, hp⟩ := exec_regs_setP hx hs (.refl s) rfl
  exact ⟨t, hnext, hdone, ⟨hv, hlat⟩, hk, WritesP.of_lanes hp hxy⟩

end Sys2Proof.Machine
end

section
/-! SHFL (R153). A selector gives a place in the lane's segment; the place may lie outside it. -/

namespace Sys2Proof.Machine

/-! Source lanes. -/

/-- The width of the segments that a selector asks for. -/
def segWidth (sel : Nat) : Nat := 64 / 2 ^ min (sel / 2 ^ 8 % 8) 5

/-- Lane `t` of the segment of width `g` that holds lane `l`, if it has one. -/
def segLane (g l : Nat) (t : Int) : Option Nat := if 0 ≤ t ∧ t < g then some (l - l % g + t.toNat) else none

theorem segWidth_eq_two_pow (sel : Nat) : ∃ k, segWidth sel = 2 ^ k :=
  ⟨6 - min (sel / 2 ^ 8 % 8) 5,
    Nat.pow_div (x := 2) (m := 6) (n := min (sel / 2 ^ 8 % 8) 5) (by omega) (by decide)⟩

theorem segWidth_pos (sel : Nat) : 0 < segWidth sel := by
  obtain ⟨k, hk⟩ := segWidth_eq_two_pow sel
  exact hk ▸ Nat.two_pow_pos k

theorem segLane_ofNat (g l t : Nat) : segLane g l t = if t < g then some (l - l % g + t) else none := by
  simp [segLane]

/-- SEGW and N lie in the low 32 bits of the selector. -/
theorem selector_low (sel : Nat) : sel % 2 ^ 32 / 256 % 8 = sel / 2 ^ 8 % 8 ∧ sel % 2 ^ 32 % 64 = sel % 64 := by omega

theorem shflLane_pick (l sel : Nat) :
    shflLane 0 l (sel % 2 ^ 32) = segLane (segWidth sel) l ((sel % 64 % segWidth sel : Nat) : Int) := by
  rw [segLane_ofNat, if_pos (Nat.mod_lt _ (segWidth_pos sel))]
  simp only [shflLane, selector_low]
  rfl

theorem shflLane_low (l sel : Nat) :
    shflLane 1 l (sel % 2 ^ 32) = segLane (segWidth sel) l (((l % segWidth sel : Nat) : Int) - (sel % 64 : Nat)) := by
  have ho := Nat.mod_lt l (segWidth_pos sel)
  simp only [shflLane, selector_low]
  change (if sel % 64 ≤ l % segWidth sel then some (l - l % segWidth sel + (l % segWidth sel - sel % 64)) else none) = _
  generalize sel % 64 = n, segWidth sel = g at ho ⊢
  by_cases hn : n ≤ l % g
  · rw [if_pos hn, ← Nat.cast_sub hn, segLane_ofNat, if_pos (by omega)]
  · rw [if_neg hn, segLane, if_neg (by omega)]

theorem shflLane_high (l sel : Nat) :
    shflLane 2 l (sel % 2 ^ 32) = segLane (segWidth sel) l (((l % segWidth sel : Nat) : Int) + (sel % 64 : Nat)) := by
  rw [← Nat.cast_add, segLane_ofNat]
  simp only [shflLane, selector_low]
  rfl

theorem shflLane_flip (l sel : Nat) :
    shflLane 3 l (sel % 2 ^ 32) = segLane (segWidth sel) l ((l % segWidth sel ^^^ (sel % 64 % segWidth sel) : Nat) : Int) := by
  have hin : l % segWidth sel ^^^ (sel % 64 % segWidth sel) < segWidth sel := by
    obtain ⟨k, hk⟩ := segWidth_eq_two_pow sel
    have hpos := segWidth_pos sel
    rw [hk] at hpos ⊢
    exact Nat.xor_lt_two_pow (Nat.mod_lt _ hpos) (Nat.mod_lt _ hpos)
  rw [segLane_ofNat, if_pos hin]
  simp only [shflLane, selector_low]
  rfl

/-! Values. -/

/-- What lane `l` receives from place `t` of its segment. -/
def State.shflValue (s : State) (a b : Code) (l : Nat) (t : Int) : Nat :=
  let g := segWidth (s.src b s.wide l)
  if 0 ≤ t ∧ t < g ∧ s.active.getLsbD (l - l % g + t.toNat) then s.src a s.wide (l - l % g + t.toNat) else s.src a s.wide l

theorem shfl_eq_dstX {s : State} {mode : Nat} {b : Code} {t : Nat → Int}
    (ht : ∀ l, shflLane mode l (s.src b s.wide l % 2 ^ 32) = segLane (segWidth (s.src b s.wide l)) l (t l)) (d a : Code) :
    s.shfl mode d a b = s.dstX d s.wide fun l => s.shflValue a b l (t l) := by
  unfold State.shfl
  simp only
  congr 1
  funext l
  rw [ht l]
  unfold segLane State.shflValue
  by_cases hin : 0 ≤ t l ∧ t l < segWidth (s.src b s.wide l)
  · obtain ⟨hlo, hhi⟩ := hin
    simp only [hlo, hhi, and_self, true_and, if_true]
  · rw [if_neg hin, if_neg (fun h => hin ⟨h.1, h.2.1⟩)]

theorem shfl_writes {s : State} {i : Instr} {op mode : Nat} {d a b : Code} {t : Nat → Int}
    (hx : exec i s = s.issue (s.shflIns op d a b) fun s => .done (s.shfl mode d a b)) (hop : soloAllowed op = false)
    (ht : ∀ l, shflLane mode l (s.src b s.wide l % 2 ^ 32) = segLane (segWidth (s.src b s.wide l)) l (t l))
    (h : s.Issues (s.shflIns op d a b)) :
    s.WritesExchange i (s.shflIns op d a b) d s.wide fun l => s.shflValue a b l (t l) := by
  rw [issue_runs h, shfl_eq_dstX ht] at hx
  exact writesExchange_of hx (Issues.notSolo h hop)

/-! A k destination. -/

/-- An instruction that no handler may run is legal in a fragment only (R258). -/
theorem notSolo_of_legal {s : State} {i : Ins} (h : s.illegal i = false) (hop : soloAllowed i.op = false) :
    s.grp.solo = false := by
  by_contra hs
  simp [State.illegal, hs, hop] at h

theorem dstF_bad_of_k {d : Code} (hlo : 0xC0 ≤ d.toNat) (hhi : d.toNat ≤ 0xEF) (wide : Bool) (valid : BitVec 4) :
    (dstF d wide).bad false valid = true := by
  have hclass : classBit d.toNat = 2 := by
    rw [classBit, if_neg (by omega), if_pos hhi]
  simp [Fld.bad, dstF, hclass]

/-- The refusal is step 4 of R88, after the checks of the opcode and of the unit. -/
theorem shfl_traps_on_k {s : State} {i : Instr} {op : Nat} {d a b : Code} {eff : State → Eff}
    (hx : exec i s = s.issue (s.shflIns op d a b) eff) (hop : soloAllowed op = false) (hunit : unitBit op = none)
    (hlo : 0xC0 ≤ d.toNat) (hhi : d.toNat ≤ 0xEF) (h : s.illegal (s.shflIns op d a b) = false) :
    exec i s = .next (s.takeTrap { code := 0x02, mask := s.active, addr := 0, cause := 0 }) := by
  have hsolo := notSolo_of_legal h hop
  have habsent : s.absent (s.shflIns op d a b) = false := by simp [State.absent, State.shflIns, hunit]
  have hbad : s.badOperand (s.shflIns op d a b) = true := by
    simp [State.badOperand, State.shflIns, hsolo, dstF_bad_of_k hlo hhi]
  rw [hx]
  exact issue_traps (by simp [State.gate, h, habsent, hbad]) eff

/-- Settles O9: each mode names a place of the segment, which `shflLane` turns into a lane. -/
theorem shuffleResults : Obligations.ShuffleResults := by
  intro s d a b
  refine ⟨shfl_writes (exec_shflPick d a b s) rfl fun l => shflLane_pick l _,
    shfl_writes (exec_shflLow d a b s) rfl fun l => shflLane_low l _,
    shfl_writes (exec_shflHigh d a b s) rfl fun l => shflLane_high l _,
    shfl_writes (exec_shflFlip d a b s) rfl fun l => shflLane_flip l _, ?_⟩
  intro bad hlo hhi
  exact ⟨shfl_traps_on_k (exec_shflPick d a b s) rfl rfl hlo hhi, shfl_traps_on_k (exec_shflLow d a b s) rfl rfl hlo hhi,
    shfl_traps_on_k (exec_shflHigh d a b s) rfl rfl hlo hhi, shfl_traps_on_k (exec_shflFlip d a b s) rfl rfl hlo hhi⟩

end Sys2Proof.Machine
end

section
/-! Votes, matches and reductions (R154–R157). -/

namespace Sys2Proof.Machine

/-! Masks. -/

theorem mem_lanesOf {m : Mask} {l : Nat} : l ∈ lanesOf m ↔ l < 64 ∧ m.getLsbD l = true := by
  rw [lanesOf, List.mem_filter, mem_allLanes]

theorem maskIn_ne_zero (m : Mask) (f : Nat → Bool) : (maskIn m f != 0) = (lanesOf m).any f := by
  rw [Bool.eq_iff_iff, bne_iff_ne, List.any_eq_true]
  constructor
  · intro h
    by_contra hnone
    refine h (BitVec.eq_of_getLsbD_eq fun l hl => ?_)
    rw [getLsbD_maskIn m f hl, show (0 : Mask).getLsbD l = false from BitVec.getLsbD_zero, Bool.and_eq_false_imp]
    exact fun hm => Bool.eq_false_iff.2 fun hf => hnone ⟨l, mem_lanesOf.2 ⟨hl, hm⟩, hf⟩
  · rintro ⟨l, hmem, hf⟩ h
    obtain ⟨hl, hm⟩ := mem_lanesOf.1 hmem
    have hbit := getLsbD_maskIn m f hl
    simp [h, hm, hf] at hbit

theorem maskIn_eq_self (m : Mask) (f : Nat → Bool) : (maskIn m f == m) = (lanesOf m).all f := by
  rw [Bool.eq_iff_iff, beq_iff_eq, List.all_eq_true]
  constructor
  · intro h l hmem
    obtain ⟨hl, hm⟩ := mem_lanesOf.1 hmem
    have hbit := getLsbD_maskIn m f hl
    rw [h, hm, Bool.true_and] at hbit
    exact hbit.symm
  · intro h
    refine BitVec.eq_of_getLsbD_eq fun l hl => ?_
    rw [getLsbD_maskIn m f hl, Bool.and_eq_left_iff_imp]
    exact fun hm => h l (mem_lanesOf.2 ⟨hl, hm⟩)

theorem head?_lanesOf (m : Mask) : (lanesOf m).head? = lowest m := List.head?_filter

/-! VOTE. -/

/-- The source bit of lane `l` (R154). -/
def State.voteBit (s : State) (n : BitVec 1) (q : BitVec 3) (l : Nat) : Bool :=
  (s.warp.pred q.toNat).getLsbD l != (n == 1)

theorem voteBits_eq_maskIn (s : State) (n : BitVec 1) (q : BitVec 3) :
    s.voteBits n q = maskIn s.active (s.voteBit n q) := by
  apply BitVec.eq_of_getLsbD_eq
  intro l hl
  rw [getLsbD_maskIn _ _ hl]
  unfold State.voteBits State.voteBit
  by_cases hn : n = 1
  · subst hn
    simp only [if_true, BitVec.getLsbD_and, BitVec.getLsbD_not, hl, decide_true, Bool.true_and, beq_self_eq_true,
      Bool.bne_true]
  · simp only [if_neg hn, BitVec.getLsbD_and, beq_false_of_ne hn, Bool.bne_false]

theorem writesPredicate_of_setPAll {s : State} {i : Instr} {ins : Ins} {p : Nat} {b : Bool}
    (hx : exec i s = .next (s.finish ins (.done (s.setPAll p b)))) (hs : s.grp.solo = false) :
    s.WritesPredicate i ins p s.active fun _ => b :=
  writesPredicate_of hx hs fun l hl _ => by cases b <;> simp [-BitVec.getLsbD_eq_getElem, -BitVec.reduceAllOnes, hl]

/-- R156: the integer sum is one `Sat` of the exact sum. -/
theorem combine_add_int {s : State} {sg : Bool} (h : s.et.kind = .int sg) (xs : List Nat) :
    s.combine 0 xs = satInt s.et.w sg s.md.sat (xs.map (intValue s.et.w sg)).sum := by
  simp only [State.combine, h, State.satElem, List.sum_eq_foldl, List.foldl_map]

/-! The groups. -/

section
variable {s : State} {i : Instr} {ins : Ins} {d : Code} {wide : Bool} {x : Nat}
  (hx : exec i s = .next (s.finish ins (.done (s.dstKX d wide x))))
include hx

/-- A lane exchange whose destination may be a k register (R151, R152). -/
theorem dstKX_falls_through (h : s.active = 0) : exec i s = .next (s.fellThrough ins) := by
  rw [hx, dstKX_of_active_zero h, finish_done rfl]

theorem dstKX_writesExchange (hs : s.grp.solo = false) (hd : ¬(0xC0 ≤ d.toNat ∧ d.toNat ≤ 0xEF)) :
    s.WritesExchange i ins d wide fun _ => x := by
  rw [dstKX_lanes s hd] at hx
  exact writesExchange_of hx hs

theorem dstKX_writesUniform (hs : s.grp.solo = false) (h : s.active ≠ 0) (hlo : 0xC0 ≤ d.toNat) (hhi : d.toNat ≤ 0xEF) :
    s.WritesUniform i ins d (BitVec.ofNat 64 x) := by
  rw [dstKX_k h ⟨hlo, hhi⟩] at hx
  exact writesUniform_of hx hs ⟨hlo, hhi⟩

end

/-- Settles O10: VOTE and ELECT are one write of a predicate, VOTE.BALLOT and REDUX one of a destination that may be a k register,
SCAN and MATCH one of the lanes, to which MATCH with LE adds a predicate. -/
theorem votesMatchesReductions : Obligations.VotesMatchesReductions := by
  refine ⟨?_, ?_⟩
  · intro s d a n l q p bitOf any all elect ballot matchIns votes equals
    have hany : (s.voteBits n q != 0) = (lanesOf s.active).any bitOf := by
      rw [voteBits_eq_maskIn]; exact maskIn_ne_zero ..
    have hall : (s.voteBits n q == s.active) = (lanesOf s.active).all bitOf := by
      rw [voteBits_eq_maskIn]; exact maskIn_eq_self ..
    refine ⟨?_, ?_, ?_, ?_, ?_, ?_, ?_, ?_⟩
    · intro h
      rw [← hany]
      exact writesPredicate_of_setPAll ((exec_voteAny p n q s).trans (issue_runs h _)) (Issues.notSolo h rfl)
    · intro h
      rw [← hall]
      exact writesPredicate_of_setPAll ((exec_voteAll p n q s).trans (issue_runs h _)) (Issues.notSolo h rfl)
    · intro h
      refine writesPredicate_of ((exec_elect p s).trans (issue_runs h _)) (Issues.notSolo h rfl) fun l hl hm => ?_
      rw [getLsbD_maskIn _ _ hl, hm, Bool.true_and, head?_lanesOf]
    · intro h
      exact dstKX_falls_through ((exec_voteBallot d n q s).trans (issue_runs h _))
    · intro h hd _
      exact dstKX_writesExchange ((exec_voteBallot d n q s).trans (issue_runs h _)) (Issues.notSolo h rfl) hd
    · intro h hlo hhi hm
      have := dstKX_writesUniform ((exec_voteBallot d n q s).trans (issue_runs h _)) (Issues.notSolo h rfl) hm hlo hhi
      rwa [BitVec.ofNat_toNat, BitVec.setWidth_eq] at this
    · rintro h rfl
      exact writesExchange_of ((exec_matchLanes d a 0 p s).trans (issue_runs h _)) (Issues.notSolo h rfl)
    · rintro h rfl
      obtain ⟨t, hnext, hdone, hk, hv, hlat, hp⟩ :=
        exec_dstX_setP ((exec_matchLanes d a 1 p s).trans (issue_runs h _)) (Issues.notSolo h rfl)
      refine ⟨t, hnext, hdone, hk, hv, hlat, WritesP.of_lanes hp fun i hi hm => ?_⟩
      rw [getLsbD_maskIn _ _ hi, hm, Bool.true_and]
      rfl
  · intro s d a e o redux scan all
    refine ⟨?_, ?_, ?_, ?_, fun sg xs h => combine_add_int h xs⟩
    · intro h hd
      exact dstKX_writesExchange ((exec_redux d a o s).trans (issue_runs h _)) (Issues.notSolo h rfl) hd
    · intro h hlo hhi hm
      exact dstKX_writesUniform ((exec_redux d a o s).trans (issue_runs h _)) (Issues.notSolo h rfl) hm hlo hhi
    · intro h
      exact writesExchange_of ((exec_scan d a e o s).trans (issue_runs h _)) (Issues.notSolo h rfl)
    · intro h
      exact dstKX_falls_through ((exec_redux d a o s).trans (issue_runs h _))

end Sys2Proof.Machine
end
